-- ==== Sys2Proof/Word.lean ====
section
/-! DEFINITION. The word types of the JV2 and their plainest arithmetic: 32-bit register words, bytes, tick counts,
bit fields of a word, saturating counters and clamps (00 "Numbers, bits and units"). -/
namespace Sys2Proof

/-- A register word (00: registers are 32 bits). -/
abbrev Word := BitVec 32

/-- One byte of a memory. -/
abbrev Byte := BitVec 8

/-- A 64-bit tick count, the width of TT and of tc (R35, 04). -/
abbrev Tick64 := BitVec 64

/-- Bits `[hi:lo]` of a word, as a number. -/
def Word.bits (w : Word) (hi lo : Nat) : Nat := (w.toNat >>> lo) % 2 ^ (hi + 1 - lo)

/-- One bit of a word. -/
def Word.bit (w : Word) (i : Nat) : Bool := w.getLsbD i

/-- The mask of bits `[hi:lo]`. -/
def Word.mask (hi lo : Nat) : Word := BitVec.ofNat 32 ((2 ^ (hi + 1 - lo) - 1) <<< lo)

/-- `w` with bits `[hi:lo]` replaced by the low bits of `v`; every other bit is kept. -/
def Word.put (w : Word) (hi lo v : Nat) : Word :=
  (w &&& ~~~(Word.mask hi lo)) ||| (BitVec.ofNat 32 (v <<< lo) &&& Word.mask hi lo)

/-- A one-bit number from a Bool. -/
def b2n (b : Bool) : Nat := if b then 1 else 0

/-- A counter of `w` bits that stays at its greatest value (the "saturates at" of the register tables). -/
def satAdd (w n k : Nat) : Nat := min (2 ^ w - 1) (n + k)

/-- Clamp an integer into `lo .. hi`. -/
def clampInt (lo hi x : Int) : Int := if x < lo then lo else if hi < x then hi else x

/-- Clamp into the signed range of `w` bits (sat16, sat18, sat28, sat48 of R97, R111, R155, R156, R172). -/
def satS (w : Nat) (x : Int) : Int := clampInt (-(2 ^ (w - 1) : Nat)) ((2 ^ (w - 1) : Nat) - 1) x

/-- Whether a clamp into the signed range of `w` bits changes the value. -/
def clampsS (w : Nat) (x : Int) : Bool := satS w x != x

/-- Sign extension of the low `w` bits of a number. -/
def sext (w n : Nat) : Int :=
  let m := n % 2 ^ w
  if 2 ^ (w - 1) ≤ m then (m : Int) - (2 ^ w : Nat) else m

/-- Two's complement of `w` bits of an integer, as a number. -/
def twos (w : Nat) (x : Int) : Nat := (x % (2 ^ w : Nat)).toNat

/-- The bytes of a word, least significant first (00: registers are little-endian). -/
def Word.bytes (w : Word) : List Byte :=
  [BitVec.ofNat 8 w.toNat, BitVec.ofNat 8 (w.toNat >>> 8), BitVec.ofNat 8 (w.toNat >>> 16), BitVec.ofNat 8 (w.toNat >>> 24)]

/-- The word of four bytes, least significant first. -/
def Word.ofBytes (b0 b1 b2 b3 : Byte) : Word :=
  BitVec.ofNat 32 (b0.toNat + 2 ^ 8 * b1.toNat + 2 ^ 16 * b2.toNat + 2 ^ 24 * b3.toNat)

end Sys2Proof
end

