-- ==== Sys2Proof/Syntax.lean ====
section
/-! DEFINITION. The commands of the JV2: one constructor of `Instr` for each row of the operation table, with the row's
operands. A row is an administrative command, a J-ISA instruction that an engine issues, a host write with a row of its own,
or an event of the device or of its surroundings (frames, pins, references, sensors). -/
namespace Sys2Proof

/-- The fields of a J-ISA instruction word other than OP (R77). The opcode is the constructor of `Instr`. -/
structure JWord where
  /-- PRED [55:53]: the predicate p0-p7. -/
  pred : BitVec 3
  /-- PINV bit 52. -/
  pinv : Bool
  /-- D [51:47]. -/
  d : BitVec 5
  /-- A [46:42]. -/
  a : BitVec 5
  /-- B [41:37]. -/
  b : BitVec 5
  /-- E [36:32]. -/
  e : BitVec 5
  /-- IMM [31:0]. -/
  imm : Word
  deriving DecidableEq, Repr

/-- A command entry as the command ring holds it (R305): the tag of word 0 and the words 1 to 15. A word beyond the list is 0. -/
structure Cmd where
  /-- TAG, word 0 [31:16]. -/
  tag : BitVec 16
  /-- Word 0 [15:8], reserved. -/
  rsvd : Byte := 0
  /-- Words 1 to 15. -/
  words : List Word := []
  deriving DecidableEq, Repr

/-- A class of engines (04). -/
inductive EngClass where
  | te | fe | me
  deriving DecidableEq, Repr

/-- One engine's image of a LOAD_ENGINES (R73): its header fields and its contents. -/
structure EngineImage where
  /-- The logical engine that is to take the image. -/
  engine : Fin 1024
  /-- The header carries the Itpen image identifier. -/
  idOk : Bool
  /-- Class stated by the header. -/
  cls : EngClass
  /-- Level stated by the header. -/
  level : Nat
  /-- ENTRY stated by the header. -/
  entry : Nat
  /-- Level 1 carrier base word (R105). -/
  base1 : BitVec 48
  /-- Bulk window: byte offset and length (R89). -/
  winOff : Nat
  winLen : Nat
  /-- Instruction part: 64-bit words. -/
  code : List (BitVec 64)
  /-- Data part (X of an ME). -/
  x : List Word
  /-- Y part of an ME. -/
  y : List Word
  deriving DecidableEq, Repr

/-- One entry of a segment image (R138): a descriptor with its granules' samples and marker words. -/
structure SegEntry where
  desc : BitVec 11
  word0 : Word
  word1 : Word
  /-- Sample words from granule START on. -/
  samples : List Word
  /-- Marker words from granule START on (RF outputs). -/
  markers : List Word
  deriving DecidableEq, Repr

/-- A configuration image of CONFIG_CUE or CONFIG_QUARRY: whether it is an image of that kind (identifier, kind, format
version and length), and its entries, register offset and value. Seam entries are for CONFIG_QUARRY. -/
structure CfgImage where
  wellFormed : Bool
  regs : List (Nat × Word)
  seams : List (Nat × Word × Word)
  deriving DecidableEq, Repr

/-- An open-store image (R271). -/
structure UcsImage where
  headerOk : Bool
  version : BitVec 16
  words : List Word
  /-- Directory: (routine, start offset, length) of each valid entry. -/
  dir : List (Nat × Nat × Nat)
  deriving DecidableEq, Repr

/-- What the checks under keys that the manual does not give say of a Corfort container (R344, R346, R272), its signature and its
tag, and whether the read-back after the write matches (R349). The container itself lies in bulk memory. -/
structure Container where
  sigOk : Bool
  tagOk : Bool
  readBackOk : Bool
  deriving DecidableEq, Repr

/-- The part on the flash lands as its JESD216 tables give it (R348): SFDP present, the minor revision, the DWORDs of the basic table,
the density in Mbit, the ways of 4-byte addressing, and the read modes. -/
structure FlashPart where
  sfdp : Bool := true
  rev : Nat := 6
  dwords : Nat := 16
  mbit : Nat := 256
  table4 : Bool := true
  enter4 : Bool := true
  read144 : Bool := true
  read114 : Bool := true
  deriving DecidableEq, Repr

/-- A delay that full training sweeps: read or write, byte lane 0 or 1 (R323). -/
inductive SweepLane where
  | rd0
  | rd1
  | wr0
  | wr1
  deriving DecidableEq, Repr

/-- A sweep's result (R323): bit c of `pass`, delay code c passes. A lane that no sweep names passes at every code. -/
structure Sweep where
  channel : Fin 16
  lane : SweepLane
  pass : BitVec 128
  deriving DecidableEq, Repr

/-- An output whose library and descriptor table are named: RF output 0-79 or flux output 0-255 (R129). -/
inductive OutId where
  | rf (o : Fin 80)
  | flx (i : Fin 256)
  deriving DecidableEq, Repr

/-- What the surroundings decide about the end of a transition: units that failed to align (R127, R159, R168), whether
self-refresh entry was abandoned 16 times (R327), the sweeps of a wake's full training (R323), and crossings found
off centre at a wake (R15). -/
structure TransResult where
  failRf : List (Fin 80) := []
  failFlx : List (Fin 256) := []
  failRfi : List (Fin 16) := []
  refreshAbandoned : Bool := false
  sweeps : List Sweep := []
  xingOff : List (Fin 5) := []
  deriving DecidableEq, Repr

/-- What BOOT finds (R345): the flash part, a Ghenov copy that loads, the crossings that could not be centred, the sweeps of
full training, and which references are valid. -/
structure BootResult where
  part : FlashPart := {}
  imageOk : Bool := true
  xingBad : List (Fin 5) := []
  sweeps : List Sweep := []
  /-- Links with a signal on two lanes or more. -/
  signal : BitVec 6 := 0
  refAValid : Bool := true
  refBValid : Bool := true
  /-- Duration in ms (GLB_BOOT_STAT.BOOT_MS). -/
  ms : Nat := 8000
  deriving DecidableEq, Repr

/-- A write of CLK_SKEW.TRIM_OVR or of CLK_TIME_CTRL.XEN (R47). -/
inductive TrimField where
  | ovr (v : BitVec 13)
  | xen (v : Bool)
  deriving DecidableEq, Repr

/-- A jump input: an RF slot or a flux output (R139). -/
inductive JumpTarget where
  | slot (o : Fin 80) (s : Fin 16)
  | flx (i : Fin 256)
  deriving DecidableEq, Repr

/-- What an Announce says of a master: its sender, and the data of its grandmaster that the best master clock algorithm
compares (R52), with how many of them have come from this sender. -/
structure PtpMaster where
  sender : Nat
  prio1 : Nat
  class_ : Nat
  accuracy : Nat
  variance : Nat
  prio2 : Nat
  gm : Nat
  steps : Nat
  seen : Nat := 1
  deriving DecidableEq, Repr

/-- The kinds of PTP message (R52). Stamps and corrections are in 2^-16 ns. -/
inductive PtpBody where
  | announce (m : PtpMaster)
  /-- Sync: one-step with its origin, or two-step, whose origin the Follow_Up of that sequence brings. -/
  | sync (seq : BitVec 16) (twoStep : Bool) (t1 corr : Int)
  | followUp (seq : BitVec 16) (t1 corr : Int)
  /-- Delay_Resp to this device's request: the master's receive stamp. -/
  | delayResp (t4 corr : Int)
  /-- Pdelay_Resp to this device's request: the peer's receive and transmit stamps. -/
  | pdelayResp (t2 t3 corr : Int)
  /-- Management GET, of the default data set or of another one. -/
  | managementGet (dflt : Bool)
  /-- A feature not listed as supported. -/
  | unsupported
  deriving DecidableEq, Repr

/-- A PTP message (R52): its PTP domain number, transport and sender, the place of its receive stamp in the tick in 1/256 tick,
and its kind. -/
structure PtpMsg where
  domain : BitVec 7
  transport : BitVec 2
  sender : Nat
  fine : BitVec 8
  body : PtpBody
  deriving DecidableEq, Repr

/-- The stamps of a SKEW_X exchange and the offset of a SKEW_DONE (R45), which no rule places in the frame: t1 to t4 in 1/256
tick, the offset in 1/1024 tick. -/
structure SkewStamps where
  t1 : Int := 0
  t2 : Int := 0
  t3 : Int := 0
  t4 : Int := 0
  off : Int := 0
  deriving DecidableEq, Repr

/-- A frame with a header flit and payload flits (R286). -/
structure Frame where
  header : BitVec 128
  payload : List (BitVec 128)
  deriving DecidableEq, Repr

/-- A capabilities frame (R280). -/
structure Caps where
  id : BitVec 9
  jv1 : Bool
  v1 : Bool
  v2 : Bool
  nx : Nat
  ny : Nat
  nz : Nat
  kid : BitVec 16
  keySet : Bool
  authReq : Bool
  deriving DecidableEq, Repr

/-- A host-visible ring: the completion ring or result ring RR0-RR16. The command ring is named for RING_ENABLE. -/
inductive RingId where
  | cmd
  | cpl
  | rr (n : Fin 17)
  deriving DecidableEq, Repr

/-- A source of bulk-memory requests inside the device, or the host link (R313, R328). -/
inductive BulkSrc where
  | host
  | bdma (e : Fin 1088)
  | refill (o : Fin 80) (r : Fin 4)
  | acq (u : Fin 16)
  | tally (u : Fin 16)
  | load
  | pyarn (partner : BitVec 9)
  | bxf
  | caller
  deriving DecidableEq, Repr

/-- What the DRAM shows when a request is served: nothing wrong, a corrected word or an uncorrectable line (R325). -/
inductive EccEvent where
  | clean | corrected | uncorrectable
  deriving DecidableEq, Repr

/-- The readings of a housekeeping round (R352): the front ends' reports, raw codes and temperatures of channels 0-27, the
values of channels 28-63. -/
structure SensorReading where
  temp : Int
  raw : Nat
  opened : Bool := false
  shorted : Bool := false
  deriving DecidableEq, Repr

/-- Another device of a joint decode (R212, R215), as its own tables hold it: its ID, the VALID entries of its seam table (index, word
0, word 1), its defects and its outcomes of confidence 0 by bench and ancilla, the partner of each of its faces in use for this
decode, and which of its other faces have LOST_ACT = 1. -/
structure QPeer where
  id : BitVec 9
  seams : List (Nat × Word × Word)
  defects : List (Nat × Nat)
  weak : List (Nat × Nat)
  faces : List (Option (BitVec 9))
  lostAct : BitVec 6
  deriving DecidableEq, Repr

/-- An SPDM request (R317), by kind. -/
inductive SpdmReq where
  | getVersion | getCapabilities | negotiateAlgorithms | getDigests | getCertificate | challenge
  | getMeasurements (index : Nat)
  | keyExchange
  | finish (ok : Bool)
  | keyUpdate | endSession
  | ideKeyProg (cxl : Bool)
  | chunk
  | unsupported
  deriving DecidableEq, Repr

/-- One sample time as it reaches an acquisition unit (R228, R229): its source index, the words to store (one code for the
raw source, one I and Q pair for each enabled channel otherwise) and whether it is tagged. -/
structure AcqSample where
  index : Nat
  values : List (Int × Int)
  tagged : Bool
  deriving DecidableEq, Repr

/-- What the outside of a background command's end decides (R340, R349, R330). -/
inductive CmdOutcome where
  | ok
  | verifyFailed
  deriving DecidableEq, Repr

/-- The commands of the JV2, in the order of the operation table. Engine instructions name the logical engine that issues
them; integer instructions carry `i`, true for the immediate form (R86). -/
inductive Instr where
  | getStatus (c : Cmd)
  | readLog (c : Cmd)
  | enterStandby (c : Cmd)
  | enterDormant (c : Cmd)
  | enterCalibrate (c : Cmd)
  | arm (c : Cmd)
  | start (c : Cmd)
  | stop (c : Cmd)
  | enterSafe (c : Cmd)
  | enterService (c : Cmd)
  | loadEngines (c : Cmd) (img : List EngineImage)
  | loadSegments (c : Cmd) (img : List SegEntry)
  | configCue (c : Cmd) (img : CfgImage)
  | configQuarry (c : Cmd) (img : CfgImage)
  | commit (c : Cmd)
  | acqArm (c : Cmd)
  | acqDisarm (c : Cmd)
  | selfCal (c : Cmd)
  | skewCal (c : Cmd)
  | linkConfig (c : Cmd)
  | linkReset (c : Cmd)
  | spareEngine (c : Cmd)
  | spareLane (c : Cmd)
  | memRepair (c : Cmd)
  | flashWrite (c : Cmd) (img : Container)
  | fwActivate (c : Cmd)
  | ucsLoadOpen (c : Cmd) (img : UcsImage)
  | setThresholds (c : Cmd)
  | readTelemetry (c : Cmd)
  | callerRestart (c : Cmd)
  | nop (e : Fin 1024) (f : JWord)
  | jmp (e : Fin 1024) (f : JWord)
  | jmpc (e : Fin 1024) (f : JWord)
  | call (e : Fin 1024) (f : JWord)
  | ret (e : Fin 1024) (f : JWord)
  | loop (e : Fin 1024) (f : JWord)
  | endl (e : Fin 1024) (f : JWord)
  | halt (e : Fin 1024) (f : JWord)
  | syncw (e : Fin 1024) (f : JWord)
  | waitc (e : Fin 1024) (f : JWord)
  | fire (e : Fin 1024) (f : JWord)
  | trap (e : Fin 1024) (f : JWord)
  | uop (e : Fin 1024) (f : JWord)
  | li (e : Fin 1024) (f : JWord)
  | add (e : Fin 1024) (i : Bool) (f : JWord)
  | sub (e : Fin 1024) (i : Bool) (f : JWord)
  | and (e : Fin 1024) (i : Bool) (f : JWord)
  | or (e : Fin 1024) (i : Bool) (f : JWord)
  | xor (e : Fin 1024) (i : Bool) (f : JWord)
  | shl (e : Fin 1024) (i : Bool) (f : JWord)
  | shr (e : Fin 1024) (i : Bool) (f : JWord)
  | sar (e : Fin 1024) (i : Bool) (f : JWord)
  | mul (e : Fin 1024) (i : Bool) (f : JWord)
  | cmp (e : Fin 1024) (i : Bool) (f : JWord)
  | sel (e : Fin 1024) (f : JWord)
  | ld (e : Fin 1024) (f : JWord)
  | st (e : Fin 1024) (f : JWord)
  | ldv (e : Fin 1024) (f : JWord)
  | ldf (e : Fin 1024) (f : JWord)
  | bdma (e : Fin 1024) (f : JWord)
  | csrr (e : Fin 1024) (f : JWord)
  | csrw (e : Fin 1024) (f : JWord)
  | rdtt (e : Fin 1024) (f : JWord)
  | atc (e : Fin 1024) (f : JWord)
  | adv (e : Fin 1024) (f : JWord)
  | play (e : Fin 1024) (f : JWord)
  | playf (e : Fin 1024) (f : JWord)
  | hold (e : Fin 1024) (f : JWord)
  | setf (e : Fin 1024) (f : JWord)
  | shph (e : Fin 1024) (f : JWord)
  | setph (e : Fin 1024) (f : JWord)
  | seta (e : Fin 1024) (f : JWord)
  | tset (e : Fin 1024) (f : JWord)
  | mark (e : Fin 1024) (f : JWord)
  | part (e : Fin 1024) (f : JWord)
  | flev (e : Fin 1024) (f : JWord)
  | wopen (e : Fin 1024) (f : JWord)
  | mac (e : Fin 1024) (f : JWord)
  | macx (e : Fin 1024) (f : JWord)
  | clra (e : Fin 1024) (f : JWord)
  | rda (e : Fin 1024) (f : JWord)
  | cbset (e : Fin 1024) (f : JWord)
  | disc (e : Fin 1024) (f : JWord)
  | pubv (e : Fin 1024) (f : JWord)
  | pubs (e : Fin 1024) (f : JWord)
  | hist (e : Fin 1024) (f : JWord)
  | recd (e : Fin 1024) (f : JWord)
  | routineResume (e : Fin 1024)
  | effectLand (e : Fin 1024)
  | forkDeadline (e : Fin 1024)
  | jumpTaken (t : JumpTarget)
  | syncwEnd (e : Fin 1024)
  | waitcTimeout (e : Fin 1024)
  | accumulationComplete (e : Fin 1024)
  | bdmaComplete (e : Fin 1024)
  | engHalt (n : Fin 1088)
  | runStart
  | stopTime
  | runComplete
  | transitionEnd (r : TransResult)
  | safeReq
  | wake
  | glbReset (key : Word) (railsOk : Bool)
  | resetN (railsOk : Bool)
  | powerOn (straps : BitVec 9) (railsOk : Bool)
  | railRetry (railsOk : Bool)
  | bootComplete (r : BootResult)
  | crossingSlip (die : Fin 5)
  | syncEdge
  | epochArm
  | snapTake
  | loadWt
  | refLoss (refB : Bool)
  /-- The frequency in Hz, and where a reference edge falls: TT in 1/256 tick, modulo one reference period. -/
  | refMeasure (refB : Bool) (hz : Nat) (edge : Fin 2560)
  | refRevert
  | refModeWrite (mode : BitVec 2) (edge : Fin 2560)
  | holdoverUpdate
  | servoUpdate
  | timeFrameSend (domB : Bool)
  | ptpMessage (m : PtpMsg)
  | trimWrite (t : TrimField)
  | trimResettleDone
  | skewCalTimeout
  | mute (o : Fin 80) (v : Bool)
  | cueMutedRelease (o : Fin 80)
  | attWrite (o : Fin 80) (v : BitVec 6)
  | descriptorWrite (o : OutId) (d : BitVec 11) (w0 : Option Word) (w1 : Option Word)
  | libraryWrite (off : BitVec 29) (words : List Word)
  | jreq (t : JumpTarget)
  | ringOpen (o : Fin 80) (r : Fin 4)
  | ringClose (o : Fin 80) (r : Fin 4)
  | ringRefill (o : Fin 80) (r : Fin 4)
  | shotInvalClear
  /-- `since`: the first of the 16 samples at limit; `delivered`: the magnitude of the delivered current, in 1/16 code. -/
  | fluxFault (i : Fin 256) (since : Nat) (delivered : Nat)
  | queueError (i : Fin 256)
  | rampEnd (i : Fin 256)
  /-- Sample m of every channel of input i. `codes`: the converter's codes from converter sample 64 m - 576 on, those that the
  decimation filter spans. -/
  | demodSample (i : Fin 16) (m : Nat) (codes : List (BitVec 12))
  | cueAppear
  | cueFire (c : BitVec 10)
  | cueConfigWrite (off : BitVec 16) (v : Word)
  | cueCheck
  | cueCheckDone
  | pinEdge (p : Fin 64) (rising : Bool)
  | trigEdge (line : Fin 8) (rising : Bool) (fine : BitVec 8)
  | decisionFrame (l : Fin 6) (a b : BitVec 128)
  | outcome
  | benchTimeout
  /-- `peers`: the other devices of D as they stand (R212, R215). -/
  | decodeEnd (peers : List QPeer)
  | faceTimeout (f : Fin 6)
  | syndromeFrame (l : Fin 6) (fr : Frame)
  | backlog
  | qryResume (v : Word)
  | qryFrameXor (v : Word)
  | qryConfigWrite (seam : Bool) (off : BitVec 20) (v : Word)
  | qryCheck
  | qryCheckDone
  | acqArmTick (u : Fin 16)
  | acqTrigger (u : Fin 16)
  | acqTtTrigger (u : Fin 16)
  /-- Sample time k of unit u. `codes`: for the raw source the 2^DEC converter codes of its group. -/
  | acqSampleWrite (u : Fin 16) (k : Nat) (codes : List (BitVec 12))
  | rearmEnd (u : Fin 16)
  | acqRoom (u : Fin 16)
  | acqLineOut (u : Fin 16)
  | recTake (u : Fin 16)
  | acqMissPop (u : Fin 16)
  | acqBulkRd (u : Fin 16) (v : Word)
  | pinCfgWrite (p : Fin 64) (v : Word)
  | vectorWrite (off : BitVec 21) (words : List Word)
  | mvpGo (v : Word)
  | mvpStop
  | vectorPeriod (low high : BitVec 64)
  | mvpFailPop
  | signalDetect (l : Fin 6)
  | trainDone (l : Fin 6) (lanes : BitVec 5) (flight : BitVec 16)
  | trainTimeout (l : Fin 6)
  | trainRetry (l : Fin 6)
  /-- `nonce`: the one the partner sends with it, where the challenge follows (R281). -/
  | capabilitiesFrame (l : Fin 6) (c : Caps) (nonce : BitVec 128)
  | authResponse (l : Fin 6) (tag : BitVec 128)
  | authTimeout (l : Fin 6)
  | laneFailure (l : Fin 6) (lane : Fin 5)
  | spareTrained (l : Fin 6)
  | keepaliveSend (l : Fin 6)
  | keepaliveTimeout (l : Fin 6)
  | linkAck (l : Fin 6) (seq : Nat) (refused : Bool)
  | replayTimeout (l : Fin 6)
  | bulkFrame (l : Fin 6) (fr : Frame)
  | timeFrame (l : Fin 6) (fr : Frame)
  | mgmtFrame (l : Fin 6) (fr : Frame) (stamps : SkewStamps)
  | rateInterval (mgmt : Bool)
  | errorInterval
  | bxfGo
  | tailWrite (v : BitVec 16)
  | commandFetch (entry : List Word)
  | ringAck (r : RingId) (k : BitVec 28)
  | ringEnable (r : RingId)
  | rr16Post
  | msixSend (v : Fin 20)
  | hostLinkDown
  | hdmAccess (write : Bool) (off : Nat) (data : List Byte)
  | bar4Access (write : Bool) (off : BitVec 32) (data : List Byte)
  | engineMemoryWrite (off : BitVec 29) (words : List Word)
  | spdmRequest (q : SpdmReq)
  | ideFailure (cxl : Bool)
  | bulkRequest (src : BulkSrc) (write : Bool) (off : Nat) (data : List Byte) (ecc : EccEvent)
  | memErrorInterval
  | refresh
  | marginTrack (c : Fin 16) (rd0 rd1 wr : Int) (margin : BitVec 7)
  | scrub (off : Nat) (ecc : EccEvent)
  | idleSelfRefresh (g : Fin 4)
  | rowThreshold (src : BulkSrc) (channel : Fin 16) (bank : Fin 16) (row : BitVec 18)
  | tallyGo (u : Fin 16) (cont : Bool)
  | tallyStop (u : Fin 16)
  | tallyBlock (u : Fin 16)
  | tallyEnd (u : Fin 16)
  | callerWatchdog
  | callerFault
  | ghenovReady (otherOk : Bool)
  | journalAppend
  | housekeepingRound (sensors : List SensorReading) (monitors : List Int)
  | flashRailDrop
  | ethCtrlWrite (v : Word)
  | registerWrite (addr : BitVec 24) (nbytes : Nat) (v : BitVec 64)
  | commandEnd (tag : BitVec 16) (r : CmdOutcome)
  | hostLinkUp (cxl : Bool) (speed : BitVec 2) (width : Fin 9)
  | stackTempReport (stack : Fin 4) (hot : Bool)
  | creditHoldEnd (src : BulkSrc)
  | cueFilterElapse
  | domainSourceLost (domB : Bool)
  | powerOff
  deriving DecidableEq, Repr

end Sys2Proof
end

