-- ==== Sys2Proof/Decode.lean ====
section
/-! DEFINITION. Words and the commands they spell. The operation table gives no row any bits: a command is an event or a ring entry
with operands that no word of the table spells. An instruction of J-ISA is a 64-bit word of an engine's memory (R77 to R81): the
decoder and the encoder of these words stand here too. -/
namespace Sys2Proof

/-- The command that a word of the operation table spells: none, for the table gives no row bits. -/
def decodeTableWord (_nbits _w : Nat) : Option Instr := none

/-! Instruction words of J-ISA. -/

/-- OP of an instruction word (R77). -/
def opOf (w : BitVec 64) : Nat := w.toNat / 2 ^ 56

/-- The other fields of an instruction word (R77). -/
def fieldsOf (w : BitVec 64) : JWord :=
  { pred := w.extractLsb' 53 3, pinv := w.getLsbD 52, d := w.extractLsb' 47 5, a := w.extractLsb' 42 5, b := w.extractLsb' 37 5,
    e := w.extractLsb' 32 5, imm := w.extractLsb' 0 32 }

/-- A word of its fields (R77). -/
def joinWord (op : Nat) (f : JWord) : BitVec 64 :=
  BitVec.ofNat 8 op ++ f.pred ++ BitVec.ofBool f.pinv ++ f.d ++ f.a ++ f.b ++ f.e ++ f.imm

/-- The opcode map (R81, R86): the instruction of engine e that an OP names. -/
def ofOpcode (op : Nat) (e : Fin 1024) (f : JWord) : Option Instr :=
  match op with
  | 0x00 => some (.nop e f)
  | 0x01 => some (.jmp e f)
  | 0x02 => some (.jmpc e f)
  | 0x03 => some (.call e f)
  | 0x04 => some (.ret e f)
  | 0x05 => some (.loop e f)
  | 0x06 => some (.endl e f)
  | 0x07 => some (.halt e f)
  | 0x08 => some (.syncw e f)
  | 0x09 => some (.waitc e f)
  | 0x0A => some (.fire e f)
  | 0x0B => some (.trap e f)
  | 0x0C => some (.uop e f)
  | 0x10 => some (.li e f)
  | 0x11 => some (.add e false f)
  | 0x12 => some (.sub e false f)
  | 0x13 => some (.and e false f)
  | 0x14 => some (.or e false f)
  | 0x15 => some (.xor e false f)
  | 0x16 => some (.shl e false f)
  | 0x17 => some (.shr e false f)
  | 0x18 => some (.sar e false f)
  | 0x19 => some (.mul e false f)
  | 0x1A => some (.cmp e false f)
  | 0x1B => some (.sel e f)
  | 0x21 => some (.add e true f)
  | 0x22 => some (.sub e true f)
  | 0x23 => some (.and e true f)
  | 0x24 => some (.or e true f)
  | 0x25 => some (.xor e true f)
  | 0x26 => some (.shl e true f)
  | 0x27 => some (.shr e true f)
  | 0x28 => some (.sar e true f)
  | 0x29 => some (.mul e true f)
  | 0x2A => some (.cmp e true f)
  | 0x40 => some (.ld e f)
  | 0x41 => some (.st e f)
  | 0x42 => some (.ldv e f)
  | 0x43 => some (.ldf e f)
  | 0x44 => some (.bdma e f)
  | 0x45 => some (.csrr e f)
  | 0x46 => some (.csrw e f)
  | 0x47 => some (.rdtt e f)
  | 0x60 => some (.atc e f)
  | 0x61 => some (.adv e f)
  | 0x62 => some (.play e f)
  | 0x63 => some (.playf e f)
  | 0x64 => some (.hold e f)
  | 0x65 => some (.setf e f)
  | 0x66 => some (.shph e f)
  | 0x67 => some (.setph e f)
  | 0x68 => some (.seta e f)
  | 0x69 => some (.tset e f)
  | 0x6A => some (.mark e f)
  | 0x6B => some (.part e f)
  | 0x6C => some (.flev e f)
  | 0x80 => some (.wopen e f)
  | 0x81 => some (.mac e f)
  | 0x82 => some (.macx e f)
  | 0x83 => some (.clra e f)
  | 0x84 => some (.rda e f)
  | 0x85 => some (.cbset e f)
  | 0x86 => some (.disc e f)
  | 0x87 => some (.pubv e f)
  | 0x88 => some (.pubs e f)
  | 0x89 => some (.hist e f)
  | 0x8A => some (.recd e f)
  | _ => none

/-- The instruction that a word is when engine e fetches it: none for an opcode not in the map (R79). -/
def decodeWord (e : Fin 1024) (w : BitVec 64) : Option Instr := ofOpcode (opOf w) e (fieldsOf w)

/-- The engine, the OP and the fields of a command that is an instruction (R81). -/
def Instr.opcode (i : Instr) : Option (Fin 1024 × Nat × JWord) :=
  match i with
  | .nop e f => some (e, 0x00, f)
  | .jmp e f => some (e, 0x01, f)
  | .jmpc e f => some (e, 0x02, f)
  | .call e f => some (e, 0x03, f)
  | .ret e f => some (e, 0x04, f)
  | .loop e f => some (e, 0x05, f)
  | .endl e f => some (e, 0x06, f)
  | .halt e f => some (e, 0x07, f)
  | .syncw e f => some (e, 0x08, f)
  | .waitc e f => some (e, 0x09, f)
  | .fire e f => some (e, 0x0A, f)
  | .trap e f => some (e, 0x0B, f)
  | .uop e f => some (e, 0x0C, f)
  | .li e f => some (e, 0x10, f)
  | .add e i f => some (e, if i then 0x21 else 0x11, f)
  | .sub e i f => some (e, if i then 0x22 else 0x12, f)
  | .and e i f => some (e, if i then 0x23 else 0x13, f)
  | .or e i f => some (e, if i then 0x24 else 0x14, f)
  | .xor e i f => some (e, if i then 0x25 else 0x15, f)
  | .shl e i f => some (e, if i then 0x26 else 0x16, f)
  | .shr e i f => some (e, if i then 0x27 else 0x17, f)
  | .sar e i f => some (e, if i then 0x28 else 0x18, f)
  | .mul e i f => some (e, if i then 0x29 else 0x19, f)
  | .cmp e i f => some (e, if i then 0x2A else 0x1A, f)
  | .sel e f => some (e, 0x1B, f)
  | .ld e f => some (e, 0x40, f)
  | .st e f => some (e, 0x41, f)
  | .ldv e f => some (e, 0x42, f)
  | .ldf e f => some (e, 0x43, f)
  | .bdma e f => some (e, 0x44, f)
  | .csrr e f => some (e, 0x45, f)
  | .csrw e f => some (e, 0x46, f)
  | .rdtt e f => some (e, 0x47, f)
  | .atc e f => some (e, 0x60, f)
  | .adv e f => some (e, 0x61, f)
  | .play e f => some (e, 0x62, f)
  | .playf e f => some (e, 0x63, f)
  | .hold e f => some (e, 0x64, f)
  | .setf e f => some (e, 0x65, f)
  | .shph e f => some (e, 0x66, f)
  | .setph e f => some (e, 0x67, f)
  | .seta e f => some (e, 0x68, f)
  | .tset e f => some (e, 0x69, f)
  | .mark e f => some (e, 0x6A, f)
  | .part e f => some (e, 0x6B, f)
  | .flev e f => some (e, 0x6C, f)
  | .wopen e f => some (e, 0x80, f)
  | .mac e f => some (e, 0x81, f)
  | .macx e f => some (e, 0x82, f)
  | .clra e f => some (e, 0x83, f)
  | .rda e f => some (e, 0x84, f)
  | .cbset e f => some (e, 0x85, f)
  | .disc e f => some (e, 0x86, f)
  | .pubv e f => some (e, 0x87, f)
  | .pubs e f => some (e, 0x88, f)
  | .hist e f => some (e, 0x89, f)
  | .recd e f => some (e, 0x8A, f)
  | _ => none

/-- The word of an instruction. -/
def encodeWord (i : Instr) : Option (BitVec 64) := i.opcode.map (fun x => joinWord x.2.1 x.2.2)

end Sys2Proof
end

