-- ==== Sys2Proof/Config.lean ====
section
/-! DEFINITION. What an implementation fixes and the manual does not state: constants with no body, so that nothing can be
proved of their values. Each is named in the assumption log. -/
namespace Sys2Proof.Config

/-- The interpolator's output for one component (R116): FRAC, the place of the converter sample among 16, and the envelope
samples around it. Its taps are not published. (DESIGN CHOICE, log 10.) -/
opaque interp (frac phase : Nat) (window : List Int) : Int

/-- The equaliser of R120 on 31 successive sums. Its taps are not published. (DESIGN CHOICE, log 11.) -/
opaque isinc (window : List Int) : Int

/-- The dither added below bit 28 of the phase word (R110): channel and converter sample. (DESIGN CHOICE, log 12.) -/
opaque dither (chan n : Nat) : BitVec 28

/-- The tap of the decimation filter (R171) `d` converter samples from its centre, 1 to 576, in units of 2^-decimFrac. The taps are
not published. (DESIGN CHOICE, log 133.) -/
opaque decimTap (d : Nat) : Int
opaque decimFrac : Nat

/-- A value the manual leaves open, by use: 32 bits. (DESIGN CHOICE, log 5.) -/
opaque freeWord (use : Nat) : BitVec 32

/-- Memory errors (R58, R273): the byte address of a protected word that a tick upsets, in BAR2 or of patch RAM, and how many of its bits.
(DESIGN CHOICE, log 103.) -/
opaque upset (use : Nat) : Option (Nat × Nat)

/-- A value the manual leaves open, by use: 128 bits (nonces, R281). (DESIGN CHOICE, log 5, 24.) -/
opaque freeWide (use : Nat) : BitVec 128

/-- The frequency estimate of a domain (R53) from the last estimate, the last and the new offset and the ticks between them. The
filter is not published. (DESIGN CHOICE, log 125.) -/
opaque domFreq (freq off new : Int) (ticks : Nat) : Int

/-- The ADJ that a domain's offset and frequency estimate ask the servo for (R49). (DESIGN CHOICE, log 125.) -/
opaque servoTarget (off freq : Int) : Int

/-- The servo's estimate has converged (CLK_DOM_x_STAT.LOCKED). (DESIGN CHOICE, log 125.) -/
opaque servoConverged (off freq : Int) : Bool

/-- A microword of patch RAM, and the patch RAM offset that the redirect table of a class gives an opcode, if it has an entry, by the
patch's version and SVN (R261, R272); and the ROM's dispatch table. Their contents are not published. (DESIGN CHOICE, log 139.) -/
opaque patchWord (version : BitVec 32) (svn cls i : Nat) : BitVec 32
opaque patchRedirect (version : BitVec 32) (svn cls op : Nat) : Option Nat
opaque romDispatch (cls op : Nat) : Nat

/-- The microwords of patch RAM that the native instruction fetches which a physical engine issues in an elapsed tick (R261, R273), by
the patch's version and SVN. (DESIGN CHOICE, log 139.) -/
opaque patchFetch (version : BitVec 32) (svn phys tick : Nat) : List Nat

/-- The bytes of an open-store image in bulk memory (R271), by its class and version, microwords and directory: the layout is not
published. (DESIGN CHOICE, log 13.) -/
opaque openImage (ws : List (BitVec 32)) : List Nat

/-- The bank and row (bank × 2^18 + row) of a 256-byte block of a channel (R325, R330): the geometry is not given. (DESIGN CHOICE, log 14.) -/
opaque rowPlace (block : Nat) : Nat

/-- Row repairs that a bank can take (R330), by channel × 16 + bank. (DESIGN CHOICE, log 14.) -/
opaque bankSpares (bank : Nat) : Nat

/-- The digest of the boot ROM (R317). (DESIGN CHOICE, log 13.) -/
opaque romDigest : BitVec 384

/-- The digest of an image in flash, by kind, version and SVN (R317). (DESIGN CHOICE, log 13.) -/
opaque imageDigest (kind : Nat) (version : BitVec 32) (svn : Nat) : BitVec 384

/-- The serial number fused at manufacture (GLB_UID). (DESIGN CHOICE, log 15.) -/
opaque serial : BitVec 64

/-- The MAC address fused at manufacture (ETH_MAC). (DESIGN CHOICE, log 15.) -/
opaque mac : BitVec 48

end Sys2Proof.Config
end

