-- ==== Sys2Proof/Machine/Registers.lean ====
section
/-! DEFINITION. The BAR0 registers of the JV2 (23 and the Registers section of every chapter): their names, addresses, reset
values, and for each field its bits, access code (R6), level (R9), write window and ignored values. -/
namespace Sys2Proof.Machine

/-- The names of the registers of BAR0. An indexed register (of an output, a unit, a channel) has one name. -/
inductive RegK where
  | glbId | glbRev | glbCap | glbMode | glbModeCtrl | glbSafeCause
  | glbReset | glbUidLo | glbUidHi | glbXingStat | glbStreamCtrl | glbStreamStat
  | glbStreamUcnt | glbCallerStat | glbCallerLoad | glbBootStat | glbFlashInfo | glbImgStat
  | glbPersist | hstLinkStat | hstBwin | hstCmdBaseLo | hstCmdBaseHi | hstCmdCfg
  | hstCmdTail | hstCmdHead | hstCplBaseLo | hstCplBaseHi | hstCplCfg | hstCplAck
  | hstCplStat | hstPoisonCnt | hstRr16Drop | hstCplPeek | hstCplReady | hstRrBaseLo
  | hstRrBaseHi | hstRrCfg | hstRrAck | hstRrStat | clkTtLo | clkTtHi
  | clkTtLoadLo | clkTtLoadHi | clkEpoch | clkRefCtrl | clkRefStat | clkHold
  | clkSkew | clkSkewCal | clkWtAdj | clkTimeCtrl | clkPtpCfg | clkDomStat
  | clkSnap | clkSnapTt | clkSnapWt | clkWtSetSecLo | clkWtSetSecHi | clkWtSetNs
  | cueStat | cueFire | cueLostCnt | cueCoinc | cueCh | cueCellIn01
  | cueCellIn23 | cueCellCfg | cueCellClr | cueExpA | cueExpB | cueRmt
  | cueLsn | cueVerd | hkpStat | hkpRound | hkpTrip | hkpPwr
  | hkpZstat | hkpThrA | hkpThrB | hkpSens | hkpMon | memCtrl
  | memStat | memEccCe | memEccUe | memErrLo | memErrHi | memRh
  | memThrottleCnt | memPprStat | memChDly | memChOvr | lnkId | lnkCfg
  | lnkKey | lnkKeyId | lnkTimeRoot | lnkBwinLo | lnkBwinHi | lnkBwinLen
  | lnkBwinSrc | lnkBxfSrcLo | lnkBxfSrcHi | lnkBxfDstLo | lnkBxfDstHi | lnkBxfLen
  | lnkBxfCtrl | lnkDecRepeat | lnkDecGap | lnkMgmtDisc | lnkNoroute | lnkCtrl
  | lnkStat | lnkLane | lnkFlight | lnkRate | lnkCntCrc | lnkCntLoss
  | lnkCntVal | lnkCntRate | lnkCntRetry | lnkCntDrop | talCtrl | talCfg
  | talStat | talSrcLo | talSrcHi | talLen | talPos | talRunLo
  | talRunHi | talExpLo | talExpHi | talResLo | talResHi | talAlive
  | talMisCnt | talFrmCnt | ucsPatchStat | ucsEccCnt | ucsLoadStat | ucsPatchVer
  | ucsPatchSvn | ucsOpenVer | ucsOpenDig | ucsEngCont | ucsEngGmask | acqCfg
  | acqStat | acqPre | acqPost | acqTrig | acqNrec | acqTtTrigLo
  | acqTtTrigHi | acqTtPer | acqRecCnt | acqMissCnt | acqMissLo | acqMissHi
  | acqMissInfo | acqMissPop | acqBulkBaseLo | acqBulkBaseHi | acqBulkLen | acqBulkWr
  | acqBulkRd | acqRecDest | acqRecDiscCnt | acqThr | acqHistEdgeCnt | acqHistCfg
  | acqHcI | acqHcQ | acqTbusComp | acqBwStat | mvpCtrl | mvpStat
  | mvpVecRange | mvpVecPer | mvpVstartLo | mvpVstartHi | mvpVecGo | mvpFailCnt
  | mvpFailE | mvpFailPop | mvpTrigCfg | mvpTbusCfg | mvpPinCfg | mvpPinTrim
  | mvpTsPin | qryCtrl | qryCfg | qryStat | qryCheck | qryBench0
  | qryTmo | qryBudget | qryWin | qryLag | qryLast0 | qryLast1
  | qryCnt | qryFrameXor | qryResume | qryFrame | qryFace | qryAnc
  | svcLogStat | svcLogNext | svcStateRej | svcEngEcc | svcEccLast | svcSpareStat
  | svcSyncTtLo | svcSyncTtHi | svcNbrUnavail | svcRetired | ethCtrl | ethStat
  | ethMacLo | ethMacHi | ethPtpDisc | rfoCtrl | rfoStat | rfoGain
  | rfoAtt | rfoClipCnt | rfoTset | rfoMrkTrim | rfoSlotFtwLo | rfoSlotFtwHi
  | rfoSlotPh | rfoSlotAmp | rfoSegStat | rfoSegWdropCnt | rfoSlotJmp | rfoRingCtrl
  | rfoRingCfg | rfoRingSrcLo | rfoRingSrcHi | rfoRingSrcLen | rfoRingStat | rfoRingUcnt
  | rfiCtrl | rfiStat | rfiOvrCnt | rfiDsat | rfiChCfg | rfiChRot
  | rfiChFtwLo | rfiChFtwHi | flxCtrl | flxStat | flxPark | flxSlew
  | flxLevel | flxFaultCnt | flxAmp | flxDg | flxMrkTrim | flxClipCnt
  | flxFir | flxIir | flxSegStat | flxSegWdropCnt | flxSegJmp | engCtrl
  | engCfg | engStat | engFault | engPc | engTcLo | engTcHi
  | engLateCnt | engFaultPc | engLsr | engImage | engMap | engPred
  | meCfg | meStat | engAbortState | engLoop | meAcc | meAgCfg
  | meAgOff | engG
  deriving DecidableEq, Repr

/-- One register: its name and up to two indices. -/
structure Reg where
  k : RegK
  i : Nat := 0
  j : Nat := 0
  deriving DecidableEq, Repr

/-- What a host write of a field does (R6). `own`: the field is an action or a write with a row of its own in the operation
table. `clr`: RW, of which REGISTER_WRITE may only clear the bit (setting it is RING_ENABLE). `key`: stored, reads 0 (R296). -/
inductive Acc where
  | ro | rw | w1c | ros | own | clr | adj | key | eng
  deriving DecidableEq, Repr

/-- The condition under which a field accepts writes, named by the rule that gives it. -/
inductive Win where
  | any | cmdOff | cplOff | rrOff | epoch | stbyCal | sca | live | talIdle | talCtx | acqIdle | mvpStop | ringShut
  deriving DecidableEq, Repr

/-- A field of a register's table: bits, access, whether it is an X field, its window and the values whose write is ignored. -/
structure FieldInfo where
  hi : Nat
  lo : Nat
  acc : Acc
  x : Bool := false
  win : Win := .any
  bad : List Nat := []
  deriving DecidableEq, Repr

/-- A named field of one register. -/
structure Fld where
  reg : Reg
  hi : Nat
  lo : Nat
  deriving DecidableEq, Repr

/-- Where a register lies: its address at index 0, and the count and stride of each index. -/
structure RegPlace where
  base : Nat
  n1 : Nat := 1
  s1 : Nat := 4
  n2 : Nat := 1
  s2 : Nat := 4
  deriving DecidableEq, Repr

/-- The place of each register in BAR0. -/
def RegK.place : RegK → RegPlace
  | .glbId => { base := 0x000000 }
  | .glbRev => { base := 0x000004 }
  | .glbCap => { base := 0x000008 }
  | .glbMode => { base := 0x000010 }
  | .glbModeCtrl => { base := 0x000014 }
  | .glbSafeCause => { base := 0x000018 }
  | .glbReset => { base := 0x00001C }
  | .glbUidLo => { base := 0x000020 }
  | .glbUidHi => { base := 0x000024 }
  | .glbXingStat => { base := 0x000100 }
  | .glbStreamCtrl => { base := 0x000200 }
  | .glbStreamStat => { base := 0x000204 }
  | .glbStreamUcnt => { base := 0x000208 }
  | .glbCallerStat => { base := 0x000300 }
  | .glbCallerLoad => { base := 0x000304 }
  | .glbBootStat => { base := 0x000308 }
  | .glbFlashInfo => { base := 0x00030C }
  | .glbImgStat => { base := 0x000310 }
  | .glbPersist => { base := 0x000314 }
  | .hstLinkStat => { base := 0x010000 }
  | .hstBwin => { base := 0x010004 }
  | .hstCmdBaseLo => { base := 0x010010 }
  | .hstCmdBaseHi => { base := 0x010014 }
  | .hstCmdCfg => { base := 0x010018 }
  | .hstCmdTail => { base := 0x01001C }
  | .hstCmdHead => { base := 0x010020 }
  | .hstCplBaseLo => { base := 0x010030 }
  | .hstCplBaseHi => { base := 0x010034 }
  | .hstCplCfg => { base := 0x010038 }
  | .hstCplAck => { base := 0x01003C }
  | .hstCplStat => { base := 0x010040 }
  | .hstPoisonCnt => { base := 0x010044 }
  | .hstRr16Drop => { base := 0x010048 }
  | .hstCplPeek => { base := 0x010080, n1 := 16, s1 := 4 }
  | .hstCplReady => { base := 0x0100C0 }
  | .hstRrBaseLo => { base := 0x010400, n1 := 17, s1 := 32 }
  | .hstRrBaseHi => { base := 0x010404, n1 := 17, s1 := 32 }
  | .hstRrCfg => { base := 0x010408, n1 := 17, s1 := 32 }
  | .hstRrAck => { base := 0x01040C, n1 := 17, s1 := 32 }
  | .hstRrStat => { base := 0x010410, n1 := 17, s1 := 32 }
  | .clkTtLo => { base := 0x020000 }
  | .clkTtHi => { base := 0x020004 }
  | .clkTtLoadLo => { base := 0x020008 }
  | .clkTtLoadHi => { base := 0x02000C }
  | .clkEpoch => { base := 0x020010 }
  | .clkRefCtrl => { base := 0x020020 }
  | .clkRefStat => { base := 0x020024 }
  | .clkHold => { base := 0x020028 }
  | .clkSkew => { base := 0x020030 }
  | .clkSkewCal => { base := 0x020034 }
  | .clkWtAdj => { base := 0x020050 }
  | .clkTimeCtrl => { base := 0x020060 }
  | .clkPtpCfg => { base := 0x020064 }
  | .clkDomStat => { base := 0x020068, n1 := 2, s1 := 4 }
  | .clkSnap => { base := 0x020070 }
  | .clkSnapTt => { base := 0x020074, n1 := 2, s1 := 4 }
  | .clkSnapWt => { base := 0x02007C, n1 := 4, s1 := 4 }
  | .clkWtSetSecLo => { base := 0x020090 }
  | .clkWtSetSecHi => { base := 0x020094 }
  | .clkWtSetNs => { base := 0x020098 }
  | .cueStat => { base := 0x030000 }
  | .cueFire => { base := 0x030004 }
  | .cueLostCnt => { base := 0x030008 }
  | .cueCoinc => { base := 0x030100, n1 := 32, s1 := 4 }
  | .cueCh => { base := 0x031000, n1 := 1024, s1 := 4 }
  | .cueCellIn01 => { base := 0x032000, n1 := 256, s1 := 16 }
  | .cueCellIn23 => { base := 0x032004, n1 := 256, s1 := 16 }
  | .cueCellCfg => { base := 0x032008, n1 := 256, s1 := 16 }
  | .cueCellClr => { base := 0x03200C, n1 := 256, s1 := 16 }
  | .cueExpA => { base := 0x033000, n1 := 64, s1 := 8 }
  | .cueExpB => { base := 0x033004, n1 := 64, s1 := 8 }
  | .cueRmt => { base := 0x033200, n1 := 64, s1 := 4 }
  | .cueLsn => { base := 0x034000, n1 := 1024, s1 := 4 }
  | .cueVerd => { base := 0x035000, n1 := 512, s1 := 4 }
  | .hkpStat => { base := 0x040000 }
  | .hkpRound => { base := 0x040004 }
  | .hkpTrip => { base := 0x040008 }
  | .hkpPwr => { base := 0x04000C }
  | .hkpZstat => { base := 0x040100, n1 := 10, s1 := 4 }
  | .hkpThrA => { base := 0x040200, n1 := 10, s1 := 8 }
  | .hkpThrB => { base := 0x040204, n1 := 10, s1 := 8 }
  | .hkpSens => { base := 0x040400, n1 := 28, s1 := 4 }
  | .hkpMon => { base := 0x040500, n1 := 36, s1 := 4 }
  | .memCtrl => { base := 0x050000 }
  | .memStat => { base := 0x050004 }
  | .memEccCe => { base := 0x050010 }
  | .memEccUe => { base := 0x050014 }
  | .memErrLo => { base := 0x050018 }
  | .memErrHi => { base := 0x05001C }
  | .memRh => { base := 0x050024 }
  | .memThrottleCnt => { base := 0x050028 }
  | .memPprStat => { base := 0x050030 }
  | .memChDly => { base := 0x050100, n1 := 16, s1 := 8 }
  | .memChOvr => { base := 0x050104, n1 := 16, s1 := 8 }
  | .lnkId => { base := 0x060000 }
  | .lnkCfg => { base := 0x060004 }
  | .lnkKey => { base := 0x060010, n1 := 8, s1 := 4 }
  | .lnkKeyId => { base := 0x060030 }
  | .lnkTimeRoot => { base := 0x060034 }
  | .lnkBwinLo => { base := 0x060040 }
  | .lnkBwinHi => { base := 0x060044 }
  | .lnkBwinLen => { base := 0x060048 }
  | .lnkBwinSrc => { base := 0x06004C }
  | .lnkBxfSrcLo => { base := 0x060050 }
  | .lnkBxfSrcHi => { base := 0x060054 }
  | .lnkBxfDstLo => { base := 0x060058 }
  | .lnkBxfDstHi => { base := 0x06005C }
  | .lnkBxfLen => { base := 0x060060 }
  | .lnkBxfCtrl => { base := 0x060064 }
  | .lnkDecRepeat => { base := 0x060080 }
  | .lnkDecGap => { base := 0x060084 }
  | .lnkMgmtDisc => { base := 0x060088 }
  | .lnkNoroute => { base := 0x06008C }
  | .lnkCtrl => { base := 0x061000, n1 := 6, s1 := 512 }
  | .lnkStat => { base := 0x061004, n1 := 6, s1 := 512 }
  | .lnkLane => { base := 0x061008, n1 := 6, s1 := 512 }
  | .lnkFlight => { base := 0x06100C, n1 := 6, s1 := 512 }
  | .lnkRate => { base := 0x061010, n1 := 6, s1 := 512 }
  | .lnkCntCrc => { base := 0x061020, n1 := 6, s1 := 512 }
  | .lnkCntLoss => { base := 0x061024, n1 := 6, s1 := 512 }
  | .lnkCntVal => { base := 0x061028, n1 := 6, s1 := 512 }
  | .lnkCntRate => { base := 0x06102C, n1 := 6, s1 := 512 }
  | .lnkCntRetry => { base := 0x061030, n1 := 6, s1 := 512 }
  | .lnkCntDrop => { base := 0x061034, n1 := 6, s1 := 512 }
  | .talCtrl => { base := 0x070000, n1 := 16, s1 := 64 }
  | .talCfg => { base := 0x070004, n1 := 16, s1 := 64 }
  | .talStat => { base := 0x070008, n1 := 16, s1 := 64 }
  | .talSrcLo => { base := 0x07000C, n1 := 16, s1 := 64 }
  | .talSrcHi => { base := 0x070010, n1 := 16, s1 := 64 }
  | .talLen => { base := 0x070014, n1 := 16, s1 := 64 }
  | .talPos => { base := 0x070018, n1 := 16, s1 := 64 }
  | .talRunLo => { base := 0x07001C, n1 := 16, s1 := 64 }
  | .talRunHi => { base := 0x070020, n1 := 16, s1 := 64 }
  | .talExpLo => { base := 0x070024, n1 := 16, s1 := 64 }
  | .talExpHi => { base := 0x070028, n1 := 16, s1 := 64 }
  | .talResLo => { base := 0x07002C, n1 := 16, s1 := 64 }
  | .talResHi => { base := 0x070030, n1 := 16, s1 := 64 }
  | .talAlive => { base := 0x070034, n1 := 16, s1 := 64 }
  | .talMisCnt => { base := 0x070038, n1 := 16, s1 := 64 }
  | .talFrmCnt => { base := 0x07003C, n1 := 16, s1 := 64 }
  | .ucsPatchStat => { base := 0x080000 }
  | .ucsEccCnt => { base := 0x080004 }
  | .ucsLoadStat => { base := 0x080008 }
  | .ucsPatchVer => { base := 0x08000C }
  | .ucsPatchSvn => { base := 0x080010 }
  | .ucsOpenVer => { base := 0x080020, n1 := 3, s1 := 4 }
  | .ucsOpenDig => { base := 0x080040, n1 := 3, s1 := 64, n2 := 12, s2 := 4 }
  | .ucsEngCont => { base := 0x088000, n1 := 1088, s1 := 8 }
  | .ucsEngGmask => { base := 0x088004, n1 := 1088, s1 := 8 }
  | .acqCfg => { base := 0x090000, n1 := 16, s1 := 2048 }
  | .acqStat => { base := 0x090004, n1 := 16, s1 := 2048 }
  | .acqPre => { base := 0x090008, n1 := 16, s1 := 2048 }
  | .acqPost => { base := 0x09000C, n1 := 16, s1 := 2048 }
  | .acqTrig => { base := 0x090010, n1 := 16, s1 := 2048 }
  | .acqNrec => { base := 0x090014, n1 := 16, s1 := 2048 }
  | .acqTtTrigLo => { base := 0x090018, n1 := 16, s1 := 2048 }
  | .acqTtTrigHi => { base := 0x09001C, n1 := 16, s1 := 2048 }
  | .acqTtPer => { base := 0x090020, n1 := 16, s1 := 2048 }
  | .acqRecCnt => { base := 0x090024, n1 := 16, s1 := 2048 }
  | .acqMissCnt => { base := 0x090028, n1 := 16, s1 := 2048 }
  | .acqMissLo => { base := 0x090030, n1 := 16, s1 := 2048 }
  | .acqMissHi => { base := 0x090034, n1 := 16, s1 := 2048 }
  | .acqMissInfo => { base := 0x090038, n1 := 16, s1 := 2048 }
  | .acqMissPop => { base := 0x09003C, n1 := 16, s1 := 2048 }
  | .acqBulkBaseLo => { base := 0x090040, n1 := 16, s1 := 2048 }
  | .acqBulkBaseHi => { base := 0x090044, n1 := 16, s1 := 2048 }
  | .acqBulkLen => { base := 0x090048, n1 := 16, s1 := 2048 }
  | .acqBulkWr => { base := 0x09004C, n1 := 16, s1 := 2048 }
  | .acqBulkRd => { base := 0x090050, n1 := 16, s1 := 2048 }
  | .acqRecDest => { base := 0x090054, n1 := 16, s1 := 2048 }
  | .acqRecDiscCnt => { base := 0x090058, n1 := 16, s1 := 2048 }
  | .acqThr => { base := 0x09005C, n1 := 16, s1 := 2048 }
  | .acqHistEdgeCnt => { base := 0x090060, n1 := 16, s1 := 2048 }
  | .acqHistCfg => { base := 0x090064, n1 := 16, s1 := 2048 }
  | .acqHcI => { base := 0x090100, n1 := 16, s1 := 2048, n2 := 16, s2 := 8 }
  | .acqHcQ => { base := 0x090104, n1 := 16, s1 := 2048, n2 := 16, s2 := 8 }
  | .acqTbusComp => { base := 0x098000, n1 := 4, s1 := 4 }
  | .acqBwStat => { base := 0x098010 }
  | .mvpCtrl => { base := 0x0A0000 }
  | .mvpStat => { base := 0x0A0004 }
  | .mvpVecRange => { base := 0x0A0008 }
  | .mvpVecPer => { base := 0x0A000C }
  | .mvpVstartLo => { base := 0x0A0010 }
  | .mvpVstartHi => { base := 0x0A0014 }
  | .mvpVecGo => { base := 0x0A0018 }
  | .mvpFailCnt => { base := 0x0A0020 }
  | .mvpFailE => { base := 0x0A0030, n1 := 6, s1 := 4 }
  | .mvpFailPop => { base := 0x0A0048 }
  | .mvpTrigCfg => { base := 0x0A0080, n1 := 4, s1 := 4 }
  | .mvpTbusCfg => { base := 0x0A0090, n1 := 4, s1 := 4 }
  | .mvpPinCfg => { base := 0x0A0100, n1 := 64, s1 := 4 }
  | .mvpPinTrim => { base := 0x0A0200, n1 := 64, s1 := 4 }
  | .mvpTsPin => { base := 0x0A1000, n1 := 8, s1 := 256, n2 := 64, s2 := 4 }
  | .qryCtrl => { base := 0x0B0000 }
  | .qryCfg => { base := 0x0B0004 }
  | .qryStat => { base := 0x0B0008 }
  | .qryCheck => { base := 0x0B000C }
  | .qryBench0 => { base := 0x0B0010 }
  | .qryTmo => { base := 0x0B0014 }
  | .qryBudget => { base := 0x0B0018 }
  | .qryWin => { base := 0x0B001C }
  | .qryLag => { base := 0x0B0020 }
  | .qryLast0 => { base := 0x0B0024 }
  | .qryLast1 => { base := 0x0B0028 }
  | .qryCnt => { base := 0x0B0040, n1 := 8, s1 := 4 }
  | .qryFrameXor => { base := 0x0B0060 }
  | .qryResume => { base := 0x0B0064 }
  | .qryFrame => { base := 0x0B0080, n1 := 16, s1 := 4 }
  | .qryFace => { base := 0x0B0100, n1 := 6, s1 := 4 }
  | .qryAnc => { base := 0x0B2000, n1 := 2048, s1 := 4 }
  | .svcLogStat => { base := 0x0C0000 }
  | .svcLogNext => { base := 0x0C0004 }
  | .svcStateRej => { base := 0x0C0008 }
  | .svcEngEcc => { base := 0x0C000C }
  | .svcEccLast => { base := 0x0C0010 }
  | .svcSpareStat => { base := 0x0C0014 }
  | .svcSyncTtLo => { base := 0x0C0018 }
  | .svcSyncTtHi => { base := 0x0C001C }
  | .svcNbrUnavail => { base := 0x0C0020 }
  | .svcRetired => { base := 0x0C0100, n1 := 34, s1 := 4 }
  | .ethCtrl => { base := 0x0D0000 }
  | .ethStat => { base := 0x0D0004 }
  | .ethMacLo => { base := 0x0D0008 }
  | .ethMacHi => { base := 0x0D000C }
  | .ethPtpDisc => { base := 0x0D0010 }
  | .rfoCtrl => { base := 0x100000, n1 := 80, s1 := 4096 }
  | .rfoStat => { base := 0x100004, n1 := 80, s1 := 4096 }
  | .rfoGain => { base := 0x100008, n1 := 80, s1 := 4096 }
  | .rfoAtt => { base := 0x10000C, n1 := 80, s1 := 4096 }
  | .rfoClipCnt => { base := 0x100010, n1 := 80, s1 := 4096 }
  | .rfoTset => { base := 0x100020, n1 := 80, s1 := 4096, n2 := 8, s2 := 4 }
  | .rfoMrkTrim => { base := 0x100100, n1 := 80, s1 := 4096, n2 := 32, s2 := 4 }
  | .rfoSlotFtwLo => { base := 0x100200, n1 := 80, s1 := 4096, n2 := 16, s2 := 16 }
  | .rfoSlotFtwHi => { base := 0x100204, n1 := 80, s1 := 4096, n2 := 16, s2 := 16 }
  | .rfoSlotPh => { base := 0x100208, n1 := 80, s1 := 4096, n2 := 16, s2 := 16 }
  | .rfoSlotAmp => { base := 0x10020C, n1 := 80, s1 := 4096, n2 := 16, s2 := 16 }
  | .rfoSegStat => { base := 0x100400, n1 := 80, s1 := 4096 }
  | .rfoSegWdropCnt => { base := 0x100404, n1 := 80, s1 := 4096 }
  | .rfoSlotJmp => { base := 0x100440, n1 := 80, s1 := 4096, n2 := 16, s2 := 4 }
  | .rfoRingCtrl => { base := 0x100500, n1 := 80, s1 := 4096, n2 := 4, s2 := 32 }
  | .rfoRingCfg => { base := 0x100504, n1 := 80, s1 := 4096, n2 := 4, s2 := 32 }
  | .rfoRingSrcLo => { base := 0x100508, n1 := 80, s1 := 4096, n2 := 4, s2 := 32 }
  | .rfoRingSrcHi => { base := 0x10050C, n1 := 80, s1 := 4096, n2 := 4, s2 := 32 }
  | .rfoRingSrcLen => { base := 0x100510, n1 := 80, s1 := 4096, n2 := 4, s2 := 32 }
  | .rfoRingStat => { base := 0x100514, n1 := 80, s1 := 4096, n2 := 4, s2 := 32 }
  | .rfoRingUcnt => { base := 0x100518, n1 := 80, s1 := 4096, n2 := 4, s2 := 32 }
  | .rfiCtrl => { base := 0x200000, n1 := 16, s1 := 16384 }
  | .rfiStat => { base := 0x200004, n1 := 16, s1 := 16384 }
  | .rfiOvrCnt => { base := 0x200008, n1 := 16, s1 := 16384 }
  | .rfiDsat => { base := 0x20000C, n1 := 16, s1 := 16384 }
  | .rfiChCfg => { base := 0x200100, n1 := 16, s1 := 16384, n2 := 16, s2 := 32 }
  | .rfiChRot => { base := 0x200104, n1 := 16, s1 := 16384, n2 := 16, s2 := 32 }
  | .rfiChFtwLo => { base := 0x200108, n1 := 16, s1 := 16384, n2 := 16, s2 := 32 }
  | .rfiChFtwHi => { base := 0x20010C, n1 := 16, s1 := 16384, n2 := 16, s2 := 32 }
  | .flxCtrl => { base := 0x300000, n1 := 256, s1 := 1024 }
  | .flxStat => { base := 0x300004, n1 := 256, s1 := 1024 }
  | .flxPark => { base := 0x300008, n1 := 256, s1 := 1024 }
  | .flxSlew => { base := 0x30000C, n1 := 256, s1 := 1024 }
  | .flxLevel => { base := 0x300010, n1 := 256, s1 := 1024 }
  | .flxFaultCnt => { base := 0x300014, n1 := 256, s1 := 1024 }
  | .flxAmp => { base := 0x300018, n1 := 256, s1 := 1024 }
  | .flxDg => { base := 0x30001C, n1 := 256, s1 := 1024 }
  | .flxMrkTrim => { base := 0x300020, n1 := 256, s1 := 1024, n2 := 2, s2 := 4 }
  | .flxClipCnt => { base := 0x300028, n1 := 256, s1 := 1024 }
  | .flxFir => { base := 0x300100, n1 := 256, s1 := 1024, n2 := 64, s2 := 4 }
  | .flxIir => { base := 0x300200, n1 := 256, s1 := 1024, n2 := 20, s2 := 4 }
  | .flxSegStat => { base := 0x300300, n1 := 256, s1 := 1024 }
  | .flxSegWdropCnt => { base := 0x300304, n1 := 256, s1 := 1024 }
  | .flxSegJmp => { base := 0x300308, n1 := 256, s1 := 1024 }
  | .engCtrl => { base := 0x400000, n1 := 1088, s1 := 4096 }
  | .engCfg => { base := 0x400004, n1 := 1088, s1 := 4096 }
  | .engStat => { base := 0x400008, n1 := 1088, s1 := 4096 }
  | .engFault => { base := 0x40000C, n1 := 1088, s1 := 4096 }
  | .engPc => { base := 0x400010, n1 := 1088, s1 := 4096 }
  | .engTcLo => { base := 0x400014, n1 := 1088, s1 := 4096 }
  | .engTcHi => { base := 0x400018, n1 := 1088, s1 := 4096 }
  | .engLateCnt => { base := 0x40001C, n1 := 1088, s1 := 4096 }
  | .engFaultPc => { base := 0x400020, n1 := 1088, s1 := 4096 }
  | .engLsr => { base := 0x400024, n1 := 1088, s1 := 4096 }
  | .engImage => { base := 0x400028, n1 := 1088, s1 := 4096 }
  | .engMap => { base := 0x40002C, n1 := 1088, s1 := 4096 }
  | .engPred => { base := 0x400030, n1 := 1088, s1 := 4096 }
  | .meCfg => { base := 0x400034, n1 := 1088, s1 := 4096 }
  | .meStat => { base := 0x400038, n1 := 1088, s1 := 4096 }
  | .engAbortState => { base := 0x40003C, n1 := 1088, s1 := 4096 }
  | .engLoop => { base := 0x400040, n1 := 1088, s1 := 4096, n2 := 4, s2 := 4 }
  | .meAcc => { base := 0x400050, n1 := 1088, s1 := 4096, n2 := 4, s2 := 4 }
  | .meAgCfg => { base := 0x400060, n1 := 1088, s1 := 4096, n2 := 4, s2 := 8 }
  | .meAgOff => { base := 0x400064, n1 := 1088, s1 := 4096, n2 := 4, s2 := 8 }
  | .engG => { base := 0x400080, n1 := 1088, s1 := 4096, n2 := 32, s2 := 4 }

/-- The address of a register in BAR0. -/
def Reg.addr (r : Reg) : Nat := r.k.place.base + r.k.place.s1 * r.i + r.k.place.s2 * r.j

/-- The reset value of a register. -/
def Reg.reset (r : Reg) : Nat :=
  match r.k with
  | .glbId => 0x4A560002
  | .glbRev => 0x00030B00
  | .glbCap => 0x40380004
  | .glbMode => 0x00000120
  | .glbSafeCause => 0x001F0000
  | .glbStreamStat => 0x00140000
  | .hstCmdCfg => 4
  | .hstCplCfg => 4
  | .hstRrCfg => 4
  | .hstRrStat => 0x40000000
  | .clkRefStat => 0x20
  | .clkHold => 0x000003E8
  | .clkSkew => 0x10001000
  | .clkSkewCal => 0x1000
  | .clkTimeCtrl => 0x00323000
  | .cueStat => 0x80000000
  | .cueCh => 4
  | .hkpThrA => 0x645A05F6
  | .hkpThrB => 0x6E
  | .memRh => 0x04001000
  | .lnkCfg => 0x00010777
  | .lnkCtrl => 0x1001
  | .lnkLane => 0x0004000F
  | .lnkRate => 0x28104040
  | .talCfg => 0x00400000
  | .talAlive => 0x80000000
  | .acqCfg => 0x0400FFFF
  | .acqPost => 1
  | .acqRecDest => 1
  | .acqBwStat => 0x00100040
  | .mvpVecPer => 0x00010002
  | .mvpPinCfg => 0x600
  | .qryCfg => 0x0003410A
  | .qryCheck => 0x80000000
  | .qryTmo => 0x00C807D0
  | .qryBudget => 0x00FF03E8
  | .qryWin => 0xFFFF0000
  | .qryFace => 0x40000000
  | .svcSpareStat => 0x10100020
  | .ethCtrl => 2
  | .rfoGain => 0x8000
  | .rfoAtt => 0x3F3F
  | .rfoSlotAmp => 0x8000
  | .rfoRingCfg => 0x01000000
  | .rfiCtrl => 1
  | .rfiChCfg => 0x400 + 16 * (r.i % 4) + r.j
  | .flxCtrl => 0x10
  | .flxSlew => 1000
  | .flxAmp => 0x8000
  | .flxDg => 8
  | .flxFir => if r.j = 0 then 0x40000 else 0
  | .flxIir => if r.j % 5 = 0 then 0x40000000 else 0
  | .engCfg => 1
  | .engMap => if r.i < 1024 then r.i else 0x80000000 + r.i
  | .engPred => 1
  | .meAgCfg => 0x10000000
  | _ => 0

/-- One entry of a field table. -/
def fd (hi lo : Nat) (acc : Acc) (x : Bool := false) (win : Win := .any) (bad : List Nat := []) : FieldInfo :=
  ⟨hi, lo, acc, x, win, bad⟩

/-- The fields of a register, reserved ones left out. -/
def RegK.fields : RegK → List FieldInfo
  | .glbId => [fd 31 16 Acc.ro, fd 15 0 Acc.ro]
  | .glbRev => [fd 17 16 Acc.ro, fd 15 8 Acc.ro, fd 7 0 Acc.ro]
  | .glbCap => [fd 31 24 Acc.ro, fd 23 16 Acc.ro, fd 7 0 Acc.ro]
  | .glbMode => [fd 31 16 Acc.ro, fd 10 10 Acc.ro, fd 9 9 Acc.ro, fd 8 8 Acc.ro, fd 7 4 Acc.ro, fd 3 0 Acc.ro]
  | .glbModeCtrl => [fd 1 1 Acc.own, fd 0 0 Acc.own]
  | .glbSafeCause => [fd 20 16 Acc.ro, fd 8 0 Acc.w1c]
  | .glbReset => [fd 31 0 Acc.own]
  | .glbUidLo => [fd 31 0 Acc.ro]
  | .glbUidHi => [fd 31 0 Acc.ro]
  | .glbXingStat => [fd 12 12 Acc.ros, fd 11 8 Acc.ros, fd 4 4 Acc.ro, fd 3 0 Acc.ro]
  | .glbStreamCtrl => [fd 25 16 Acc.rw, fd 0 0 Acc.rw]
  | .glbStreamStat => [fd 31 31 Acc.own, fd 30 30 Acc.ro, fd 20 16 Acc.ro, fd 4 0 Acc.ro]
  | .glbStreamUcnt => [fd 31 0 Acc.ro]
  | .glbCallerStat => [fd 31 24 Acc.ro, fd 19 18 Acc.ro, fd 16 16 Acc.ro, fd 2 0 Acc.ro]
  | .glbCallerLoad => [fd 31 24 Acc.ro, fd 23 16 Acc.ro, fd 14 8 Acc.ro, fd 7 0 Acc.ro]
  | .glbBootStat => [fd 31 16 Acc.ro, fd 11 8 Acc.ro, fd 3 0 Acc.ro]
  | .glbFlashInfo => [fd 31 28 Acc.ro, fd 27 26 Acc.ro, fd 25 24 Acc.ro, fd 23 16 Acc.ro, fd 0 0 Acc.ro]
  | .glbImgStat => [fd 10 8 Acc.ro, fd 2 0 Acc.ro]
  | .glbPersist => [fd 31 31 Acc.ro, fd 30 30 Acc.w1c, fd 29 29 Acc.w1c, fd 12 12 Acc.ro, fd 11 0 Acc.ro]
  | .hstLinkStat => [fd 31 31 Acc.ro, fd 30 30 Acc.ro, fd 29 29 Acc.ro, fd 28 28 Acc.w1c, fd 11 8 Acc.ro, fd 1 0 Acc.ro]
  | .hstBwin => [fd 3 0 Acc.rw]
  | .hstCmdBaseLo => [fd 31 6 Acc.rw false Win.cmdOff []]
  | .hstCmdBaseHi => [fd 31 0 Acc.rw false Win.cmdOff []]
  | .hstCmdCfg => [fd 31 31 Acc.clr, fd 3 0 Acc.rw false Win.cmdOff []]
  | .hstCmdTail => [fd 15 0 Acc.own]
  | .hstCmdHead => [fd 31 31 Acc.w1c, fd 15 0 Acc.ro]
  | .hstCplBaseLo => [fd 31 6 Acc.rw false Win.cplOff []]
  | .hstCplBaseHi => [fd 31 0 Acc.rw false Win.cplOff []]
  | .hstCplCfg => [fd 31 31 Acc.clr, fd 30 30 Acc.rw, fd 3 0 Acc.rw false Win.cplOff []]
  | .hstCplAck => [fd 27 0 Acc.own]
  | .hstCplStat => [fd 31 31 Acc.w1c, fd 12 0 Acc.ro]
  | .hstPoisonCnt => [fd 31 0 Acc.ro]
  | .hstRr16Drop => [fd 31 0 Acc.ro]
  | .hstCplPeek => [fd 31 0 Acc.ro]
  | .hstCplReady => [fd 31 31 Acc.ro, fd 27 0 Acc.ro]
  | .hstRrBaseLo => [fd 31 6 Acc.rw false Win.rrOff []]
  | .hstRrBaseHi => [fd 31 0 Acc.rw false Win.rrOff []]
  | .hstRrCfg => [fd 31 31 Acc.clr, fd 30 30 Acc.rw, fd 4 0 Acc.rw false Win.rrOff []]
  | .hstRrAck => [fd 27 0 Acc.own]
  | .hstRrStat => [fd 31 31 Acc.w1c, fd 30 30 Acc.ro, fd 27 0 Acc.ro]
  | .clkTtLo => [fd 31 0 Acc.ro]
  | .clkTtHi => [fd 31 0 Acc.ro]
  | .clkTtLoadLo => [fd 31 0 Acc.rw false Win.epoch []]
  | .clkTtLoadHi => [fd 31 0 Acc.rw false Win.epoch []]
  | .clkEpoch => [fd 15 8 Acc.ro, fd 3 3 Acc.w1c, fd 2 2 Acc.ro, fd 1 1 Acc.ro, fd 0 0 Acc.own]
  | .clkRefCtrl => [fd 4 4 Acc.rw, fd 1 0 Acc.own]
  | .clkRefStat => [fd 15 8 Acc.ro, fd 7 7 Acc.w1c, fd 6 6 Acc.w1c, fd 5 5 Acc.ro, fd 4 4 Acc.ro, fd 3 3 Acc.ro, fd 2 2 Acc.ro, fd 1 1 Acc.ro, fd 0 0 Acc.ro]
  | .clkHold => [fd 31 16 Acc.ro, fd 15 0 Acc.rw true Win.any []]
  | .clkSkew => [fd 31 31 Acc.ro, fd 30 30 Acc.w1c, fd 28 16 Acc.own, fd 12 0 Acc.ro]
  | .clkSkewCal => [fd 12 0 Acc.ro]
  | .clkWtAdj => [fd 31 0 Acc.adj]
  | .clkTimeCtrl => [fd 31 31 Acc.own, fd 23 16 Acc.rw, fd 15 15 Acc.w1c, fd 13 13 Acc.rw, fd 12 12 Acc.rw, fd 9 9 Acc.rw, fd 8 8 Acc.rw, fd 4 4 Acc.rw, fd 3 2 Acc.rw false Win.any [3], fd 1 0 Acc.rw false Win.any [3]]
  | .clkPtpCfg => [fd 26 26 Acc.rw, fd 25 24 Acc.rw false Win.any [3], fd 22 16 Acc.rw, fd 10 10 Acc.rw, fd 9 8 Acc.rw false Win.any [3], fd 6 0 Acc.rw]
  | .clkDomStat => [fd 31 31 Acc.ro, fd 30 30 Acc.ro, fd 29 0 Acc.ro]
  | .clkSnap => [fd 1 1 Acc.own, fd 0 0 Acc.own]
  | .clkSnapTt => [fd 31 0 Acc.ro]
  | .clkSnapWt => [fd 31 0 Acc.ro]
  | .clkWtSetSecLo => [fd 31 0 Acc.rw]
  | .clkWtSetSecHi => [fd 15 0 Acc.rw]
  | .clkWtSetNs => [fd 31 0 Acc.rw]
  | .cueStat => [fd 31 31 Acc.ro, fd 30 30 Acc.own, fd 29 29 Acc.ro, fd 27 24 Acc.ro, fd 11 0 Acc.ro]
  | .cueFire => [fd 9 0 Acc.own]
  | .cueLostCnt => [fd 31 0 Acc.ro]
  | .cueCoinc => [fd 31 0 Acc.w1c]
  | .cueCh => [fd 31 16 Acc.ro, fd 7 0 Acc.own]
  | .cueCellIn01 => [fd 31 31 Acc.own, fd 25 16 Acc.own, fd 15 15 Acc.own, fd 9 0 Acc.own]
  | .cueCellIn23 => [fd 31 31 Acc.own, fd 25 16 Acc.own, fd 15 15 Acc.own, fd 9 0 Acc.own]
  | .cueCellCfg => [fd 31 16 Acc.own, fd 15 14 Acc.own, fd 13 13 Acc.own, fd 9 8 Acc.own, fd 7 0 Acc.own]
  | .cueCellClr => [fd 31 31 Acc.ro, fd 30 30 Acc.ro, fd 15 15 Acc.own, fd 9 0 Acc.own]
  | .cueExpA => [fd 31 31 Acc.own, fd 30 30 Acc.own, fd 25 16 Acc.own, fd 8 0 Acc.own]
  | .cueExpB => [fd 21 16 Acc.own, fd 7 0 Acc.own]
  | .cueRmt => [fd 31 31 Acc.own, fd 30 30 Acc.own, fd 24 16 Acc.own, fd 15 0 Acc.ro]
  | .cueLsn => [fd 31 31 Acc.ro, fd 30 30 Acc.ro, fd 25 16 Acc.ro, fd 7 0 Acc.ro]
  | .cueVerd => [fd 31 0 Acc.ro]
  | .hkpStat => [fd 4 4 Acc.ro, fd 3 3 Acc.ro, fd 2 2 Acc.ro, fd 1 1 Acc.ro, fd 0 0 Acc.ro]
  | .hkpRound => [fd 31 0 Acc.ro]
  | .hkpTrip => [fd 31 31 Acc.w1c, fd 12 12 Acc.ro, fd 11 8 Acc.ro, fd 4 0 Acc.ro]
  | .hkpPwr => [fd 31 16 Acc.ro, fd 15 0 Acc.ro]
  | .hkpZstat => [fd 31 16 Acc.ro, fd 11 8 Acc.ro, fd 2 0 Acc.ro]
  | .hkpThrA => [fd 31 24 Acc.ro, fd 23 16 Acc.ro, fd 15 8 Acc.ro, fd 7 0 Acc.ro]
  | .hkpThrB => [fd 7 0 Acc.ro]
  | .hkpSens => [fd 31 16 Acc.ro, fd 15 15 Acc.ro, fd 14 12 Acc.ro]
  | .hkpMon => [fd 31 31 Acc.ro, fd 30 30 Acc.w1c, fd 15 0 Acc.ro]
  | .memCtrl => [fd 31 31 Acc.rw true Win.any [], fd 0 0 Acc.rw]
  | .memStat => [fd 24 24 Acc.ro, fd 23 16 Acc.ro, fd 10 8 Acc.ro, fd 7 4 Acc.ro, fd 3 0 Acc.ro]
  | .memEccCe => [fd 31 0 Acc.ro]
  | .memEccUe => [fd 31 0 Acc.ro]
  | .memErrLo => [fd 31 6 Acc.ro]
  | .memErrHi => [fd 31 0 Acc.ro]
  | .memRh => [fd 31 16 Acc.rw true Win.any [], fd 15 0 Acc.rw true Win.any []]
  | .memThrottleCnt => [fd 31 0 Acc.ro]
  | .memPprStat => [fd 31 16 Acc.ro, fd 15 8 Acc.ro, fd 7 0 Acc.ro]
  | .memChDly => [fd 30 24 Acc.ro, fd 20 14 Acc.ro, fd 13 7 Acc.ro, fd 6 0 Acc.ro]
  | .memChOvr => [fd 30 24 Acc.rw true Win.any [], fd 22 16 Acc.rw true Win.any [], fd 14 8 Acc.rw true Win.any [], fd 6 0 Acc.rw true Win.any []]
  | .lnkId => [fd 8 0 Acc.ro]
  | .lnkCfg => [fd 31 31 Acc.rw true Win.live [], fd 17 17 Acc.rw false Win.live [], fd 16 16 Acc.rw false Win.live [], fd 10 8 Acc.rw false Win.live [], fd 6 4 Acc.rw false Win.live [], fd 2 0 Acc.rw false Win.live []]
  | .lnkKey => [fd 31 0 Acc.key false Win.live []]
  | .lnkKeyId => [fd 31 31 Acc.ro, fd 15 0 Acc.rw false Win.live []]
  | .lnkTimeRoot => [fd 24 16 Acc.rw false Win.live [], fd 8 0 Acc.rw false Win.live []]
  | .lnkBwinLo => [fd 31 6 Acc.rw false Win.live []]
  | .lnkBwinHi => [fd 3 0 Acc.rw false Win.live []]
  | .lnkBwinLen => [fd 31 6 Acc.rw false Win.live []]
  | .lnkBwinSrc => [fd 31 31 Acc.rw false Win.live [], fd 8 0 Acc.rw false Win.live []]
  | .lnkBxfSrcLo => [fd 31 0 Acc.rw false Win.live []]
  | .lnkBxfSrcHi => [fd 31 0 Acc.rw false Win.live []]
  | .lnkBxfDstLo => [fd 31 0 Acc.rw false Win.live []]
  | .lnkBxfDstHi => [fd 31 0 Acc.rw false Win.live []]
  | .lnkBxfLen => [fd 31 0 Acc.rw false Win.live []]
  | .lnkBxfCtrl => [fd 31 31 Acc.own, fd 30 30 Acc.ro, fd 29 28 Acc.ro, fd 8 0 Acc.rw false Win.live []]
  | .lnkDecRepeat => [fd 31 0 Acc.ro]
  | .lnkDecGap => [fd 31 0 Acc.ro]
  | .lnkMgmtDisc => [fd 31 0 Acc.ro]
  | .lnkNoroute => [fd 31 0 Acc.ro]
  | .lnkCtrl => [fd 15 8 Acc.rw true Win.live [], fd 0 0 Acc.rw false Win.live []]
  | .lnkStat => [fd 31 31 Acc.ro, fd 30 30 Acc.ro, fd 29 27 Acc.ro, fd 24 16 Acc.ro, fd 5 4 Acc.ro, fd 3 0 Acc.ro]
  | .lnkLane => [fd 18 16 Acc.ro, fd 12 8 Acc.ro, fd 4 0 Acc.ro]
  | .lnkFlight => [fd 15 0 Acc.ro]
  | .lnkRate => [fd 31 24 Acc.rw false Win.live [], fd 23 16 Acc.rw false Win.live [], fd 15 8 Acc.rw false Win.live [], fd 7 0 Acc.rw false Win.live []]
  | .lnkCntCrc => [fd 31 0 Acc.ro]
  | .lnkCntLoss => [fd 31 0 Acc.ro]
  | .lnkCntVal => [fd 31 0 Acc.ro]
  | .lnkCntRate => [fd 31 0 Acc.ro]
  | .lnkCntRetry => [fd 31 0 Acc.ro]
  | .lnkCntDrop => [fd 31 0 Acc.ro]
  | .talCtrl => [fd 2 2 Acc.own, fd 1 1 Acc.own, fd 0 0 Acc.own]
  | .talCfg => [fd 31 31 Acc.rw, fd 30 30 Acc.rw, fd 29 29 Acc.rw, fd 28 16 Acc.rw, fd 15 4 Acc.rw, fd 3 3 Acc.rw, fd 2 2 Acc.rw, fd 1 0 Acc.rw]
  | .talStat => [fd 31 31 Acc.ro, fd 30 28 Acc.ro, fd 5 5 Acc.w1c, fd 4 4 Acc.w1c, fd 3 3 Acc.w1c, fd 2 2 Acc.w1c, fd 0 0 Acc.w1c]
  | .talSrcLo => [fd 31 0 Acc.rw false Win.talIdle []]
  | .talSrcHi => [fd 3 0 Acc.rw false Win.talIdle []]
  | .talLen => [fd 31 0 Acc.rw false Win.talIdle []]
  | .talPos => [fd 31 0 Acc.rw false Win.talCtx []]
  | .talRunLo => [fd 31 0 Acc.rw false Win.talCtx []]
  | .talRunHi => [fd 31 0 Acc.rw false Win.talCtx []]
  | .talExpLo => [fd 31 0 Acc.rw]
  | .talExpHi => [fd 31 0 Acc.rw]
  | .talResLo => [fd 31 0 Acc.ro]
  | .talResHi => [fd 31 0 Acc.ro]
  | .talAlive => [fd 31 31 Acc.rw false Win.talCtx [], fd 23 16 Acc.ro, fd 15 8 Acc.ro, fd 7 0 Acc.rw false Win.talCtx []]
  | .talMisCnt => [fd 31 0 Acc.ro]
  | .talFrmCnt => [fd 31 0 Acc.ro]
  | .ucsPatchStat => [fd 31 30 Acc.ro, fd 29 27 Acc.ro, fd 26 24 Acc.ro]
  | .ucsEccCnt => [fd 31 16 Acc.ro, fd 15 0 Acc.ro]
  | .ucsLoadStat => [fd 31 28 Acc.ro, fd 27 26 Acc.ro, fd 10 0 Acc.ro]
  | .ucsPatchVer => [fd 31 0 Acc.ro]
  | .ucsPatchSvn => [fd 31 16 Acc.ro, fd 15 0 Acc.ro]
  | .ucsOpenVer => [fd 31 31 Acc.ro, fd 27 16 Acc.ro, fd 15 0 Acc.ro]
  | .ucsOpenDig => [fd 31 0 Acc.ro]
  | .ucsEngCont => [fd 31 31 Acc.ro, fd 30 30 Acc.ro, fd 23 16 Acc.ro, fd 10 0 Acc.ro]
  | .ucsEngGmask => [fd 31 0 Acc.ro]
  | .acqCfg => [fd 31 28 Acc.rw false Win.acqIdle [], fd 27 27 Acc.rw false Win.acqIdle [], fd 26 26 Acc.rw false Win.acqIdle [], fd 25 24 Acc.rw false Win.acqIdle [], fd 23 23 Acc.rw false Win.acqIdle [], fd 22 22 Acc.rw false Win.acqIdle [], fd 21 20 Acc.rw false Win.acqIdle [], fd 19 16 Acc.rw false Win.acqIdle [], fd 15 0 Acc.rw false Win.acqIdle []]
  | .acqStat => [fd 31 29 Acc.ro, fd 4 4 Acc.w1c false Win.acqIdle, fd 3 3 Acc.w1c false Win.acqIdle, fd 2 2 Acc.w1c false Win.acqIdle, fd 1 1 Acc.w1c false Win.acqIdle, fd 0 0 Acc.w1c false Win.acqIdle]
  | .acqPre => [fd 31 0 Acc.rw false Win.acqIdle []]
  | .acqPost => [fd 31 0 Acc.rw false Win.acqIdle []]
  | .acqTrig => [fd 26 24 Acc.rw false Win.acqIdle [4, 5, 6, 7], fd 9 0 Acc.rw false Win.acqIdle []]
  | .acqNrec => [fd 15 0 Acc.rw false Win.acqIdle []]
  | .acqTtTrigLo => [fd 31 0 Acc.rw false Win.acqIdle []]
  | .acqTtTrigHi => [fd 31 0 Acc.rw false Win.acqIdle []]
  | .acqTtPer => [fd 31 0 Acc.rw false Win.acqIdle []]
  | .acqRecCnt => [fd 31 0 Acc.ro]
  | .acqMissCnt => [fd 31 0 Acc.ro]
  | .acqMissLo => [fd 31 0 Acc.ro]
  | .acqMissHi => [fd 31 0 Acc.ro]
  | .acqMissInfo => [fd 31 31 Acc.ro, fd 14 8 Acc.ro, fd 2 0 Acc.ro]
  | .acqMissPop => [fd 0 0 Acc.own]
  | .acqBulkBaseLo => [fd 31 12 Acc.rw false Win.acqIdle []]
  | .acqBulkBaseHi => [fd 31 0 Acc.rw false Win.acqIdle []]
  | .acqBulkLen => [fd 31 12 Acc.rw false Win.acqIdle []]
  | .acqBulkWr => [fd 31 0 Acc.ro]
  | .acqBulkRd => [fd 31 6 Acc.own]
  | .acqRecDest => [fd 1 0 Acc.rw false Win.acqIdle []]
  | .acqRecDiscCnt => [fd 31 0 Acc.ro]
  | .acqThr => [fd 31 0 Acc.rw false Win.acqIdle []]
  | .acqHistEdgeCnt => [fd 31 0 Acc.ro]
  | .acqHistCfg => [fd 4 0 Acc.rw false Win.acqIdle []]
  | .acqHcI => [fd 31 0 Acc.rw false Win.acqIdle []]
  | .acqHcQ => [fd 31 0 Acc.rw false Win.acqIdle []]
  | .acqTbusComp => [fd 15 0 Acc.rw false Win.stbyCal []]
  | .acqBwStat => [fd 31 31 Acc.ro, fd 30 24 Acc.ro, fd 23 16 Acc.ro, fd 15 8 Acc.ro, fd 7 0 Acc.ro]
  | .mvpCtrl => [fd 31 31 Acc.rw true Win.any []]
  | .mvpStat => [fd 6 6 Acc.ro, fd 5 5 Acc.w1c, fd 4 4 Acc.w1c, fd 3 3 Acc.w1c, fd 2 2 Acc.w1c, fd 1 1 Acc.w1c, fd 0 0 Acc.w1c]
  | .mvpVecRange => [fd 31 16 Acc.rw, fd 15 0 Acc.rw]
  | .mvpVecPer => [fd 31 16 Acc.rw, fd 15 0 Acc.rw]
  | .mvpVstartLo => [fd 31 0 Acc.rw]
  | .mvpVstartHi => [fd 31 0 Acc.rw]
  | .mvpVecGo => [fd 31 31 Acc.own, fd 30 30 Acc.own, fd 29 29 Acc.rw, fd 28 28 Acc.rw, fd 9 0 Acc.rw]
  | .mvpFailCnt => [fd 31 0 Acc.ro]
  | .mvpFailE => [fd 31 0 Acc.ro]
  | .mvpFailPop => [fd 0 0 Acc.own]
  | .mvpTrigCfg => [fd 5 4 Acc.rw false Win.stbyCal [], fd 3 0 Acc.rw false Win.stbyCal []]
  | .mvpTbusCfg => [fd 31 31 Acc.rw false Win.stbyCal [], fd 25 16 Acc.rw false Win.stbyCal [], fd 15 8 Acc.rw false Win.stbyCal [], fd 5 4 Acc.rw false Win.stbyCal [], fd 3 0 Acc.rw false Win.stbyCal []]
  | .mvpPinCfg => [fd 31 30 Acc.own, fd 29 29 Acc.own, fd 28 27 Acc.own, fd 26 25 Acc.own, fd 23 20 Acc.own, fd 19 18 Acc.own, fd 10 0 Acc.own]
  | .mvpPinTrim => [fd 31 31 Acc.ro, fd 23 16 Acc.rw true Win.any [], fd 7 0 Acc.ro]
  | .mvpTsPin => [fd 31 16 Acc.rw false Win.mvpStop [], fd 15 0 Acc.rw false Win.mvpStop []]
  | .qryCtrl => [fd 31 31 Acc.own true Win.any [], fd 0 0 Acc.own]
  | .qryCfg => [fd 25 16 Acc.own, fd 15 14 Acc.own false Win.any [3], fd 13 4 Acc.own, fd 3 0 Acc.own]
  | .qryStat => [fd 11 11 Acc.w1c, fd 10 8 Acc.ro, fd 6 6 Acc.w1c, fd 5 5 Acc.ro, fd 2 0 Acc.ro]
  | .qryCheck => [fd 31 31 Acc.ro, fd 30 30 Acc.own, fd 29 29 Acc.ro, fd 27 24 Acc.ro, fd 16 0 Acc.ro]
  | .qryBench0 => [fd 15 0 Acc.own]
  | .qryTmo => [fd 31 16 Acc.own, fd 15 0 Acc.own]
  | .qryBudget => [fd 23 16 Acc.own true Win.any [], fd 15 0 Acc.own]
  | .qryWin => [fd 31 16 Acc.ro, fd 15 0 Acc.ro]
  | .qryLag => [fd 31 24 Acc.ro, fd 23 16 Acc.ro, fd 15 0 Acc.ro]
  | .qryLast0 => [fd 31 24 Acc.ro, fd 23 16 Acc.ro, fd 15 0 Acc.ro]
  | .qryLast1 => [fd 31 16 Acc.ro, fd 13 8 Acc.ro, fd 5 0 Acc.ro]
  | .qryCnt => [fd 31 0 Acc.ro]
  | .qryFrameXor => [fd 9 8 Acc.own, fd 7 0 Acc.own]
  | .qryResume => [fd 31 31 Acc.own, fd 15 0 Acc.own]
  | .qryFrame => [fd 31 0 Acc.ro]
  | .qryFace => [fd 31 31 Acc.own, fd 30 30 Acc.own, fd 26 26 Acc.ro, fd 25 25 Acc.ro, fd 23 16 Acc.ro, fd 8 0 Acc.own]
  | .qryAnc => [fd 31 31 Acc.own, fd 30 30 Acc.own]
  | .svcLogStat => [fd 31 31 Acc.ro, fd 12 0 Acc.ro]
  | .svcLogNext => [fd 31 0 Acc.ro]
  | .svcStateRej => [fd 31 0 Acc.ro]
  | .svcEngEcc => [fd 31 0 Acc.ro]
  | .svcEccLast => [fd 31 31 Acc.ro, fd 10 0 Acc.ro]
  | .svcSpareStat => [fd 28 24 Acc.ro, fd 20 16 Acc.ro, fd 5 0 Acc.ro]
  | .svcSyncTtLo => [fd 31 0 Acc.ro]
  | .svcSyncTtHi => [fd 31 0 Acc.ro]
  | .svcNbrUnavail => [fd 5 0 Acc.ro]
  | .svcRetired => [fd 31 0 Acc.ro]
  | .ethCtrl => [fd 1 1 Acc.own, fd 0 0 Acc.own]
  | .ethStat => [fd 1 1 Acc.ro, fd 0 0 Acc.ro]
  | .ethMacLo => [fd 31 0 Acc.ro]
  | .ethMacHi => [fd 15 0 Acc.ro]
  | .ethPtpDisc => [fd 31 0 Acc.ro]
  | .rfoCtrl => [fd 31 31 Acc.rw true Win.any [], fd 25 16 Acc.rw, fd 9 9 Acc.rw, fd 8 8 Acc.own, fd 5 5 Acc.rw true Win.any [], fd 4 4 Acc.rw false Win.stbyCal [], fd 1 0 Acc.rw false Win.stbyCal [2, 3]]
  | .rfoStat => [fd 7 7 Acc.ro, fd 6 6 Acc.own, fd 5 5 Acc.ro, fd 4 4 Acc.w1c, fd 3 3 Acc.w1c, fd 2 2 Acc.w1c, fd 1 1 Acc.ro, fd 0 0 Acc.ro]
  | .rfoGain => [fd 15 0 Acc.rw]
  | .rfoAtt => [fd 13 8 Acc.ro, fd 5 0 Acc.own]
  | .rfoClipCnt => [fd 31 0 Acc.ro]
  | .rfoTset => [fd 19 16 Acc.rw false Win.sca [], fd 8 0 Acc.rw false Win.sca []]
  | .rfoMrkTrim => [fd 31 31 Acc.ro, fd 23 16 Acc.rw true Win.any [], fd 7 0 Acc.ro]
  | .rfoSlotFtwLo => [fd 31 0 Acc.rw]
  | .rfoSlotFtwHi => [fd 15 0 Acc.rw]
  | .rfoSlotPh => [fd 31 0 Acc.rw]
  | .rfoSlotAmp => [fd 18 16 Acc.rw, fd 15 0 Acc.rw]
  | .rfoSegStat => [fd 3 3 Acc.w1c, fd 2 2 Acc.w1c, fd 1 1 Acc.w1c, fd 0 0 Acc.w1c]
  | .rfoSegWdropCnt => [fd 31 0 Acc.ro]
  | .rfoSlotJmp => [fd 25 16 Acc.rw, fd 15 8 Acc.ro, fd 2 2 Acc.ro, fd 1 1 Acc.own, fd 0 0 Acc.rw]
  | .rfoRingCtrl => [fd 1 1 Acc.own, fd 0 0 Acc.own]
  | .rfoRingCfg => [fd 29 16 Acc.rw false Win.ringShut [], fd 13 0 Acc.rw false Win.ringShut []]
  | .rfoRingSrcLo => [fd 31 6 Acc.rw false Win.ringShut []]
  | .rfoRingSrcHi => [fd 3 0 Acc.rw false Win.ringShut []]
  | .rfoRingSrcLen => [fd 27 0 Acc.rw false Win.ringShut []]
  | .rfoRingStat => [fd 31 31 Acc.ro, fd 30 30 Acc.ro, fd 29 29 Acc.w1c, fd 28 28 Acc.w1c, fd 27 27 Acc.w1c, fd 26 24 Acc.ro, fd 13 0 Acc.ro]
  | .rfoRingUcnt => [fd 31 0 Acc.ro]
  | .rfiCtrl => [fd 31 31 Acc.rw true Win.any [], fd 4 4 Acc.rw true Win.any [], fd 0 0 Acc.rw]
  | .rfiStat => [fd 4 4 Acc.w1c, fd 2 2 Acc.w1c, fd 1 1 Acc.ro, fd 0 0 Acc.ro]
  | .rfiOvrCnt => [fd 31 0 Acc.ro]
  | .rfiDsat => [fd 15 0 Acc.w1c]
  | .rfiChCfg => [fd 27 16 Acc.rw, fd 15 15 Acc.rw, fd 10 8 Acc.rw, fd 5 0 Acc.rw]
  | .rfiChRot => [fd 31 0 Acc.rw]
  | .rfiChFtwLo => [fd 31 0 Acc.rw]
  | .rfiChFtwHi => [fd 15 0 Acc.rw]
  | .flxCtrl => [fd 31 31 Acc.rw true Win.any [], fd 4 4 Acc.rw, fd 1 0 Acc.rw false Win.any [3]]
  | .flxStat => [fd 9 9 Acc.w1c, fd 8 8 Acc.w1c, fd 7 7 Acc.w1c, fd 6 6 Acc.w1c, fd 5 5 Acc.w1c, fd 4 4 Acc.w1c, fd 3 3 Acc.ro, fd 2 2 Acc.ro, fd 1 1 Acc.ro, fd 0 0 Acc.ro]
  | .flxPark => [fd 17 0 Acc.rw]
  | .flxSlew => [fd 15 0 Acc.rw]
  | .flxLevel => [fd 17 0 Acc.ro]
  | .flxFaultCnt => [fd 31 16 Acc.ro, fd 15 0 Acc.ro]
  | .flxAmp => [fd 15 0 Acc.rw]
  | .flxDg => [fd 4 0 Acc.rw true Win.any []]
  | .flxMrkTrim => [fd 31 31 Acc.ro, fd 23 16 Acc.rw true Win.any [], fd 7 0 Acc.ro]
  | .flxClipCnt => [fd 31 0 Acc.ro]
  | .flxFir => [fd 19 0 Acc.rw true Win.sca []]
  | .flxIir => [fd 31 0 Acc.rw true Win.sca []]
  | .flxSegStat => [fd 3 3 Acc.w1c, fd 2 2 Acc.w1c, fd 1 1 Acc.w1c, fd 0 0 Acc.w1c]
  | .flxSegWdropCnt => [fd 31 0 Acc.ro]
  | .flxSegJmp => [fd 25 16 Acc.rw, fd 15 8 Acc.ro, fd 2 2 Acc.ro, fd 1 1 Acc.own, fd 0 0 Acc.rw]
  | .engCtrl => [fd 0 0 Acc.own]
  | .engCfg => [fd 2 2 Acc.eng, fd 1 1 Acc.eng, fd 0 0 Acc.eng]
  | .engStat => [fd 11 8 Acc.ro, fd 7 6 Acc.ro, fd 3 0 Acc.ro]
  | .engFault => [fd 31 31 Acc.eng, fd 30 30 Acc.ro, fd 15 8 Acc.ro, fd 7 0 Acc.ro]
  | .engPc => [fd 13 0 Acc.ro]
  | .engTcLo => [fd 31 0 Acc.ro]
  | .engTcHi => [fd 31 0 Acc.ro]
  | .engLateCnt => [fd 31 0 Acc.ro]
  | .engFaultPc => [fd 13 0 Acc.ro]
  | .engLsr => [fd 6 6 Acc.eng, fd 5 5 Acc.eng, fd 4 4 Acc.eng, fd 3 3 Acc.eng, fd 2 2 Acc.eng, fd 1 1 Acc.eng, fd 0 0 Acc.eng]
  | .engImage => [fd 31 31 Acc.ro, fd 17 16 Acc.ro, fd 13 0 Acc.ro]
  | .engMap => [fd 31 31 Acc.ro, fd 30 30 Acc.ro, fd 25 16 Acc.ro, fd 10 0 Acc.ro]
  | .engPred => [fd 7 0 Acc.ro]
  | .meCfg => [fd 0 0 Acc.eng]
  | .meStat => [fd 31 31 Acc.ro, fd 30 30 Acc.ro, fd 27 24 Acc.ro, fd 23 16 Acc.ro, fd 12 0 Acc.ro]
  | .engAbortState => [fd 31 31 Acc.ro, fd 30 30 Acc.ro, fd 29 24 Acc.ro, fd 23 16 Acc.ro, fd 10 0 Acc.ro]
  | .engLoop => [fd 31 31 Acc.ro, fd 23 0 Acc.ro]
  | .meAcc => [fd 31 0 Acc.ro]
  | .meAgCfg => [fd 28 16 Acc.ro, fd 13 0 Acc.ro]
  | .meAgOff => [fd 11 0 Acc.ro]
  | .engG => [fd 31 0 Acc.eng]

/-- Register names, part 1. -/
def RegK.part1 : List RegK :=
  [.glbId, .glbRev, .glbCap, .glbMode, .glbModeCtrl, .glbSafeCause, .glbReset, .glbUidLo, .glbUidHi, .glbXingStat, .glbStreamCtrl, .glbStreamStat, .glbStreamUcnt, .glbCallerStat, .glbCallerLoad, .glbBootStat, .glbFlashInfo, .glbImgStat, .glbPersist, .hstLinkStat, .hstBwin, .hstCmdBaseLo, .hstCmdBaseHi, .hstCmdCfg, .hstCmdTail, .hstCmdHead, .hstCplBaseLo, .hstCplBaseHi, .hstCplCfg, .hstCplAck, .hstCplStat, .hstPoisonCnt, .hstRr16Drop, .hstCplPeek, .hstCplReady, .hstRrBaseLo, .hstRrBaseHi, .hstRrCfg, .hstRrAck, .hstRrStat]

/-- Register names, part 2. -/
def RegK.part2 : List RegK :=
  [.clkTtLo, .clkTtHi, .clkTtLoadLo, .clkTtLoadHi, .clkEpoch, .clkRefCtrl, .clkRefStat, .clkHold, .clkSkew, .clkSkewCal, .clkWtAdj, .clkTimeCtrl, .clkPtpCfg, .clkDomStat, .clkSnap, .clkSnapTt, .clkSnapWt, .clkWtSetSecLo, .clkWtSetSecHi, .clkWtSetNs, .cueStat, .cueFire, .cueLostCnt, .cueCoinc, .cueCh, .cueCellIn01, .cueCellIn23, .cueCellCfg, .cueCellClr, .cueExpA, .cueExpB, .cueRmt, .cueLsn, .cueVerd, .hkpStat, .hkpRound, .hkpTrip, .hkpPwr, .hkpZstat, .hkpThrA]

/-- Register names, part 3. -/
def RegK.part3 : List RegK :=
  [.hkpThrB, .hkpSens, .hkpMon, .memCtrl, .memStat, .memEccCe, .memEccUe, .memErrLo, .memErrHi, .memRh, .memThrottleCnt, .memPprStat, .memChDly, .memChOvr, .lnkId, .lnkCfg, .lnkKey, .lnkKeyId, .lnkTimeRoot, .lnkBwinLo, .lnkBwinHi, .lnkBwinLen, .lnkBwinSrc, .lnkBxfSrcLo, .lnkBxfSrcHi, .lnkBxfDstLo, .lnkBxfDstHi, .lnkBxfLen, .lnkBxfCtrl, .lnkDecRepeat, .lnkDecGap, .lnkMgmtDisc, .lnkNoroute, .lnkCtrl, .lnkStat, .lnkLane, .lnkFlight, .lnkRate, .lnkCntCrc, .lnkCntLoss]

/-- Register names, part 4. -/
def RegK.part4 : List RegK :=
  [.lnkCntVal, .lnkCntRate, .lnkCntRetry, .lnkCntDrop, .talCtrl, .talCfg, .talStat, .talSrcLo, .talSrcHi, .talLen, .talPos, .talRunLo, .talRunHi, .talExpLo, .talExpHi, .talResLo, .talResHi, .talAlive, .talMisCnt, .talFrmCnt, .ucsPatchStat, .ucsEccCnt, .ucsLoadStat, .ucsPatchVer, .ucsPatchSvn, .ucsOpenVer, .ucsOpenDig, .ucsEngCont, .ucsEngGmask, .acqCfg, .acqStat, .acqPre, .acqPost, .acqTrig, .acqNrec, .acqTtTrigLo, .acqTtTrigHi, .acqTtPer, .acqRecCnt, .acqMissCnt]

/-- Register names, part 5. -/
def RegK.part5 : List RegK :=
  [.acqMissLo, .acqMissHi, .acqMissInfo, .acqMissPop, .acqBulkBaseLo, .acqBulkBaseHi, .acqBulkLen, .acqBulkWr, .acqBulkRd, .acqRecDest, .acqRecDiscCnt, .acqThr, .acqHistEdgeCnt, .acqHistCfg, .acqHcI, .acqHcQ, .acqTbusComp, .acqBwStat, .mvpCtrl, .mvpStat, .mvpVecRange, .mvpVecPer, .mvpVstartLo, .mvpVstartHi, .mvpVecGo, .mvpFailCnt, .mvpFailE, .mvpFailPop, .mvpTrigCfg, .mvpTbusCfg, .mvpPinCfg, .mvpPinTrim, .mvpTsPin, .qryCtrl, .qryCfg, .qryStat, .qryCheck, .qryBench0, .qryTmo, .qryBudget]

/-- Register names, part 6. -/
def RegK.part6 : List RegK :=
  [.qryWin, .qryLag, .qryLast0, .qryLast1, .qryCnt, .qryFrameXor, .qryResume, .qryFrame, .qryFace, .qryAnc, .svcLogStat, .svcLogNext, .svcStateRej, .svcEngEcc, .svcEccLast, .svcSpareStat, .svcSyncTtLo, .svcSyncTtHi, .svcNbrUnavail, .svcRetired, .ethCtrl, .ethStat, .ethMacLo, .ethMacHi, .ethPtpDisc, .rfoCtrl, .rfoStat, .rfoGain, .rfoAtt, .rfoClipCnt, .rfoTset, .rfoMrkTrim, .rfoSlotFtwLo, .rfoSlotFtwHi, .rfoSlotPh, .rfoSlotAmp, .rfoSegStat, .rfoSegWdropCnt, .rfoSlotJmp, .rfoRingCtrl]

/-- Register names, part 7. -/
def RegK.part7 : List RegK :=
  [.rfoRingCfg, .rfoRingSrcLo, .rfoRingSrcHi, .rfoRingSrcLen, .rfoRingStat, .rfoRingUcnt, .rfiCtrl, .rfiStat, .rfiOvrCnt, .rfiDsat, .rfiChCfg, .rfiChRot, .rfiChFtwLo, .rfiChFtwHi, .flxCtrl, .flxStat, .flxPark, .flxSlew, .flxLevel, .flxFaultCnt, .flxAmp, .flxDg, .flxMrkTrim, .flxClipCnt, .flxFir, .flxIir, .flxSegStat, .flxSegWdropCnt, .flxSegJmp, .engCtrl, .engCfg, .engStat, .engFault, .engPc, .engTcLo, .engTcHi, .engLateCnt, .engFaultPc, .engLsr, .engImage]

/-- Register names, part 8. -/
def RegK.part8 : List RegK :=
  [.engMap, .engPred, .meCfg, .meStat, .engAbortState, .engLoop, .meAcc, .meAgCfg, .meAgOff, .engG]

/-- Every register name, in the order of the chapters. -/
def RegK.all : List RegK :=
  part1 ++ part2 ++ part3 ++ part4 ++ part5 ++ part6 ++ part7 ++ part8

/-! Named fields. -/
abbrev glbCapUsableGib : Fld := ⟨⟨.glbCap, 0, 0⟩, 23, 16⟩
abbrev glbSafeCauseFirst : Fld := ⟨⟨.glbSafeCause, 0, 0⟩, 20, 16⟩
abbrev glbXingStatIoSlip : Fld := ⟨⟨.glbXingStat, 0, 0⟩, 12, 12⟩
abbrev glbXingStatCdSlip : Fld := ⟨⟨.glbXingStat, 0, 0⟩, 11, 8⟩
abbrev glbXingStatIoAligned : Fld := ⟨⟨.glbXingStat, 0, 0⟩, 4, 4⟩
abbrev glbXingStatCdAligned : Fld := ⟨⟨.glbXingStat, 0, 0⟩, 3, 0⟩
abbrev glbStreamStatShotInval : Fld := ⟨⟨.glbStreamStat, 0, 0⟩, 31, 31⟩
abbrev glbStreamStatOversub : Fld := ⟨⟨.glbStreamStat, 0, 0⟩, 30, 30⟩
abbrev glbStreamStatLimit : Fld := ⟨⟨.glbStreamStat, 0, 0⟩, 20, 16⟩
abbrev glbStreamStatOpenCnt : Fld := ⟨⟨.glbStreamStat, 0, 0⟩, 4, 0⟩
abbrev glbCallerStatRstCnt : Fld := ⟨⟨.glbCallerStat, 0, 0⟩, 31, 24⟩
abbrev glbCallerStatCause : Fld := ⟨⟨.glbCallerStat, 0, 0⟩, 19, 18⟩
abbrev glbCallerStatGhCopy : Fld := ⟨⟨.glbCallerStat, 0, 0⟩, 16, 16⟩
abbrev glbCallerStatState : Fld := ⟨⟨.glbCallerStat, 0, 0⟩, 2, 0⟩
abbrev glbCallerLoadQmax : Fld := ⟨⟨.glbCallerLoad, 0, 0⟩, 23, 16⟩
abbrev glbBootStatBootMs : Fld := ⟨⟨.glbBootStat, 0, 0⟩, 31, 16⟩
abbrev glbBootStatFail : Fld := ⟨⟨.glbBootStat, 0, 0⟩, 11, 8⟩
abbrev glbBootStatStage : Fld := ⟨⟨.glbBootStat, 0, 0⟩, 3, 0⟩
abbrev glbFlashInfoDens : Fld := ⟨⟨.glbFlashInfo, 0, 0⟩, 31, 28⟩
abbrev glbFlashInfoAddr : Fld := ⟨⟨.glbFlashInfo, 0, 0⟩, 27, 26⟩
abbrev glbFlashInfoRead : Fld := ⟨⟨.glbFlashInfo, 0, 0⟩, 25, 24⟩
abbrev glbFlashInfoRev : Fld := ⟨⟨.glbFlashInfo, 0, 0⟩, 23, 16⟩
abbrev glbFlashInfoWrAct : Fld := ⟨⟨.glbFlashInfo, 0, 0⟩, 0, 0⟩
abbrev glbImgStatPatch : Fld := ⟨⟨.glbImgStat, 0, 0⟩, 10, 8⟩
abbrev glbImgStatGhenov : Fld := ⟨⟨.glbImgStat, 0, 0⟩, 2, 0⟩
abbrev glbPersistPend : Fld := ⟨⟨.glbPersist, 0, 0⟩, 31, 31⟩
abbrev glbPersistJrnlTorn : Fld := ⟨⟨.glbPersist, 0, 0⟩, 30, 30⟩
abbrev glbPersistJrnlErr : Fld := ⟨⟨.glbPersist, 0, 0⟩, 29, 29⟩
abbrev glbPersistRegion : Fld := ⟨⟨.glbPersist, 0, 0⟩, 12, 12⟩
abbrev glbPersistUsed : Fld := ⟨⟨.glbPersist, 0, 0⟩, 11, 0⟩
abbrev hstLinkStatCxl : Fld := ⟨⟨.hstLinkStat, 0, 0⟩, 31, 31⟩
abbrev hstLinkStatIdeIo : Fld := ⟨⟨.hstLinkStat, 0, 0⟩, 30, 30⟩
abbrev hstLinkStatIdeCm : Fld := ⟨⟨.hstLinkStat, 0, 0⟩, 29, 29⟩
abbrev hstLinkStatIdeFail : Fld := ⟨⟨.hstLinkStat, 0, 0⟩, 28, 28⟩
abbrev hstLinkStatWidth : Fld := ⟨⟨.hstLinkStat, 0, 0⟩, 11, 8⟩
abbrev hstLinkStatSpeed : Fld := ⟨⟨.hstLinkStat, 0, 0⟩, 1, 0⟩
abbrev hstBwinBase : Fld := ⟨⟨.hstBwin, 0, 0⟩, 3, 0⟩
abbrev hstCmdCfgEn : Fld := ⟨⟨.hstCmdCfg, 0, 0⟩, 31, 31⟩
abbrev hstCmdCfgLog2 : Fld := ⟨⟨.hstCmdCfg, 0, 0⟩, 3, 0⟩
abbrev hstCmdTailTail : Fld := ⟨⟨.hstCmdTail, 0, 0⟩, 15, 0⟩
abbrev hstCmdHeadTailBad : Fld := ⟨⟨.hstCmdHead, 0, 0⟩, 31, 31⟩
abbrev hstCmdHeadHead : Fld := ⟨⟨.hstCmdHead, 0, 0⟩, 15, 0⟩
abbrev hstCplCfgEn : Fld := ⟨⟨.hstCplCfg, 0, 0⟩, 31, 31⟩
abbrev hstCplCfgIrqEn : Fld := ⟨⟨.hstCplCfg, 0, 0⟩, 30, 30⟩
abbrev hstCplCfgLog2 : Fld := ⟨⟨.hstCplCfg, 0, 0⟩, 3, 0⟩
abbrev hstCplStatAckBad : Fld := ⟨⟨.hstCplStat, 0, 0⟩, 31, 31⟩
abbrev hstRrCfgEn (i : Nat) : Fld := ⟨⟨.hstRrCfg, i, 0⟩, 31, 31⟩
abbrev hstRrCfgIrqEn (i : Nat) : Fld := ⟨⟨.hstRrCfg, i, 0⟩, 30, 30⟩
abbrev hstRrCfgLog2 (i : Nat) : Fld := ⟨⟨.hstRrCfg, i, 0⟩, 4, 0⟩
abbrev hstRrStatAckBad (i : Nat) : Fld := ⟨⟨.hstRrStat, i, 0⟩, 31, 31⟩
abbrev hstRrStatProd (i : Nat) : Fld := ⟨⟨.hstRrStat, i, 0⟩, 27, 0⟩
abbrev clkEpochIgnCnt : Fld := ⟨⟨.clkEpoch, 0, 0⟩, 15, 8⟩
abbrev clkEpochPhaseErr : Fld := ⟨⟨.clkEpoch, 0, 0⟩, 3, 3⟩
abbrev clkEpochSkewDone : Fld := ⟨⟨.clkEpoch, 0, 0⟩, 2, 2⟩
abbrev clkEpochAcq : Fld := ⟨⟨.clkEpoch, 0, 0⟩, 1, 1⟩
abbrev clkEpochArm : Fld := ⟨⟨.clkEpoch, 0, 0⟩, 0, 0⟩
abbrev clkRefCtrlPref : Fld := ⟨⟨.clkRefCtrl, 0, 0⟩, 4, 4⟩
abbrev clkRefCtrlRefMode : Fld := ⟨⟨.clkRefCtrl, 0, 0⟩, 1, 0⟩
abbrev clkRefStatSwitchCnt : Fld := ⟨⟨.clkRefStat, 0, 0⟩, 15, 8⟩
abbrev clkRefStatHoldExceeded : Fld := ⟨⟨.clkRefStat, 0, 0⟩, 7, 7⟩
abbrev clkRefStatSwitchSeen : Fld := ⟨⟨.clkRefStat, 0, 0⟩, 6, 6⟩
abbrev clkRefStatFreeRun : Fld := ⟨⟨.clkRefStat, 0, 0⟩, 5, 5⟩
abbrev clkRefStatHoldover : Fld := ⟨⟨.clkRefStat, 0, 0⟩, 4, 4⟩
abbrev clkRefStatRefbValid : Fld := ⟨⟨.clkRefStat, 0, 0⟩, 3, 3⟩
abbrev clkRefStatRefaValid : Fld := ⟨⟨.clkRefStat, 0, 0⟩, 2, 2⟩
abbrev clkRefStatActive : Fld := ⟨⟨.clkRefStat, 0, 0⟩, 1, 1⟩
abbrev clkRefStatLocked : Fld := ⟨⟨.clkRefStat, 0, 0⟩, 0, 0⟩
abbrev clkHoldDriftEst : Fld := ⟨⟨.clkHold, 0, 0⟩, 31, 16⟩
abbrev clkHoldFerr : Fld := ⟨⟨.clkHold, 0, 0⟩, 15, 0⟩
abbrev clkSkewCalValid : Fld := ⟨⟨.clkSkew, 0, 0⟩, 31, 31⟩
abbrev clkSkewRangeErr : Fld := ⟨⟨.clkSkew, 0, 0⟩, 30, 30⟩
abbrev clkSkewTrimOvr : Fld := ⟨⟨.clkSkew, 0, 0⟩, 28, 16⟩
abbrev clkSkewTrimEff : Fld := ⟨⟨.clkSkew, 0, 0⟩, 12, 0⟩
abbrev clkSkewCalTrimCal : Fld := ⟨⟨.clkSkewCal, 0, 0⟩, 12, 0⟩
abbrev clkTimeCtrlXen : Fld := ⟨⟨.clkTimeCtrl, 0, 0⟩, 31, 31⟩
abbrev clkTimeCtrlSlew : Fld := ⟨⟨.clkTimeCtrl, 0, 0⟩, 23, 16⟩
abbrev clkTimeCtrlStepRefused : Fld := ⟨⟨.clkTimeCtrl, 0, 0⟩, 15, 15⟩
abbrev clkTimeCtrlStepEn : Fld := ⟨⟨.clkTimeCtrl, 0, 0⟩, 13, 13⟩
abbrev clkTimeCtrlServo : Fld := ⟨⟨.clkTimeCtrl, 0, 0⟩, 12, 12⟩
abbrev clkTimeCtrlRootB : Fld := ⟨⟨.clkTimeCtrl, 0, 0⟩, 9, 9⟩
abbrev clkTimeCtrlRootA : Fld := ⟨⟨.clkTimeCtrl, 0, 0⟩, 8, 8⟩
abbrev clkTimeCtrlSel : Fld := ⟨⟨.clkTimeCtrl, 0, 0⟩, 4, 4⟩
abbrev clkTimeCtrlSrcB : Fld := ⟨⟨.clkTimeCtrl, 0, 0⟩, 3, 2⟩
abbrev clkTimeCtrlSrcA : Fld := ⟨⟨.clkTimeCtrl, 0, 0⟩, 1, 0⟩
abbrev clkPtpCfgDelayB : Fld := ⟨⟨.clkPtpCfg, 0, 0⟩, 26, 26⟩
abbrev clkPtpCfgTransportB : Fld := ⟨⟨.clkPtpCfg, 0, 0⟩, 25, 24⟩
abbrev clkPtpCfgDomainB : Fld := ⟨⟨.clkPtpCfg, 0, 0⟩, 22, 16⟩
abbrev clkPtpCfgDelayA : Fld := ⟨⟨.clkPtpCfg, 0, 0⟩, 10, 10⟩
abbrev clkPtpCfgTransportA : Fld := ⟨⟨.clkPtpCfg, 0, 0⟩, 9, 8⟩
abbrev clkPtpCfgDomainA : Fld := ⟨⟨.clkPtpCfg, 0, 0⟩, 6, 0⟩
abbrev clkDomStatLocked (i : Nat) : Fld := ⟨⟨.clkDomStat, i, 0⟩, 31, 31⟩
abbrev clkDomStatFar (i : Nat) : Fld := ⟨⟨.clkDomStat, i, 0⟩, 30, 30⟩
abbrev clkDomStatOffset (i : Nat) : Fld := ⟨⟨.clkDomStat, i, 0⟩, 29, 0⟩
abbrev cueStatPassed : Fld := ⟨⟨.cueStat, 0, 0⟩, 31, 31⟩
abbrev cueStatChecking : Fld := ⟨⟨.cueStat, 0, 0⟩, 29, 29⟩
abbrev cueStatReason : Fld := ⟨⟨.cueStat, 0, 0⟩, 27, 24⟩
abbrev cueStatItem : Fld := ⟨⟨.cueStat, 0, 0⟩, 11, 0⟩
abbrev cueChDropCnt (i : Nat) : Fld := ⟨⟨.cueCh, i, 0⟩, 31, 16⟩
abbrev cueChHold (i : Nat) : Fld := ⟨⟨.cueCh, i, 0⟩, 7, 0⟩
abbrev cueRmtBadCnt (i : Nat) : Fld := ⟨⟨.cueRmt, i, 0⟩, 15, 0⟩
abbrev hkpStatFlashOpen : Fld := ⟨⟨.hkpStat, 0, 0⟩, 4, 4⟩
abbrev hkpStatLowCritAny : Fld := ⟨⟨.hkpStat, 0, 0⟩, 3, 3⟩
abbrev hkpStatHotSafeAny : Fld := ⟨⟨.hkpStat, 0, 0⟩, 2, 2⟩
abbrev hkpStatHotWarnAny : Fld := ⟨⟨.hkpStat, 0, 0⟩, 1, 1⟩
abbrev hkpStatRailAny : Fld := ⟨⟨.hkpStat, 0, 0⟩, 0, 0⟩
abbrev hkpTripValid : Fld := ⟨⟨.hkpTrip, 0, 0⟩, 31, 31⟩
abbrev hkpTripFlashHeld : Fld := ⟨⟨.hkpTrip, 0, 0⟩, 12, 12⟩
abbrev hkpTripZone : Fld := ⟨⟨.hkpTrip, 0, 0⟩, 11, 8⟩
abbrev hkpTripSensor : Fld := ⟨⟨.hkpTrip, 0, 0⟩, 4, 0⟩
abbrev hkpPwrPeak : Fld := ⟨⟨.hkpPwr, 0, 0⟩, 31, 16⟩
abbrev hkpPwrPower : Fld := ⟨⟨.hkpPwr, 0, 0⟩, 15, 0⟩
abbrev hkpZstatTemp (i : Nat) : Fld := ⟨⟨.hkpZstat, i, 0⟩, 31, 16⟩
abbrev hkpZstatBroken (i : Nat) : Fld := ⟨⟨.hkpZstat, i, 0⟩, 11, 8⟩
abbrev hkpZstatState (i : Nat) : Fld := ⟨⟨.hkpZstat, i, 0⟩, 2, 0⟩
abbrev hkpSensTemp (i : Nat) : Fld := ⟨⟨.hkpSens, i, 0⟩, 31, 16⟩
abbrev hkpSensBroken (i : Nat) : Fld := ⟨⟨.hkpSens, i, 0⟩, 15, 15⟩
abbrev hkpSensCause (i : Nat) : Fld := ⟨⟨.hkpSens, i, 0⟩, 14, 12⟩
abbrev hkpMonOut (i : Nat) : Fld := ⟨⟨.hkpMon, i, 0⟩, 31, 31⟩
abbrev hkpMonSeen (i : Nat) : Fld := ⟨⟨.hkpMon, i, 0⟩, 30, 30⟩
abbrev hkpMonValue (i : Nat) : Fld := ⟨⟨.hkpMon, i, 0⟩, 15, 0⟩
abbrev memCtrlXen : Fld := ⟨⟨.memCtrl, 0, 0⟩, 31, 31⟩
abbrev memCtrlIdleSr : Fld := ⟨⟨.memCtrl, 0, 0⟩, 0, 0⟩
abbrev memStatRefX2 : Fld := ⟨⟨.memStat, 0, 0⟩, 24, 24⟩
abbrev memStatMap : Fld := ⟨⟨.memStat, 0, 0⟩, 23, 16⟩
abbrev memStatN : Fld := ⟨⟨.memStat, 0, 0⟩, 10, 8⟩
abbrev memStatLeft : Fld := ⟨⟨.memStat, 0, 0⟩, 7, 4⟩
abbrev memStatInService : Fld := ⟨⟨.memStat, 0, 0⟩, 3, 0⟩
abbrev memRhHold : Fld := ⟨⟨.memRh, 0, 0⟩, 31, 16⟩
abbrev memPprStatUsed : Fld := ⟨⟨.memPprStat, 0, 0⟩, 31, 16⟩
abbrev memPprStatCand : Fld := ⟨⟨.memPprStat, 0, 0⟩, 15, 8⟩
abbrev memChDlyMargin (i : Nat) : Fld := ⟨⟨.memChDly, i, 0⟩, 30, 24⟩
abbrev memChDlyWr (i : Nat) : Fld := ⟨⟨.memChDly, i, 0⟩, 20, 14⟩
abbrev memChDlyRd1 (i : Nat) : Fld := ⟨⟨.memChDly, i, 0⟩, 13, 7⟩
abbrev memChDlyRd0 (i : Nat) : Fld := ⟨⟨.memChDly, i, 0⟩, 6, 0⟩
abbrev lnkIdId : Fld := ⟨⟨.lnkId, 0, 0⟩, 8, 0⟩
abbrev lnkCfgXen : Fld := ⟨⟨.lnkCfg, 0, 0⟩, 31, 31⟩
abbrev lnkCfgAuthReq : Fld := ⟨⟨.lnkCfg, 0, 0⟩, 17, 17⟩
abbrev lnkCfgV1Ok : Fld := ⟨⟨.lnkCfg, 0, 0⟩, 16, 16⟩
abbrev lnkCfgNzM1 : Fld := ⟨⟨.lnkCfg, 0, 0⟩, 10, 8⟩
abbrev lnkCfgNyM1 : Fld := ⟨⟨.lnkCfg, 0, 0⟩, 6, 4⟩
abbrev lnkCfgNxM1 : Fld := ⟨⟨.lnkCfg, 0, 0⟩, 2, 0⟩
abbrev lnkKeyIdSet : Fld := ⟨⟨.lnkKeyId, 0, 0⟩, 31, 31⟩
abbrev lnkKeyIdKid : Fld := ⟨⟨.lnkKeyId, 0, 0⟩, 15, 0⟩
abbrev lnkTimeRootRootB : Fld := ⟨⟨.lnkTimeRoot, 0, 0⟩, 24, 16⟩
abbrev lnkTimeRootRootA : Fld := ⟨⟨.lnkTimeRoot, 0, 0⟩, 8, 0⟩
abbrev lnkBwinSrcEn : Fld := ⟨⟨.lnkBwinSrc, 0, 0⟩, 31, 31⟩
abbrev lnkBwinSrcSrc : Fld := ⟨⟨.lnkBwinSrc, 0, 0⟩, 8, 0⟩
abbrev lnkBxfCtrlBusy : Fld := ⟨⟨.lnkBxfCtrl, 0, 0⟩, 30, 30⟩
abbrev lnkBxfCtrlResult : Fld := ⟨⟨.lnkBxfCtrl, 0, 0⟩, 29, 28⟩
abbrev lnkBxfCtrlDstDev : Fld := ⟨⟨.lnkBxfCtrl, 0, 0⟩, 8, 0⟩
abbrev lnkCtrlIsoThr (i : Nat) : Fld := ⟨⟨.lnkCtrl, i, 0⟩, 15, 8⟩
abbrev lnkCtrlEn (i : Nat) : Fld := ⟨⟨.lnkCtrl, i, 0⟩, 0, 0⟩
abbrev lnkStatJv1 (i : Nat) : Fld := ⟨⟨.lnkStat, i, 0⟩, 31, 31⟩
abbrev lnkStatLong (i : Nat) : Fld := ⟨⟨.lnkStat, i, 0⟩, 30, 30⟩
abbrev lnkStatIsoCause (i : Nat) : Fld := ⟨⟨.lnkStat, i, 0⟩, 29, 27⟩
abbrev lnkStatPartner (i : Nat) : Fld := ⟨⟨.lnkStat, i, 0⟩, 24, 16⟩
abbrev lnkStatVer (i : Nat) : Fld := ⟨⟨.lnkStat, i, 0⟩, 5, 4⟩
abbrev lnkStatState (i : Nat) : Fld := ⟨⟨.lnkStat, i, 0⟩, 3, 0⟩
abbrev lnkLaneActiveCnt (i : Nat) : Fld := ⟨⟨.lnkLane, i, 0⟩, 18, 16⟩
abbrev lnkLaneFailed (i : Nat) : Fld := ⟨⟨.lnkLane, i, 0⟩, 12, 8⟩
abbrev lnkLaneActive (i : Nat) : Fld := ⟨⟨.lnkLane, i, 0⟩, 4, 0⟩
abbrev lnkFlightFlight (i : Nat) : Fld := ⟨⟨.lnkFlight, i, 0⟩, 15, 0⟩
abbrev lnkRateMgmt (i : Nat) : Fld := ⟨⟨.lnkRate, i, 0⟩, 23, 16⟩
abbrev lnkRateSyn (i : Nat) : Fld := ⟨⟨.lnkRate, i, 0⟩, 15, 8⟩
abbrev lnkRateDec (i : Nat) : Fld := ⟨⟨.lnkRate, i, 0⟩, 7, 0⟩
abbrev talCfgFrame (i : Nat) : Fld := ⟨⟨.talCfg, i, 0⟩, 31, 31⟩
abbrev talCfgCmp (i : Nat) : Fld := ⟨⟨.talCfg, i, 0⟩, 30, 30⟩
abbrev talCfgHaltMis (i : Nat) : Fld := ⟨⟨.talCfg, i, 0⟩, 29, 29⟩
abbrev talCfgFlen (i : Nat) : Fld := ⟨⟨.talCfg, i, 0⟩, 28, 16⟩
abbrev talCfgAcoff (i : Nat) : Fld := ⟨⟨.talCfg, i, 0⟩, 15, 4⟩
abbrev talCfgAliveEn (i : Nat) : Fld := ⟨⟨.talCfg, i, 0⟩, 3, 3⟩
abbrev talCfgAw (i : Nat) : Fld := ⟨⟨.talCfg, i, 0⟩, 2, 2⟩
abbrev talCfgAlg (i : Nat) : Fld := ⟨⟨.talCfg, i, 0⟩, 1, 0⟩
abbrev talStatBusy (i : Nat) : Fld := ⟨⟨.talStat, i, 0⟩, 31, 31⟩
abbrev talStatErr (i : Nat) : Fld := ⟨⟨.talStat, i, 0⟩, 30, 28⟩
abbrev talStatGoBad (i : Nat) : Fld := ⟨⟨.talStat, i, 0⟩, 5, 5⟩
abbrev talStatAliveErr (i : Nat) : Fld := ⟨⟨.talStat, i, 0⟩, 4, 4⟩
abbrev talStatMismatch (i : Nat) : Fld := ⟨⟨.talStat, i, 0⟩, 3, 3⟩
abbrev talStatRefused (i : Nat) : Fld := ⟨⟨.talStat, i, 0⟩, 2, 2⟩
abbrev talStatDone (i : Nat) : Fld := ⟨⟨.talStat, i, 0⟩, 0, 0⟩
abbrev talAliveEmpty (i : Nat) : Fld := ⟨⟨.talAlive, i, 0⟩, 31, 31⟩
abbrev talAliveRepeatCnt (i : Nat) : Fld := ⟨⟨.talAlive, i, 0⟩, 23, 16⟩
abbrev talAliveGapCnt (i : Nat) : Fld := ⟨⟨.talAlive, i, 0⟩, 15, 8⟩
abbrev talAliveLast (i : Nat) : Fld := ⟨⟨.talAlive, i, 0⟩, 7, 0⟩
abbrev ucsPatchStatState : Fld := ⟨⟨.ucsPatchStat, 0, 0⟩, 31, 30⟩
abbrev ucsPatchStatCauseA : Fld := ⟨⟨.ucsPatchStat, 0, 0⟩, 29, 27⟩
abbrev ucsPatchStatCauseB : Fld := ⟨⟨.ucsPatchStat, 0, 0⟩, 26, 24⟩
abbrev ucsEccCntDed : Fld := ⟨⟨.ucsEccCnt, 0, 0⟩, 31, 16⟩
abbrev ucsEccCntSec : Fld := ⟨⟨.ucsEccCnt, 0, 0⟩, 15, 0⟩
abbrev ucsLoadStatReason : Fld := ⟨⟨.ucsLoadStat, 0, 0⟩, 31, 28⟩
abbrev ucsLoadStatClass : Fld := ⟨⟨.ucsLoadStat, 0, 0⟩, 27, 26⟩
abbrev ucsLoadStatItem : Fld := ⟨⟨.ucsLoadStat, 0, 0⟩, 10, 0⟩
abbrev ucsPatchSvnMin : Fld := ⟨⟨.ucsPatchSvn, 0, 0⟩, 31, 16⟩
abbrev ucsPatchSvnSvn : Fld := ⟨⟨.ucsPatchSvn, 0, 0⟩, 15, 0⟩
abbrev acqCfgMch (i : Nat) : Fld := ⟨⟨.acqCfg, i, 0⟩, 31, 28⟩
abbrev acqCfgMeas (i : Nat) : Fld := ⟨⟨.acqCfg, i, 0⟩, 27, 27⟩
abbrev acqCfgTagInv (i : Nat) : Fld := ⟨⟨.acqCfg, i, 0⟩, 26, 26⟩
abbrev acqCfgDest (i : Nat) : Fld := ⟨⟨.acqCfg, i, 0⟩, 25, 24⟩
abbrev acqCfgStream (i : Nat) : Fld := ⟨⟨.acqCfg, i, 0⟩, 23, 23⟩
abbrev acqCfgSrc (i : Nat) : Fld := ⟨⟨.acqCfg, i, 0⟩, 22, 22⟩
abbrev acqCfgMode (i : Nat) : Fld := ⟨⟨.acqCfg, i, 0⟩, 21, 20⟩
abbrev acqCfgDec (i : Nat) : Fld := ⟨⟨.acqCfg, i, 0⟩, 19, 16⟩
abbrev acqCfgChmask (i : Nat) : Fld := ⟨⟨.acqCfg, i, 0⟩, 15, 0⟩
abbrev acqStatHsat (i : Nat) : Fld := ⟨⟨.acqStat, i, 0⟩, 4, 4⟩
abbrev acqStatMissOvf (i : Nat) : Fld := ⟨⟨.acqStat, i, 0⟩, 3, 3⟩
abbrev acqStatDrop (i : Nat) : Fld := ⟨⟨.acqStat, i, 0⟩, 2, 2⟩
abbrev acqStatShortPre (i : Nat) : Fld := ⟨⟨.acqStat, i, 0⟩, 1, 1⟩
abbrev acqStatInvalid (i : Nat) : Fld := ⟨⟨.acqStat, i, 0⟩, 0, 0⟩
abbrev acqTrigTsrc (i : Nat) : Fld := ⟨⟨.acqTrig, i, 0⟩, 26, 24⟩
abbrev acqTrigTsel (i : Nat) : Fld := ⟨⟨.acqTrig, i, 0⟩, 9, 0⟩
abbrev acqNrecNrec (i : Nat) : Fld := ⟨⟨.acqNrec, i, 0⟩, 15, 0⟩
abbrev acqBulkRdRd (i : Nat) : Fld := ⟨⟨.acqBulkRd, i, 0⟩, 31, 6⟩
abbrev acqRecDestDest (i : Nat) : Fld := ⟨⟨.acqRecDest, i, 0⟩, 1, 0⟩
abbrev acqHistCfgHsh (i : Nat) : Fld := ⟨⟨.acqHistCfg, i, 0⟩, 4, 0⟩
abbrev acqTbusCompComp (i : Nat) : Fld := ⟨⟨.acqTbusComp, i, 0⟩, 15, 0⟩
abbrev mvpStatFailOvf : Fld := ⟨⟨.mvpStat, 0, 0⟩, 5, 5⟩
abbrev mvpStatVwdrop : Fld := ⟨⟨.mvpStat, 0, 0⟩, 4, 4⟩
abbrev mvpStatRsvdSeen : Fld := ⟨⟨.mvpStat, 0, 0⟩, 3, 3⟩
abbrev mvpStatTsRange : Fld := ⟨⟨.mvpStat, 0, 0⟩, 2, 2⟩
abbrev mvpStatLate : Fld := ⟨⟨.mvpStat, 0, 0⟩, 1, 1⟩
abbrev mvpStatRouteErr : Fld := ⟨⟨.mvpStat, 0, 0⟩, 0, 0⟩
abbrev mvpVecRangeVendVec : Fld := ⟨⟨.mvpVecRange, 0, 0⟩, 31, 16⟩
abbrev mvpVecRangeVstartVec : Fld := ⟨⟨.mvpVecRange, 0, 0⟩, 15, 0⟩
abbrev mvpVecPerNloop : Fld := ⟨⟨.mvpVecPer, 0, 0⟩, 31, 16⟩
abbrev mvpVecPerVper : Fld := ⟨⟨.mvpVecPer, 0, 0⟩, 15, 0⟩
abbrev mvpVecGoSrc : Fld := ⟨⟨.mvpVecGo, 0, 0⟩, 29, 29⟩
abbrev mvpVecGoFailStop : Fld := ⟨⟨.mvpVecGo, 0, 0⟩, 28, 28⟩
abbrev mvpVecGoGoCue : Fld := ⟨⟨.mvpVecGo, 0, 0⟩, 9, 0⟩
abbrev mvpTrigCfgEdge (i : Nat) : Fld := ⟨⟨.mvpTrigCfg, i, 0⟩, 5, 4⟩
abbrev mvpTrigCfgGf (i : Nat) : Fld := ⟨⟨.mvpTrigCfg, i, 0⟩, 3, 0⟩
abbrev mvpTbusCfgEdge (i : Nat) : Fld := ⟨⟨.mvpTbusCfg, i, 0⟩, 5, 4⟩
abbrev mvpTbusCfgGf (i : Nat) : Fld := ⟨⟨.mvpTbusCfg, i, 0⟩, 3, 0⟩
abbrev mvpPinCfgFunc (i : Nat) : Fld := ⟨⟨.mvpPinCfg, i, 0⟩, 31, 30⟩
abbrev mvpPinCfgStatic (i : Nat) : Fld := ⟨⟨.mvpPinCfg, i, 0⟩, 29, 29⟩
abbrev mvpPinCfgIdle (i : Nat) : Fld := ⟨⟨.mvpPinCfg, i, 0⟩, 28, 27⟩
abbrev mvpPinCfgGf (i : Nat) : Fld := ⟨⟨.mvpPinCfg, i, 0⟩, 23, 20⟩
abbrev mvpPinCfgEdge (i : Nat) : Fld := ⟨⟨.mvpPinCfg, i, 0⟩, 19, 18⟩
abbrev mvpPinCfgMsrc (i : Nat) : Fld := ⟨⟨.mvpPinCfg, i, 0⟩, 10, 0⟩
abbrev mvpPinTrimValid (i : Nat) : Fld := ⟨⟨.mvpPinTrim, i, 0⟩, 31, 31⟩
abbrev mvpPinTrimTrimEff (i : Nat) : Fld := ⟨⟨.mvpPinTrim, i, 0⟩, 7, 0⟩
abbrev mvpPinTrimTrimOvr (i : Nat) : Fld := ⟨⟨.mvpPinTrim, i, 0⟩, 23, 16⟩
abbrev mvpTsPinD (i j : Nat) : Fld := ⟨⟨.mvpTsPin, i, j⟩, 15, 0⟩
abbrev mvpTsPinS (i j : Nat) : Fld := ⟨⟨.mvpTsPin, i, j⟩, 31, 16⟩
abbrev qryCtrlXen : Fld := ⟨⟨.qryCtrl, 0, 0⟩, 31, 31⟩
abbrev qryCtrlEn : Fld := ⟨⟨.qryCtrl, 0, 0⟩, 0, 0⟩
abbrev qryCfgLag : Fld := ⟨⟨.qryCfg, 0, 0⟩, 25, 16⟩
abbrev qryCfgSoft : Fld := ⟨⟨.qryCfg, 0, 0⟩, 15, 14⟩
abbrev qryCfgW : Fld := ⟨⟨.qryCfg, 0, 0⟩, 13, 4⟩
abbrev qryCfgAbits : Fld := ⟨⟨.qryCfg, 0, 0⟩, 3, 0⟩
abbrev qryStatResumeBad : Fld := ⟨⟨.qryStat, 0, 0⟩, 11, 11⟩
abbrev qryStatHcause : Fld := ⟨⟨.qryStat, 0, 0⟩, 10, 8⟩
abbrev qryStatBacklogSeen : Fld := ⟨⟨.qryStat, 0, 0⟩, 6, 6⟩
abbrev qryStatBacklog : Fld := ⟨⟨.qryStat, 0, 0⟩, 5, 5⟩
abbrev qryStatState : Fld := ⟨⟨.qryStat, 0, 0⟩, 2, 0⟩
abbrev qryCheckPassed : Fld := ⟨⟨.qryCheck, 0, 0⟩, 31, 31⟩
abbrev qryCheckChecking : Fld := ⟨⟨.qryCheck, 0, 0⟩, 29, 29⟩
abbrev qryCheckReason : Fld := ⟨⟨.qryCheck, 0, 0⟩, 27, 24⟩
abbrev qryCheckItem : Fld := ⟨⟨.qryCheck, 0, 0⟩, 16, 0⟩
abbrev qryBench0Bench0 : Fld := ⟨⟨.qryBench0, 0, 0⟩, 15, 0⟩
abbrev qryTmoFaceTmo : Fld := ⟨⟨.qryTmo, 0, 0⟩, 31, 16⟩
abbrev qryTmoBenchTmo : Fld := ⟨⟨.qryTmo, 0, 0⟩, 15, 0⟩
abbrev qryBudgetGrowMax : Fld := ⟨⟨.qryBudget, 0, 0⟩, 23, 16⟩
abbrev qryBudgetBudget : Fld := ⟨⟨.qryBudget, 0, 0⟩, 15, 0⟩
abbrev qryWinClosed : Fld := ⟨⟨.qryWin, 0, 0⟩, 31, 16⟩
abbrev qryWinLo : Fld := ⟨⟨.qryWin, 0, 0⟩, 15, 0⟩
abbrev qryLagMaxBench : Fld := ⟨⟨.qryLag, 0, 0⟩, 31, 24⟩
abbrev qryFaceEn (i : Nat) : Fld := ⟨⟨.qryFace, i, 0⟩, 31, 31⟩
abbrev qryFaceLostAct (i : Nat) : Fld := ⟨⟨.qryFace, i, 0⟩, 30, 30⟩
abbrev qryFaceLost (i : Nat) : Fld := ⟨⟨.qryFace, i, 0⟩, 26, 26⟩
abbrev qryFaceMismatch (i : Nat) : Fld := ⟨⟨.qryFace, i, 0⟩, 25, 25⟩
abbrev qryFaceLateCnt (i : Nat) : Fld := ⟨⟨.qryFace, i, 0⟩, 23, 16⟩
abbrev qryFacePartner (i : Nat) : Fld := ⟨⟨.qryFace, i, 0⟩, 8, 0⟩
abbrev qryAncEn (i : Nat) : Fld := ⟨⟨.qryAnc, i, 0⟩, 31, 31⟩
abbrev qryAncRef (i : Nat) : Fld := ⟨⟨.qryAnc, i, 0⟩, 30, 30⟩
abbrev svcLogStatWrap : Fld := ⟨⟨.svcLogStat, 0, 0⟩, 31, 31⟩
abbrev svcLogStatHeld : Fld := ⟨⟨.svcLogStat, 0, 0⟩, 12, 0⟩
abbrev svcSpareStatMeFree : Fld := ⟨⟨.svcSpareStat, 0, 0⟩, 28, 24⟩
abbrev svcSpareStatFeFree : Fld := ⟨⟨.svcSpareStat, 0, 0⟩, 20, 16⟩
abbrev svcSpareStatTeFree : Fld := ⟨⟨.svcSpareStat, 0, 0⟩, 5, 0⟩
abbrev svcNbrUnavailLink : Fld := ⟨⟨.svcNbrUnavail, 0, 0⟩, 5, 0⟩
abbrev ethCtrlEn : Fld := ⟨⟨.ethCtrl, 0, 0⟩, 1, 1⟩
abbrev ethCtrlMode : Fld := ⟨⟨.ethCtrl, 0, 0⟩, 0, 0⟩
abbrev ethStatSpeed : Fld := ⟨⟨.ethStat, 0, 0⟩, 1, 1⟩
abbrev ethStatLink : Fld := ⟨⟨.ethStat, 0, 0⟩, 0, 0⟩
abbrev rfoCtrlXen (i : Nat) : Fld := ⟨⟨.rfoCtrl, i, 0⟩, 31, 31⟩
abbrev rfoCtrlMute (i : Nat) : Fld := ⟨⟨.rfoCtrl, i, 0⟩, 8, 8⟩
abbrev rfoCtrlDither (i : Nat) : Fld := ⟨⟨.rfoCtrl, i, 0⟩, 5, 5⟩
abbrev rfoCtrlIsinc (i : Nat) : Fld := ⟨⟨.rfoCtrl, i, 0⟩, 4, 4⟩
abbrev rfoCtrlNyq (i : Nat) : Fld := ⟨⟨.rfoCtrl, i, 0⟩, 1, 0⟩
abbrev rfoStatAttPend (i : Nat) : Fld := ⟨⟨.rfoStat, i, 0⟩, 7, 7⟩
abbrev rfoStatCueMuted (i : Nat) : Fld := ⟨⟨.rfoStat, i, 0⟩, 6, 6⟩
abbrev rfoStatSatEnv (i : Nat) : Fld := ⟨⟨.rfoStat, i, 0⟩, 4, 4⟩
abbrev rfoStatClip (i : Nat) : Fld := ⟨⟨.rfoStat, i, 0⟩, 3, 3⟩
abbrev rfoStatAlignFail (i : Nat) : Fld := ⟨⟨.rfoStat, i, 0⟩, 2, 2⟩
abbrev rfoStatAligned (i : Nat) : Fld := ⟨⟨.rfoStat, i, 0⟩, 1, 1⟩
abbrev rfoStatOn (i : Nat) : Fld := ⟨⟨.rfoStat, i, 0⟩, 0, 0⟩
abbrev rfoAttAttEff (i : Nat) : Fld := ⟨⟨.rfoAtt, i, 0⟩, 13, 8⟩
abbrev rfoAttAtt (i : Nat) : Fld := ⟨⟨.rfoAtt, i, 0⟩, 5, 0⟩
abbrev rfoTsetFrac (i j : Nat) : Fld := ⟨⟨.rfoTset, i, j⟩, 19, 16⟩
abbrev rfoTsetK0 (i j : Nat) : Fld := ⟨⟨.rfoTset, i, j⟩, 8, 0⟩
abbrev rfoMrkTrimValid (i j : Nat) : Fld := ⟨⟨.rfoMrkTrim, i, j⟩, 31, 31⟩
abbrev rfoMrkTrimTrimEff (i j : Nat) : Fld := ⟨⟨.rfoMrkTrim, i, j⟩, 7, 0⟩
abbrev rfoMrkTrimTrimOvr (i j : Nat) : Fld := ⟨⟨.rfoMrkTrim, i, j⟩, 23, 16⟩
abbrev rfoSegStatJcut (i : Nat) : Fld := ⟨⟨.rfoSegStat, i, 0⟩, 3, 3⟩
abbrev rfoSegStatNoseg (i : Nat) : Fld := ⟨⟨.rfoSegStat, i, 0⟩, 2, 2⟩
abbrev rfoSegStatDescBad (i : Nat) : Fld := ⟨⟨.rfoSegStat, i, 0⟩, 1, 1⟩
abbrev rfoSegStatWdrop (i : Nat) : Fld := ⟨⟨.rfoSegStat, i, 0⟩, 0, 0⟩
abbrev rfoSlotJmpOvr (i j : Nat) : Fld := ⟨⟨.rfoSlotJmp, i, j⟩, 15, 8⟩
abbrev rfoRingCfgRlen (i j : Nat) : Fld := ⟨⟨.rfoRingCfg, i, j⟩, 29, 16⟩
abbrev rfoRingCfgRbase (i j : Nat) : Fld := ⟨⟨.rfoRingCfg, i, j⟩, 13, 0⟩
abbrev rfoRingSrcLenLen (i j : Nat) : Fld := ⟨⟨.rfoRingSrcLen, i, j⟩, 27, 0⟩
abbrev rfoRingStatOpen (i j : Nat) : Fld := ⟨⟨.rfoRingStat, i, j⟩, 31, 31⟩
abbrev rfoRingStatPrimed (i j : Nat) : Fld := ⟨⟨.rfoRingStat, i, j⟩, 30, 30⟩
abbrev rfoRingStatUnder (i j : Nat) : Fld := ⟨⟨.rfoRingStat, i, j⟩, 29, 29⟩
abbrev rfoRingStatConflict (i j : Nat) : Fld := ⟨⟨.rfoRingStat, i, j⟩, 28, 28⟩
abbrev rfoRingStatRefused (i j : Nat) : Fld := ⟨⟨.rfoRingStat, i, j⟩, 27, 27⟩
abbrev rfoRingStatReason (i j : Nat) : Fld := ⟨⟨.rfoRingStat, i, j⟩, 26, 24⟩
abbrev rfiCtrlInvTag (i : Nat) : Fld := ⟨⟨.rfiCtrl, i, 0⟩, 0, 0⟩
abbrev rfiStatAdcOvr (i : Nat) : Fld := ⟨⟨.rfiStat, i, 0⟩, 4, 4⟩
abbrev rfiStatAlignFail (i : Nat) : Fld := ⟨⟨.rfiStat, i, 0⟩, 2, 2⟩
abbrev rfiStatAligned (i : Nat) : Fld := ⟨⟨.rfiStat, i, 0⟩, 1, 1⟩
abbrev rfiStatOn (i : Nat) : Fld := ⟨⟨.rfiStat, i, 0⟩, 0, 0⟩
abbrev rfiDsatDsat (i : Nat) : Fld := ⟨⟨.rfiDsat, i, 0⟩, 15, 0⟩
abbrev flxCtrlXen (i : Nat) : Fld := ⟨⟨.flxCtrl, i, 0⟩, 31, 31⟩
abbrev flxCtrlDgEn (i : Nat) : Fld := ⟨⟨.flxCtrl, i, 0⟩, 4, 4⟩
abbrev flxDgHold (i : Nat) : Fld := ⟨⟨.flxDg, i, 0⟩, 4, 0⟩
abbrev flxCtrlFact (i : Nat) : Fld := ⟨⟨.flxCtrl, i, 0⟩, 1, 0⟩
abbrev flxStatQerr (i : Nat) : Fld := ⟨⟨.flxStat, i, 0⟩, 9, 9⟩
abbrev flxStatAlignFail (i : Nat) : Fld := ⟨⟨.flxStat, i, 0⟩, 8, 8⟩
abbrev flxStatFsat (i : Nat) : Fld := ⟨⟨.flxStat, i, 0⟩, 7, 7⟩
abbrev flxStatClip (i : Nat) : Fld := ⟨⟨.flxStat, i, 0⟩, 6, 6⟩
abbrev flxStatOpen (i : Nat) : Fld := ⟨⟨.flxStat, i, 0⟩, 5, 5⟩
abbrev flxStatCompl (i : Nat) : Fld := ⟨⟨.flxStat, i, 0⟩, 4, 4⟩
abbrev flxStatRamping (i : Nat) : Fld := ⟨⟨.flxStat, i, 0⟩, 3, 3⟩
abbrev flxStatParked (i : Nat) : Fld := ⟨⟨.flxStat, i, 0⟩, 2, 2⟩
abbrev flxStatAligned (i : Nat) : Fld := ⟨⟨.flxStat, i, 0⟩, 1, 1⟩
abbrev flxStatOn (i : Nat) : Fld := ⟨⟨.flxStat, i, 0⟩, 0, 0⟩
abbrev flxParkPark (i : Nat) : Fld := ⟨⟨.flxPark, i, 0⟩, 17, 0⟩
abbrev flxSlewSlew (i : Nat) : Fld := ⟨⟨.flxSlew, i, 0⟩, 15, 0⟩
abbrev flxFaultCntOpenCnt (i : Nat) : Fld := ⟨⟨.flxFaultCnt, i, 0⟩, 31, 16⟩
abbrev flxFaultCntComplCnt (i : Nat) : Fld := ⟨⟨.flxFaultCnt, i, 0⟩, 15, 0⟩
abbrev flxAmpAmp (i : Nat) : Fld := ⟨⟨.flxAmp, i, 0⟩, 15, 0⟩
abbrev flxMrkTrimValid (i j : Nat) : Fld := ⟨⟨.flxMrkTrim, i, j⟩, 31, 31⟩
abbrev flxMrkTrimTrimEff (i j : Nat) : Fld := ⟨⟨.flxMrkTrim, i, j⟩, 7, 0⟩
abbrev flxMrkTrimTrimOvr (i j : Nat) : Fld := ⟨⟨.flxMrkTrim, i, j⟩, 23, 16⟩
abbrev flxSegStatJcut (i : Nat) : Fld := ⟨⟨.flxSegStat, i, 0⟩, 3, 3⟩
abbrev flxSegStatNoseg (i : Nat) : Fld := ⟨⟨.flxSegStat, i, 0⟩, 2, 2⟩
abbrev flxSegStatDescBad (i : Nat) : Fld := ⟨⟨.flxSegStat, i, 0⟩, 1, 1⟩
abbrev flxSegStatWdrop (i : Nat) : Fld := ⟨⟨.flxSegStat, i, 0⟩, 0, 0⟩
abbrev flxSegJmpOvr (i : Nat) : Fld := ⟨⟨.flxSegJmp, i, 0⟩, 15, 8⟩

end Sys2Proof.Machine
end

