-- ==== Sys2Proof/Machine/State.lean ====
section
/-! DEFINITION. The state of the JV2: every register, queue, memory and hidden condition the manual gives it, as plain data,
the reasons a step can stop, and the state right after a device reset (02 R29, 23). -/
namespace Sys2Proof.Machine

/-- A sparse map from numbers: ascending keys. -/
abbrev Tab (α : Type) := List (Nat × α)

/-- A memory: ascending addresses, no entry equal to 0, an unlisted byte reads 0. -/
abbrev Memory := List Host.Cell

/-- The operating modes (R21). -/
inductive Mode where
  | boot | dormant | standby | calibrate | armed | run | safe | service
  deriving DecidableEq, Repr

/-- Completion status codes (R308). -/
inductive Status where
  | ok | state | range | busy | auth | format | absent | fault | late | version | degraded
  deriving DecidableEq, Repr

/-- One completion as produced (R307). -/
structure Completion where
  tag : BitVec 16
  opcode : Nat
  status : Status
  mode : Word
  detail : Word
  tt : Tick64
  results : List Word
  deriving DecidableEq, Repr

/-- An entry that the administrative queue holds, as read from the command ring (R305, R340). -/
structure QueuedCmd where
  tag : BitVec 16
  opcode : Nat
  rsvd : Byte := 0
  words : List Word
  deriving DecidableEq, Repr

/-- A copy of an image in the serial flash (R346, R347): present with a good CRC, its version and SVN, and how its format and class,
signature and tag check (R272, R344). -/
structure FlashCopy where
  valid : Bool := false
  version : Word := 0
  svn : Nat := 0
  format : Bool := true
  sig : Bool := true
  tag : Bool := true
  deriving DecidableEq, Repr

/-- The work of a command that runs in the background (R340), as far as its end needs it. -/
inductive Job where
  /-- LOAD_ENGINES: the images that passed, not yet written, and whether one failed (R73). -/
  | loadEngines (imgs : List EngineImage) (bad : Bool)
  /-- LOAD_SEGMENTS: the owner, the descriptors it wrote, and entries dropped (R138). -/
  | loadSegments (owner : Nat) (descs : List Nat) (dropped : Nat)
  /-- UCS_LOAD_OPEN: the class and the image (R271). -/
  | loadOpen (cls : EngClass) (img : UcsImage)
  /-- FLASH_WRITE: for KIND 1 and 2 the copy being written, for KIND 3 the flash offset, what the container holds, and whether it will
  read back as written (R349). -/
  | flashWrite (kind : Nat) (copy : Bool) (off : Nat) (img : FlashCopy) (readBackOk : Bool)
  /-- FW_ACTIVATE of a KIND, and whether the minimum SVN is raised afterwards (R349). -/
  | fwActivate (kind : Nat) (raise : Bool)
  /-- MEM_REPAIR of one row, or of every candidate (R330). -/
  | memRepair (rows : List Nat)
  /-- CALLER_RESTART, completing after the restart (R342). -/
  | callerRestart
  deriving DecidableEq, Repr

/-- A background command. -/
structure Bg where
  tag : BitVec 16
  opcode : Nat
  job : Job
  deriving DecidableEq, Repr

/-- A transition in progress (R25, R29): the mode being entered, the command that began it, ARM's new start set, and the
flux outputs that were on when it began. -/
structure Trans where
  target : Mode
  cmd : Option (BitVec 16 × Nat) := none
  startSet : List Nat := []
  flxOn : List Nat := []
  deriving DecidableEq, Repr

/-- Engine states (R72). -/
inductive EngState where
  | unloaded | idle | held | running | waiting | stalled | halted | faulted
  deriving DecidableEq, Repr

/-- What an engine keeps of its image header (R73, R75, R89, R105). -/
structure EngImg where
  level : Nat
  entry : Nat
  base1 : BitVec 48
  winOff : Nat
  winLen : Nat
  deriving DecidableEq, Repr

/-- A loop counter (R83). -/
structure LoopCtr where
  count : Nat
  start : Nat
  stop : Nat
  deriving DecidableEq, Repr

/-- What a timeline instruction deposits (R91, R94 to R96). -/
inductive Eff where
  /-- PLAY of a descriptor, `reps` instances of `dur` ticks. -/
  | play (seg reps dur : Nat)
  /-- PLAYF: both branches with their durations, the verdict entry, whether b is the default, the state mask, whether a
  confidence is required, the expected sequence, and the branch once chosen. -/
  | playf (a b da db v : Nat) (dfltB : Bool) (mask : BitVec 4) (conf : Bool) (seq : Nat) (chosen : Option Nat)
  /-- A PLAY or both branches of a PLAYF with VALID = 0: it only sets NOSEG when it would have landed (R134). -/
  | noseg
  | hold (h : Nat)
  /-- A LATE PLAY, PLAYF or HOLD that was skipped plays nothing for its duration (R68). -/
  | setf (ftw : Nat)
  | shph (inc : Nat)
  | setph (off : Nat)
  | seta (amp : Nat)
  | tset (t : Nat)
  /-- MARK of a line: `none` releases it, otherwise the forced level and, for a pulse, its width. -/
  | mark (line : Nat) (level : Option Bool) (width : Option Nat)
  /-- PART on a TE: `none` removes the term, otherwise source TE and coefficient. -/
  | term (t : Nat) (src : Option (Nat × Word))
  /-- PART on an FE. -/
  | coef (idx : Nat) (v : Word)
  | flev (code : Int)
  | wopen (len : Nat) (cap : Bool) (skipped : Bool)
  deriving DecidableEq, Repr

/-- A queued effect: the tick it lands at and the effect. -/
structure QEff where
  tc : Nat
  eff : Eff
  deriving DecidableEq, Repr

/-- A wait of an engine in WAITING (R83, R85). -/
inductive Wait where
  /-- SYNCW: the tick in which the next instruction issues. -/
  | syncw (tick : Nat)
  /-- WAITC: the predicate, the tick of the timeout, and the listener's channel and pending cue before it (R70). -/
  | waitc (pd : Nat) (deadline : Option Nat) (listen : Option Nat) (pend : Bool)
  deriving DecidableEq, Repr

/-- A BDMA transfer in flight (R89). -/
structure Bdma where
  pd : Nat
  y : Bool
  loc : Nat
  bulk : Nat
  n : Nat
  out : Bool
  pc : Nat
  deriving DecidableEq, Repr

/-- A window of an ME (R97, R176): its requested tick, length and first sample, and what has arrived and been consumed. -/
structure MeWin where
  id : Nat
  m0 : Nat
  len : Nat
  cap : Bool
  arrived : Nat
  consumed : Nat
  skipped : Bool
  deriving DecidableEq, Repr

/-- A sample in the window sample buffer: its window, value, tag, and the tick from which it can be used (R182). -/
structure BufSample where
  win : Nat
  i : Int
  q : Int
  tag : Bool
  avail : Nat
  deriving DecidableEq, Repr

/-- An address generator (R99). -/
structure AddrGen where
  base : Nat := 0
  len : Nat := 4096
  off : Nat := 0
  deriving DecidableEq, Repr

/-- An accumulation in flight (R97, R182): its address generators, the window it consumes (`none`: memory operands), the
products left and the earliest tick of the next one (with none left, the tick it completes in), whether OV_CUE has fired, and
the index of its instruction. -/
structure AccRun where
  x : Nat
  y : Nat
  conj : Bool
  win : Option Nat
  left : Nat
  next : Nat
  satSeen : Bool
  pc : Nat
  deriving DecidableEq, Repr

/-- An ME record held for its acquisition unit (R102, R247). -/
structure Rec where
  me : Nat
  tt : Tick64
  inv : Bool
  regs : List Word
  acc : Option (Int × Int)
  deriving DecidableEq, Repr

/-- A CBSET that has issued (R186): its settings govern uses in later ticks. -/
structure Cbset where
  tick : Nat
  ag : Nat
  base : Nat
  len : Nat
  rst : Bool
  deriving DecidableEq, Repr

/-- The datapath of an ME (R96 to R102). Accumulations and captures are carried out tick by tick as time is looked at, so CBSETs
and captures that still have to act wait with their ticks, and words written in a recent tick are kept with what they replaced
(tick, Y, address, word), for a fetch of the same tick. -/
structure Me where
  accI : Int := 0
  accQ : Int := 0
  inv : Bool := false
  ag0 : AddrGen := {}
  ag1 : AddrGen := {}
  ag2 : AddrGen := {}
  ag3 : AddrGen := {}
  wins : List MeWin := []
  nextWin : Nat := 0
  buf : List BufSample := []
  run : Option AccRun := none
  /-- The completion tick of the last accumulation. -/
  lastDone : Nat := 0
  /-- Capture writes still to be made, one a tick (R97, R180): their ticks and words. -/
  caps : List (Nat × Word) := []
  cbs : List Cbset := []
  wrote : List (Nat × Bool × Nat × Word) := []
  recs : List Rec := []
  deriving DecidableEq, Repr

/-- A micro-routine in progress (R263 to R270): its number, start and length in the open store, the D, A and B fields of
its UOP, the offset of the next microword, t0 to t7, the first tick of each UWC, whether it has made a visible write and
which (CHG), the fault that began a roll-forward (code, offset) and MULTI, the tick of its next group or, held, the tick it
resumes in when its wait has ended, and the tick of a STOP or SAFE that stopped issue (R269). -/
structure Routine where
  num : Nat
  start : Nat
  len : Nat
  d : Nat
  a : Nat
  b : Nat
  pc : Nat
  temps : Tab Word := []
  uwc : Tab Nat := []
  visible : Bool := false
  chg : Nat := 0
  rolling : Option (Nat × Nat) := none
  multi : Bool := false
  resume : Option Nat := none
  drop : Option Nat := none
  deriving DecidableEq, Repr

/-- One physical engine (04). -/
structure Eng where
  state : EngState := .unloaded
  img : Option EngImg := none
  g : Tab Word := []
  preds : BitVec 8 := 1
  tc : Tick64 := 0
  pc : Nat := 0
  loops : List LoopCtr := []
  stack : List Nat := []
  lsr : Word := 0
  lateCnt : Nat := 0
  latePol : Bool := true
  faultAct : Bool := false
  lateCue : Bool := false
  ovCue : Bool := false
  fltValid : Bool := false
  fltOvf : Bool := false
  fltArg : Nat := 0
  fltCode : Nat := 0
  fltPc : Nat := 0
  abortState : Word := 0
  ready : Nat := 0
  queue : List QEff := []
  lastTc : Option Nat := none
  wait : Option Wait := none
  listen : Option Nat := none
  pend : Bool := false
  ovr : Nat := 0
  /-- The tick of the last cue that found PEND = 1, and OVR before it: a consumer of that tick makes it pending (R202). -/
  lostAt : Option (Nat × Nat) := none
  bdma : Option Bdma := none
  /-- The instruction index of a BDMA, or of an accumulation or table read, whose fault the engine has still to raise. -/
  bdmaBad : Option Nat := none
  eccBad : Option Nat := none
  /-- An FE has issued a PLAY, PLAYF, HOLD or FLEV since T_s (R95). -/
  played : Bool := false
  me : Me := {}
  routine : Option Routine := none
  gmask : Word := 0
  cont : Word := 0
  haltReq : Bool := false
  deriving DecidableEq, Repr

/-- The override of a marker line by MARK (R94): none, a level, or a pulse up to a position in 1/16 converter sample. -/
inductive MarkOv where
  | free
  | force (b : Bool)
  | pulse (stop : Nat)
  deriving DecidableEq, Repr

/-- An envelope sample at the land: the timing set it is placed under (R117), I, Q and the marker bits (R130). -/
structure Smp where
  tset : Nat := 0
  i : Int := 0
  q : Int := 0
  m0 : Bool := false
  m1 : Bool := false
  deriving DecidableEq, Repr

/-- How a stream instance, named by its begin tick, stands with its ring (R147 to R151): its first granule and granule count,
the granules read with their sample words, the granule of its underrun, and a ring refused to it. -/
structure StreamUse where
  b : Nat
  ring : Nat
  first : Nat
  count : Nat
  buf : List Word := []
  read : Nat := 0
  under : Option Nat := none
  conflict : Bool := false
  deriving DecidableEq, Repr

/-- One pass of the write gate in a recent tick (R136, R137): the owner, its descriptor and granules (first and end), the bytes
it replaced with their first addresses, whether DESC_BAD was set before, and the tag of the LOAD_SEGMENTS that made it. -/
structure GatePass where
  tick : Nat
  owner : Nat
  desc : Option Nat
  gran : List (Nat × Nat)
  old : List (Nat × List Byte)
  bad : Bool
  load : Option (BitVec 16)
  deriving DecidableEq, Repr

/-- What plays on a slot or flux output (R92, R135, R141): the descriptor's words, the current instance's begin B, its
duration, the instances left after it, and, when a jump has been taken, that its target follows. -/
structure Play where
  seg : Nat
  w0 : Word
  b : Nat
  dur : Nat
  reps : Nat := 0
  /-- A HOLD: the sample that it repeats (R404). -/
  hold : Option Smp := none
  taken : Bool := false
  /-- A jump-target instance. -/
  jt : Bool := false
  /-- The timing set a slot's instance is placed under (R117). -/
  tset : Nat := 0
  /-- For a fork branch, the other branch and the fork's end, until which both are active (R137). -/
  fork : Option (Nat × Nat) := none
  deriving DecidableEq, Repr

/-- What a PART did to term n of a slot (R114): from source envelope sample `from_` on it takes this source TE and coefficient,
or is removed. -/
structure PartLog where
  n : Nat
  from_ : Nat
  src : Option (Nat × Word)
  deriving DecidableEq, Repr

/-- A tone slot (R106). What an effect sets is held with the position it governs from, the last position first: FTW and OFF by
converter sample (an OFF entry replaces the offset or adds to it), AMP and the MARK overrides by 1/16 converter sample, terms
by source envelope sample. Then the timing set in force, what plays, a pending jump's land tick (R140), commit points still to
come of instances that were cut (R135), the recent envelope samples, newest first, and the library reader, which is 28 ticks
ahead of the land (R141): what it follows, the jump request it has taken and the stream instances it reads. -/
structure Slot where
  ftws : List (Nat × Nat)
  offs : List (Nat × Bool × Nat)
  amps : List (Nat × Nat)
  tset : Nat
  parts : List PartLog := []
  play : Option Play := none
  mark0 : List (Nat × MarkOv) := []
  mark1 : List (Nat × MarkOv) := []
  jump : Option Nat := none
  commits : List Nat := []
  line : List Smp := []
  front : Option Play := none
  used : Option Nat := none
  reads : List StreamUse := []
  deriving DecidableEq, Repr

/-- A ramp of a flux output (R164): start tick, start code, target, rate in µA/µs. -/
structure Ramp where
  start : Int
  from_ : Int
  target : Int
  slew : Nat
  /-- The converter is switched off at its end (R161). -/
  off : Bool := false
  deriving DecidableEq, Repr

/-- One section's history (R156): z(n-1), z(n-2), w(n-1), w(n-2). -/
structure IirHist where
  z1 : Int := 0
  z2 : Int := 0
  w1 : Int := 0
  w2 : Int := 0
  deriving DecidableEq, Repr

/-- A flux output (08): p, the amplitude in force, what plays, line overrides, a pending jump, commit points still to come of
instances that were cut (R135), filter history, the code of the last sample with the two before it (R160), a ramp in progress,
and the first sample of the fault condition registered last (R162). `fir` holds z[4](n-1), z[4](n-2), …. -/
structure Flux where
  p : Int := 0
  amp : Nat := 0x8000
  play : Option Play := none
  m0 : Bool := false
  m1 : Bool := false
  mark0 : MarkOv := .free
  mark1 : MarkOv := .free
  jump : Option Nat := none
  commits : List Nat := []
  iir : List IirHist := [{}, {}, {}, {}]
  fir : List Int := []
  code : Int := 0
  past : List Int := []
  ramp : Option Ramp := none
  limit : Option Nat := none
  settled : Nat := 0
  deriving DecidableEq, Repr

/-- A stream ring that is open (R146): its stream position (the next granule an instance takes), the next granule to fetch,
the granules present, and whether refill has stopped since SAFE. -/
structure Ring where
  pos : Nat := 0
  next : Nat := 0
  present : List Nat := []
  primed : Bool := false
  stopped : Bool := false
  deriving DecidableEq, Repr

/-- A verdict entry (R88). -/
structure Verdict where
  seq : Nat
  conf : Bool
  state : Nat
  valid : Bool := true
  deriving DecidableEq, Repr

/-- A cue that is to appear on a channel at a tick (R192). -/
structure Due where
  tick : Nat
  ch : Nat
  deriving DecidableEq, Repr

/-- A cue cell (R197, R198): state, the output and level of the last evaluated tick, since when and until when o was 1,
and the divide count. -/
structure Cell where
  st : Bool := false
  o : Bool := false
  level : Bool := false
  oneSince : Option Int := none
  lastOne : Option Int := none
  cnt : Nat := 0
  deriving DecidableEq, Repr

/-- The states of an acquisition unit (R237, R246). -/
inductive AcqState where
  | idle | fill | capture | rearm | noSpace | held | hist
  deriving DecidableEq, Repr

/-- A trigger on its way to a unit: the tick in which it reaches it, its instant in 1/256 tick (R231), and the WT stamp of the
tick of that instant (R241). -/
structure Trig where
  reach : Nat
  t : Nat
  wt : List Word
  deriving DecidableEq, Repr

/-- A sample time with bytes in the data line being filled: the measured I and Q, whether it is a post-trigger sample, its tag,
and whether an earlier line of it was dropped. -/
structure AcqCur where
  i : Int
  q : Int
  post : Bool
  tag : Bool
  bad : Bool
  deriving DecidableEq, Repr

/-- An open record (R233, R239, R241, R245): its number, the instant T in 1/256 tick with its WT stamp, the index of its first post-trigger
sample, whether its header is out, actual PRE, sample times written after the trigger, dropped and tagged, the data line
being filled, the line number, and the sums of the measurements over the samples stored. -/
structure AcqRec where
  num : Nat
  t : Nat
  wt : List Word
  first : Nat
  opened : Bool := false
  pre : Nat := 0
  short : Bool := false
  post : Nat := 0
  dropped : Nat := 0
  tagged : Nat := 0
  buf : List Byte := []
  cur : List AcqCur := []
  line : Nat := 0
  n : Nat := 0
  sumI : Int := 0
  sumQ : Int := 0
  energy : Nat := 0
  xing : Option Nat := none
  prev : Option Int := none
  /-- Mark lines that follow the data line being filled (R241). -/
  marks : List (List Word) := []
  deriving DecidableEq, Repr

/-- An acquisition unit (13): its state, an accepted arm tick, the tick from which pre-trigger samples count, those samples
(newest first), the open record, records opened since arm, the tick of the last close, lines in its memory (next position,
lines that wait to leave, how many of them belong to closed records), missed triggers, triggers on their way, the index of
its next TT trigger and the rotation over its MEs. -/
structure Acq where
  state : AcqState := .idle
  armAt : Option Nat := none
  fillAt : Nat := 0
  past : List AcqSample := []
  rcd : Option AcqRec := none
  opened : Nat := 0
  closeAt : Nat := 0
  wpos : Nat := 0
  held : Nat := 0
  done : Nat := 0
  miss : List (Nat × Nat) := []
  trigs : List Trig := []
  ttNext : Nat := 0
  rr : Nat := 0
  /-- The first tick in which the next ME record may be taken (R247). -/
  recAt : Nat := 0
  deriving DecidableEq, Repr

/-- A demodulated sample of every channel of an input (R172, R176): its index, the values and the tags by channel. -/
structure DemodSet where
  m : Nat
  d : List (Int × Int)
  tags : List Bool
  deriving DecidableEq, Repr

/-- An outcome on its way to the Quarry (R101, R208): the tick it reaches it, ancilla, bench, outcome and confidence. -/
structure Pub where
  tick : Nat
  anc : Nat
  bench : Nat
  m : Bool
  conf : Bool
  deriving DecidableEq, Repr

/-- A node of the Quarry's window (R210, R213, R227): outcome, confidence, outcome present, detector, resolved. -/
structure QNode where
  m : Bool := false
  conf : Bool := false
  present : Bool := false
  d : Bool := false
  resolved : Bool := false
  deriving DecidableEq, Repr

/-- A decode in progress (R214 to R220): its newest bench, the tick in which that bench closed, the faces it may use, those
whose partner has joined, those that were late, and the decode sequence its frames carry. -/
structure QDecode where
  hc : Nat
  start : Nat
  faces : List Nat := []
  joined : List Nat := []
  late : List Nat := []
  seq : Nat := 0
  deriving DecidableEq, Repr

/-- The Quarry (12): nodes by bench × 2,048 + ancilla, m of the newest closed bench by ancilla (R210), benches open with the tick
they opened in, closed benches not covered with the tick they closed in (R221), the decode in progress and whether one
waits, digests received by face and whether they have been judged (R217), joins received by face (R218), the bench and entries of
GROW frames received by face, the bench and cause of RESULT frames received by face (R286), and whether a configuration check
runs. -/
structure Qry where
  nodes : Tab QNode := []
  prev : Tab Bool := []
  opened : Tab Nat := []
  uncov : List (Nat × Nat) := []
  dec : Option QDecode := none
  wait : Bool := false
  digests : Tab Nat := []
  judged : Bool := true
  joins : Tab Nat := []
  grown : Tab (Nat × List Word) := []
  results : Tab (Nat × Nat) := []
  chk : Bool := false
  deriving DecidableEq, Repr

/-- The vector sequencer and the pins (14): whether GO started it, the pattern it latched at GO, the tick of its next period and
whether that is a VSTART still to come, that period's vector, repeat index and loop, the cue it waits for, the boundary at
which it stops, what the driver of each pin takes (`none` off) at each drive edge, in 1/64 tick, the last first, and the last level
it drove in this pattern, whether vector pins are at IDLE, the levels held at t0 of SAFE, the fail FIFO, and the spans of land ticks
(first, end) in which each trigger-bus line is pulled low. -/
structure Mvp where
  running : Bool := false
  first : Nat := 0
  last : Nat := 0
  per : Nat := 2
  loops : Nat := 1
  next : Option Nat := none
  waitTt : Bool := false
  vec : Nat := 0
  rep : Nat := 0
  loop : Nat := 0
  goCue : Option Nat := none
  stopFrom : Option Nat := none
  drv : Tab (List (Nat × Option Bool)) := []
  lastDrv : Tab Bool := []
  idle : Bool := true
  held : Tab (Option Bool) := []
  fails : List (List Word) := []
  tbus : Tab (List (Nat × Nat)) := []
  deriving DecidableEq, Repr

/-- A tally unit's hidden conditions (19): STOP written, a mismatch that halts it, the first event logged. -/
structure Tally where
  stop : Bool := false
  halt : Bool := false
  logged : Bool := false
  deriving DecidableEq, Repr

/-- A threshold's flag and its two dwell counts (R357). -/
structure Dwell where
  flag : Bool := false
  up : Nat := 0
  down : Nat := 0
  deriving DecidableEq, Repr

/-- A sensor's last raw code and the rounds it has been identical for (R355). -/
structure SensorHist where
  raw : Nat
  same : Nat
  deriving DecidableEq, Repr

/-- Housekeeping (21): dwell of zone z and threshold k under z × 5 + k (LOW_CRIT, LOW_WARN, HOT_WARN, HOT_SAFE, CRIT), of
monitor m, the sensors' histories, the zones that raised LOWCRIT, the thresholds of the round in progress where a command has set
others (R362), and whether TT has started or jumped since the last round, which ended the round in progress (R39). -/
structure Hkp where
  zones : Tab Dwell := []
  mons : Tab Dwell := []
  sensors : Tab SensorHist := []
  lowCause : List Nat := []
  thr : Tab (Word × Word) := []
  cut : Bool := false
  deriving DecidableEq, Repr

/-- A record of the settings journal (R350): identifier 1 holds the key and KID, 2 the link configuration, 3 one zone's
thresholds (both words). -/
inductive JRec where
  | key (k : List Word) (kid : Nat)
  | links (nx ny nz : Nat) (v1 authReq : Bool) (en : BitVec 6)
  | thr (zone : Nat) (a b : Word)
  deriving DecidableEq, Repr

/-- A directory copy (R347): its CRC holds, its generation, and the ACTIVE bits of Ghenov and the patch, `true` for copy B. -/
structure Directory where
  valid : Bool := true
  gen : Nat := 0
  gh : Bool := false
  pa : Bool := false
  deriving DecidableEq, Repr

/-- A region of the settings journal (R350): its whole records with their sequence numbers, oldest first, and a torn record after
them. -/
structure JRegion where
  recs : List (Nat × JRec) := []
  torn : Bool := false
  deriving DecidableEq, Repr

/-- The serial flash and the fuses (R346 to R350): Ghenov and patch copies A and B, the directory copies, the fused minimum SVN of
each kind, user containers by flash offset, the two journal regions and which is in use, and settings applied but not yet
journalled. -/
structure Flash where
  ghA : FlashCopy := { valid := true }
  ghB : FlashCopy := {}
  paA : FlashCopy := {}
  paB : FlashCopy := {}
  dirA : Directory := {}
  dirB : Directory := { valid := false }
  minGh : Nat := 0
  minPa : Nat := 0
  user : List (Nat × FlashCopy) := []
  region : Bool := false
  jA : JRegion := {}
  jB : JRegion := {}
  todo : List JRec := []
  deriving DecidableEq, Repr

/-- The Caller's restarts (R341 to R343): the ticks of watchdog and fault restarts, and the commands a restart interrupted. -/
structure Caller where
  faults : List Nat := []
  cut : List (BitVec 16 × Nat) := []
  deriving DecidableEq, Repr

/-- The SPDM responder's connection (R317): a KEY_EXCHANGE awaits its FINISH, a session stands, and the last answer given: the
measurement blocks it carries, `none` for an error response. -/
structure Spdm where
  keyed : Bool := false
  session : Bool := false
  answer : Option (List (Nat × List Word)) := none
  deriving DecidableEq, Repr

/-- A peer copy in progress (R286): source and destination offsets, bytes, the destination device, bytes sent, and frames not yet
acknowledged by that device. -/
structure Bxf where
  src : Nat
  dst : Nat
  len : Nat
  dev : Nat
  sent : Nat := 0
  owed : Nat := 0
  deriving DecidableEq, Repr

/-- Bulk memory's hidden conditions (18): until when a refresh stalls requests, the groups in self-refresh, the elapsed tick of each
group's last request, uncorrectable errors of each channel in this interval, the repair candidates (channel × 2^22 + bank ×
2^18 + row), repairs made by bank, credits removed by source until a tick, the stacks that need double-rate refresh, and the
elapsed tick of each channel's last margin measurement (R324). -/
structure MemCond where
  stallTo : Nat := 0
  selfRef : BitVec 4 := 0
  lastReq : Tab Nat := []
  ue : Tab Nat := []
  cands : List Nat := []
  repairs : Tab Nat := []
  noCredit : List (BulkSrc × Nat) := []
  hot : List Nat := []
  margins : Tab Nat := []
  deriving DecidableEq, Repr

/-- LINK-class messages a link sends (R276, R279 to R282, R287), whose flit layout the manual does not give. -/
inductive LinkMsg where
  | ack
  | refuse
  | caps (c : Caps)
  | nonce (n : BitVec 128)
  | tag (t : BitVec 128)
  | keepalive
  deriving DecidableEq, Repr

/-- A frame in a link's outgoing queue: a LINK message, or a class, a header flit and its payload (R283, R286). A TIME frame is
completed as it leaves (R54): `rx` is the elapsed tick it was received in, `none` for a root's own. -/
inductive OutFrame where
  | msg (m : LinkMsg)
  | flits (cls : Nat) (header : BitVec 128) (payload : List (BitVec 128))
  | time (header : BitVec 128) (payload : List (BitVec 128)) (rx : Option Nat)
  deriving DecidableEq, Repr

/-- A frame in a hop's replay buffer (R287): its sequence, the elapsed tick it was last sent in, and its failures. -/
structure Sent where
  seq : Nat
  frame : OutFrame
  at_ : Nat
  tries : Nat := 0
  deriving DecidableEq, Repr

/-- A link (16): DECISION frames on their way to its queue, with the elapsed tick in which each reaches it (R291), outgoing DECISION
frames and other frames, oldest first, the replay buffer, errors and arrivals in the present intervals (R293, R294), the nonce it
has sent, whether the spare is being trained for a failed lane, whether a failed training is to be tried again, the elapsed tick of
its last state change, that of its neighbour's last REJOIN (R289), the frame that left last, and the elapsed
tick of its last keep-alive (R279). -/
structure Link where
  pipe : List (Nat × BitVec 128) := []
  dec : List (BitVec 128) := []
  out : List OutFrame := []
  sent : List Sent := []
  nextSeq : Nat := 0
  errs : Nat := 0
  decN : Nat := 0
  synN : Nat := 0
  mgmtN : Nat := 0
  nonce : Option (BitVec 128) := none
  training : Bool := false
  retry : Bool := false
  since : Nat := 0
  back : Option Nat := none
  wire : Option OutFrame := none
  aliveAt : Nat := 0
  deriving DecidableEq, Repr

/-- The link configuration in force (R296): ring sizes, versions, authentication, key. -/
structure LinkCfg where
  nx : Nat := 8
  ny : Nat := 8
  nz : Nat := 8
  v1 : Bool := true
  authReq : Bool := false
  kid : Nat := 0
  keySet : Bool := false
  key : List Word := [0, 0, 0, 0, 0, 0, 0, 0]
  en : BitVec 6 := 0x3F
  deriving DecidableEq, Repr

/-- A change of WT or of ADJ: the elapsed tick, and WT there in 2^-32 ns and ADJ as they were before it. -/
structure WtMark where
  at_ : Nat
  wt : Int
  adj : Int
  deriving DecidableEq, Repr

/-- A time domain (R52 to R54): a source is present, the offset WT minus source in ns, the frequency estimate and the elapsed tick
of the last one; the period of 2^20 ticks, counted from 1, in which its last TIME frame was accepted (R288, R293) and in which
this device last sent one; and PTP's masters heard, a Sync that awaits its Follow_Up (sequence, receive stamp, correction), the
last Sync (corrected origin and receive stamp), the stamp of the last delay request and the mean delay, in 2^-16 ns. -/
structure Dom where
  present : Bool := false
  offset : Int := 0
  freq : Int := 0
  at_ : Nat := 0
  taken : Nat := 0
  sent : Nat := 0
  masters : List PtpMaster := []
  await : Option (BitVec 16 × Int × Int) := none
  last : Option (Int × Int) := none
  req : Option Int := none
  delay : Option Int := none
  deriving DecidableEq, Repr

/-- SKEW_CAL in progress (R45): its command, root and upstream link, the exchanges made, the sum of (t2 - t1) - (t4 - t3) over them
in 1/256 tick, and the upstream device's reported offset in 1/1024 tick. -/
structure Skew where
  tag : BitVec 16
  root : Nat
  link : Option Nat
  n : Nat := 0
  sum : Int := 0
  up : Option Int := none
  deriving DecidableEq, Repr

/-- Why a command's meaning ends the run. The JV2 has no stop of its own; the one constructor is for operands that are not
a command the manual gives. -/
inductive Fault where
  /-- Raised by COMMAND_FETCH alone, for an entry that is not 16 words and so no command of the manual. Safe: no such entry
  reaches the device. -/
  | illFormed
  deriving DecidableEq, Repr

/-- Why a command has no meaning in the model. -/
inductive Refusal where
  /-- A command whose meaning is not written yet. Safe: the run stops. -/
  | notModelled (mnemonic : String)
  deriving DecidableEq, Repr

/-- The state of the JV2. -/
structure State where
  /-- Commands that wait, first in first out (the model's own). -/
  pending : List Instr := []
  /-- The counter behind free values: each use advances it (the model's own). -/
  free : Nat := 0
  /-- The board supplies the module (R390). -/
  board : Bool := true
  /-- The rails that the always-on domain enables are up (R390). -/
  power : Bool := true
  /-- The part is a JV2-256C-32 (R1). -/
  half : Bool := false
  /-- Register words that differ from their reset values or have been written. -/
  regs : List (Reg × Word) := []
  -- modes (02)
  mode : Mode := .boot
  trans : Option Trans := none
  modeSeq : BitVec 16 := 0
  safePending : Bool := false
  /-- The first cause latched in DORMANT or SERVICE: its tick and bit (R32, R34). -/
  pendCause : Option (Nat × Nat) := none
  /-- The tick in which SAFE was last entered (R32). -/
  safeAt : Nat := 0
  /-- BOOT failed under R14 or R345. -/
  bootFailed : Bool := false
  startSet : List Nat := []
  /-- An accepted START's T_s, not yet reached. -/
  startAt : Option Nat := none
  /-- T_s of the present or last run, and the tick in which the last one ended. -/
  ts : Nat := 0
  runEnd : Nat := 0
  stopAt : Option Nat := none
  -- time (03)
  tt : Tick64 := 0
  /-- The TT at which TT last started or was loaded, from which the schedules of R39 run. -/
  ttFrom : Nat := 0
  wtSec : Nat := 0
  wtNs : Nat := 0
  wtFrac : Nat := 0
  /-- Ticks elapsed since the release of reset, whatever TT is (R39, R403). -/
  up : Nat := 0
  /-- Past changes of WT or ADJ that a stamp may need, oldest first (R241, R248). -/
  wtLog : List WtMark := []
  /-- The servo's part of ADJ below one unit, in millionths (R49). -/
  servoFrac : Int := 0
  refCntA : Nat := 0
  refCntB : Nat := 0
  /-- The elapsed tick of each reference's last measurement, A under 0 and B under 1 (R41). -/
  refAt : Tab Nat := []
  /-- Holdover: the elapsed tick of its entry, and the microsecond of the last update (R43). -/
  holdAt : Nat := 0
  holdUs : Nat := 0
  /-- V of the last epoch load (R44). -/
  epochV : Nat := 0
  /-- The elapsed tick of the last servo update (R49). -/
  servoAt : Option Nat := none
  /-- The default data set was asked for in this PTP domain last (R52). -/
  ptpReply : Option (BitVec 7) := none
  domA : Dom := {}
  domB : Dom := {}
  skew : Option Skew := none
  resettling : Bool := false
  -- engines (04, 05)
  engs : Tab Eng := []
  engMap : Tab Nat := []
  -- outputs (06, 07, 08)
  slots : Tab Slot := []
  rfSettled : Nat := 0
  /-- The ticks from which clamps have not yet set SAT_ENV, and CLIP (R405). -/
  satFrom : Nat := 0
  clipFrom : Nat := 0
  /-- From which land tick a cue mute has forced zero code, by output (R123). -/
  cueMuted : Tab Nat := []
  /-- A STOP has ended the last run: its outputs give code 0 until the next (R123). -/
  stopMuted : Bool := false
  flux : Tab Flux := []
  rings : Tab Ring := []
  /-- Segments that stay active until a tick: owner, segment, tick (R137: both branches of a fork, and 8 ns after SAFE). -/
  actTail : List (Nat × Nat × Nat) := []
  /-- Segment writes that the gate passed in the present tick (R137). -/
  gate : List GatePass := []
  /-- The register words before the host writes of tick `wrTick` of TT: X fields take effect in the tick after (R9). -/
  wrOld : List (Reg × Word) := []
  wrTick : Option Nat := none
  /-- Slot and RFI registers as they stood at T_s (R106, R175). -/
  held : List (Reg × Word) := []
  -- cues (11)
  due : List Due := []
  evalAt : Option Nat := none
  lastCue : Tab Int := []
  cells : Tab Cell := []
  verdicts : Tab Verdict := []
  /-- Verdicts written in a recent tick or one to come: tick, entry, value, `none` for VALID = 0 (R88, R203, R284). -/
  newVerdicts : List (Nat × Nat × Option Verdict) := []
  pauli : Tab (BitVec 2) := []
  /-- The Pauli frame before the writes of tick `pauliTick` (R88). -/
  pauliOld : Tab (BitVec 2) := []
  pauliTick : Nat := 0
  cueChk : Bool := false
  -- acquisition (13)
  acqs : Tab Acq := []
  /-- The newest demodulated samples of each input, newest first (R176, R228). -/
  streams : Tab (List DemodSet) := []
  -- Quarry (12)
  pubs : List Pub := []
  qry : Qry := {}
  -- marker and vector port (14)
  mvp : Mvp := {}
  /-- The instant in 1/256 tick of the last stamped edge of each TRIG (0-3) and TBUS (4-7) line (R232). -/
  tdc : Tab Nat := []
  -- Pyarn (16)
  links : Tab Link := []
  linkCfg : LinkCfg := {}
  /-- ALIVE of each export entry, and the value each import last accepted (R285). -/
  aliveOut : Tab Nat := []
  aliveIn : Tab Nat := []
  bxf : Option Bxf := none
  -- tally, housekeeping, flash and Caller (19, 20, 21)
  tallies : Tab Tally := []
  hkp : Hkp := {}
  /-- The CRIT trip has dropped the rails (R359); the flash rail may still be up (R360). -/
  tripped : Bool := false
  flashRail : Bool := true
  flash : Flash := {}
  caller : Caller := {}
  spdm : Spdm := {}
  /-- Rails are to be raised once more after a failed power sequence (R390). -/
  railWait : Bool := false
  -- memories (23 R382, 18)
  sram : Memory := []
  /-- Protected words with wrong bits, by byte address: 64-bit words of engine memories and microwords of the open store as BAR2
  places them, microwords of patch RAM beyond it; and the number of wrong bits (R58, R273). What they hold is as written: an error
  that is corrected, or raised, is never used. -/
  upsets : Tab Nat := []
  bulk : Memory := []
  /-- 64-byte lines of bulk memory that an uncorrectable error left poisoned (R325), by line number. -/
  poison : List Nat := []
  /-- What patch RAM and the redirect tables hold: the version and SVN of the patch decrypted into them (R261, R272). -/
  patchRam : Option (Word × Nat) := none
  mem : MemCond := {}
  /-- What the last read of a window or of bulk memory returned, and whether it was poisoned (the model's own). -/
  answer : Option (List Byte × Bool) := none
  -- host (17, 20)
  adminQ : List QueuedCmd := []
  bg : List Bg := []
  /-- Completions not acknowledged, oldest first (R307, R310). -/
  cpls : List Completion := []
  /-- Count of the last completion acknowledged since EN was set, and that completion (R312). -/
  cplAck : Nat := 0
  lastCpl : Option Completion := none
  /-- Device notices not yet in RR16 (R311). -/
  rr16 : List (List Word) := []
  /-- Result-ring entries visible and not acknowledged, with their counts (R309, R310). -/
  hostRing : Tab (List (Nat × List Word)) := []
  /-- MSI-X vectors waiting to be sent, and the tick each was last sent (R315). -/
  msix : List Nat := []
  msixLast : Tab Nat := []
  /-- An IDE failure holds command reads and results until new keys are programmed (R318). -/
  ideStop : Bool := false
  deriving DecidableEq, Repr

/-- The machine right after a device reset (R29, R35): every register at its reset value, BOOT in progress. -/
def State.reset : State := {}

end Sys2Proof.Machine
end

