-- ==== Sys2Proof/Machine/Ops.lean ====
section
/-! DEFINITION. The named operations every meaning uses: sparse tables, memories, register fields, the views of the mode and
of wall time, completions (R307), the error log (R374), device notices (R309) and cues raised (R192). -/
namespace Sys2Proof.Machine

/-- What a command's meaning answers. -/
abbrev Res := Host.Outcome State Fault Refusal

/-! Sparse tables. -/

/-- The entry of a table, if one is listed. -/
def tabFind {α : Type} : Tab α → Nat → Option α
  | [], _ => none
  | (i, v) :: t, k => if i = k then some v else tabFind t k

/-- The entry of a table, or a default. -/
def tabGet {α : Type} (t : Tab α) (k : Nat) (d : α) : α := (tabFind t k).getD d

/-- Set an entry, keeping keys ascending. -/
def tabPut {α : Type} : Tab α → Nat → α → Tab α
  | [], k, v => [(k, v)]
  | (i, w) :: t, k, v => if k < i then (k, v) :: (i, w) :: t else if k = i then (k, v) :: t else (i, w) :: tabPut t k v

/-- Remove an entry. -/
def tabDel {α : Type} (t : Tab α) (k : Nat) : Tab α := t.filter (fun e => e.1 != k)

/-- Ascending, each once. -/
def ascending (l : List Nat) : List Nat := (l.foldl (fun (t : Tab Unit) a => tabPut t a ()) []).map (·.1)

/-! Memories. -/

/-- The byte at an address. -/
def memByte (m : Memory) (a : Nat) : Byte := tabGet m a 0

/-- Store one byte: the canonical form lists no 0. -/
def memSet (m : Memory) (a : Nat) (b : Byte) : Memory := if b = 0 then tabDel m a else tabPut m a b

/-- Store bytes at ascending addresses. -/
def memSets (m : Memory) (a : Nat) : List Byte → Memory
  | [] => m
  | b :: bs => memSets (memSet m a b) (a + 1) bs

/-- The 32-bit word at an address, little-endian. -/
def memWord (m : Memory) (a : Nat) : Word :=
  Word.ofBytes (memByte m a) (memByte m (a + 1)) (memByte m (a + 2)) (memByte m (a + 3))

/-- Store a 32-bit word. -/
def memSetWord (m : Memory) (a : Nat) (w : Word) : Memory := memSets m a w.bytes

/-- Store words at ascending word addresses. -/
def memSetWords (m : Memory) (a : Nat) : List Word → Memory
  | [] => m
  | w :: ws => memSetWords (memSetWord m a w) (a + 4) ws

/-- Words from an address. -/
def memWords (m : Memory) (a n : Nat) : List Word := (List.range n).map (fun i => memWord m (a + 4 * i))

/-- Bytes `lo` to `hi - 1` become 0. -/
def memClear (m : Memory) (lo hi : Nat) : Memory := m.filter (fun c => c.1 < lo || hi ≤ c.1)

/-- The canonical form: addresses strictly rising, no entry equal to 0. -/
def Memory.wf : Memory → Bool
  | [] => true
  | [(_, b)] => b != 0
  | (a, b) :: (c, d) :: t => b != 0 && decide (a < c) && Memory.wf ((c, d) :: t)

/-! Registers. -/

/-- Look a register up in the list of written words. -/
def regFind : List (Reg × Word) → Reg → Option Word
  | [], _ => none
  | (q, w) :: t, r => if q = r then some w else regFind t r

/-- Replace or add a register's word. -/
def regPut : List (Reg × Word) → Reg → Word → List (Reg × Word)
  | [], r, w => [(r, w)]
  | (q, v) :: t, r, w => if q = r then (r, w) :: t else (q, v) :: regPut t r w

/-- The stored word of a register: its reset value until something writes it. -/
def State.reg (s : State) (r : Reg) : Word := (regFind s.regs r).getD (BitVec.ofNat 32 r.reset)

/-- Store a register's word. -/
def State.setReg (s : State) (r : Reg) (w : Word) : State := { s with regs := regPut s.regs r w }

/-- A register by name and indices. -/
def State.rd (s : State) (k : RegK) (i : Nat := 0) (j : Nat := 0) : Word := s.reg ⟨k, i, j⟩

/-- A register as a number. -/
def State.rdn (s : State) (k : RegK) (i : Nat := 0) (j : Nat := 0) : Nat := (s.rd k i j).toNat

/-- Store a whole register. -/
def State.wr (s : State) (k : RegK) (v : Nat) (i : Nat := 0) (j : Nat := 0) : State := s.setReg ⟨k, i, j⟩ (BitVec.ofNat 32 v)

/-- A field of a register, as a number. -/
def State.fld (s : State) (f : Fld) : Nat := (s.reg f.reg).bits f.hi f.lo

/-- A one-bit field. -/
def State.flag (s : State) (f : Fld) : Bool := s.fld f != 0

/-- Set a field and leave the register's other bits. -/
def State.put (s : State) (f : Fld) (v : Nat) : State := s.setReg f.reg ((s.reg f.reg).put f.hi f.lo v)

/-- Set a one-bit field to 1. -/
def State.raiseBit (s : State) (f : Fld) : State := s.put f 1

/-- Add to a counter field, which saturates at its greatest value. -/
def State.count (s : State) (f : Fld) (n : Nat := 1) : State := s.put f (satAdd (f.hi + 1 - f.lo) (s.fld f) n)

/-- Add to a 32-bit counter register. -/
def State.countReg (s : State) (k : RegK) (i : Nat := 0) (j : Nat := 0) (n : Nat := 1) : State :=
  s.wr k (satAdd 32 (s.rdn k i j) n) i j

/-- A 64-bit value in two registers, low word first. -/
def State.rd64 (s : State) (lo hi : RegK) (i : Nat := 0) (j : Nat := 0) : Nat := s.rdn lo i j + 2 ^ 32 * s.rdn hi i j

/-- Store a 64-bit value in two registers. -/
def State.wr64 (s : State) (lo hi : RegK) (v : Nat) (i : Nat := 0) (j : Nat := 0) : State :=
  (s.wr lo v i j).wr hi (v >>> 32) i j

/-- The present tick. -/
def State.now (s : State) : Nat := s.tt.toNat

/-- The word of a register whose fields act in tick t: a host write is in force from the tick after it (R9). -/
def State.regIn (s : State) (r : Reg) (t : Nat) : Word :=
  if s.wrTick.any (fun w => t ≤ w) then (regFind s.wrOld r).getD (BitVec.ofNat 32 r.reset) else s.reg r

/-- A field in force in tick t. -/
def State.fldIn (s : State) (f : Fld) (t : Nat) : Nat := (s.regIn f.reg t).bits f.hi f.lo

/-- A register's word in force in the present tick, as a number. -/
def State.rdNow (s : State) (k : RegK) : Nat := (s.regIn ⟨k, 0, 0⟩ s.now).toNat

/-- The value of an X field in the present tick: the written one while the block's XEN is 1, its basic-derived value otherwise
(R9). -/
def State.xfld (s : State) (xen f : Fld) (basic : Nat) : Nat :=
  if s.fldIn xen s.now != 0 then s.fldIn f s.now else basic

/-- A block's XEN is in force in tick t (R9). -/
def State.xenOn (s : State) (f : Fld) (t : Nat) : Bool := s.fldIn f t != 0

/-- The register words before a host write are kept for the rest of its tick (R9). -/
def State.stageWrite (s : State) : State :=
  if s.wrTick = some s.now then s else { s with wrOld := s.regs, wrTick := some s.now }

/-! Modes. -/

/-- The code of a mode (R21). -/
def modeCode : Mode → Nat
  | .boot => 0 | .dormant => 1 | .standby => 2 | .calibrate => 3 | .armed => 4 | .run => 5 | .safe => 6 | .service => 7

/-- The code of a status (R308). -/
def statusCode : Status → Nat
  | .ok => 0 | .state => 1 | .range => 2 | .busy => 3 | .auth => 4 | .format => 5 | .absent => 6 | .fault => 7 | .late => 8
  | .version => 9 | .degraded => 10

/-- A memory group, or a lane of a link, is out of service (GLB_MODE.DEGRADED). -/
def State.degraded (s : State) : Bool :=
  s.mode != .boot && (s.fld memStatInService != 0xF || (List.range 6).any (fun l => s.fld (lnkLaneFailed l) != 0))

/-- GLB_MODE (02): in BOOT it reads TRANS = 1 and TARGET = STANDBY until BOOT ends or fails (R14, R25). -/
def State.modeWord (s : State) : Word :=
  let booting := s.mode == .boot && !s.bootFailed
  let target := match s.trans with
    | some t => modeCode t.target
    | none => if booting then 2 else modeCode s.mode
  BitVec.ofNat 32 (s.modeSeq.toNat * 2 ^ 16 + b2n s.degraded * 2 ^ 10 + b2n s.safePending * 2 ^ 9
    + b2n (booting || s.trans.isSome) * 2 ^ 8 + target * 2 ^ 4 + modeCode s.mode)

/-- A BAR0 or BAR2 access of a block other than GLB and CLK is dead in DORMANT (R26), and nothing answers without power. -/
def State.alive (s : State) : Bool := s.power && s.mode != .dormant

/-- Commands are served: by Ghenov, by the ROM during BOOT and in its monitor, or by the DORMANT screener; not while the
Caller restarts (R19, R22, R341, R343). -/
def State.callerServing (s : State) : Bool :=
  s.power && (s.mode == .dormant || s.mode == .boot || s.fld glbCallerStatState != 3)

/-- Ghenov runs (R19): link-up, the servo and MGMT type 7 need it. -/
def State.ghenovRuns (s : State) : Bool := s.power && s.mode != .dormant && s.fld glbCallerStatState == 2

/-! Wall time. -/

/-- ADJ in effect, clamped (R49). -/
def State.adj (s : State) : Int := clampInt (-524288) 524288 ((s.rd .clkWtAdj).toInt)

/-- WT in 2^-32 ns. -/
def State.wtExact (s : State) : Int := ((s.wtSec * 1000000000 + s.wtNs) * 2 ^ 32 + s.wtFrac : Nat)

/-- WT or ADJ is about to change: what stood until now is kept for stamps of earlier ticks, which lie less than 512 ticks back
(R231, R241, R248). -/
def State.markWt (s : State) : State :=
  { s with wtLog := s.wtLog.filter (fun x => decide (s.up < x.at_ + 512)) ++ [⟨s.up, s.wtExact, s.adj⟩] }

/-- One increment of WT (R48). -/
def wtStep (adj : Int) (sec ns frac : Nat) : Nat × Nat × Nat :=
  let f : Int := frac + adj
  let frac' := (f % 2 ^ 32).toNat
  let ns' := (ns + 1 + f / 2 ^ 32 : Int).toNat
  if 1000000000 ≤ ns' then ((sec + 1) % 2 ^ 48, ns' - 1000000000, frac') else (sec, ns', frac')

/-- `n` increments of WT at once: the sum of R48's steps. A nanosecond count loaded out of range is brought into range by
single steps first. -/
def wtAdvance (adj : Int) : Nat → Nat → Nat → Nat → Nat → Nat × Nat × Nat
  | fuel + 1, n + 1, sec, ns, frac =>
    if 1000000000 ≤ ns then
      let r := wtStep adj sec ns frac
      wtAdvance adj fuel n r.1 r.2.1 r.2.2
    else
      let t := ((ns * 2 ^ 32 + frac : Nat) + ((n + 1 : Nat) : Int) * (2 ^ 32 + adj)).toNat
      ((sec + t / 2 ^ 32 / 1000000000) % 2 ^ 48, t / 2 ^ 32 % 1000000000, t % 2 ^ 32)
  | _, _, sec, ns, frac => (sec, ns, frac)

/-- Steps of TT that `n` elapsed ticks bring: none in BOOT, in DORMANT 40 at each cycle of the 25 MHz crystal (02, R35, R51). -/
def State.ttSteps (s : State) (n : Nat) : Nat :=
  match s.mode with
  | .boot => 0
  | .dormant => 40 * ((s.up + n) / 40 - s.up / 40)
  | _ => n

/-- Elapsed ticks after which TT has come `d` steps or more further (R51). -/
def State.ticksFor (s : State) (d : Nat) : Nat :=
  match s.mode with
  | .dormant => (s.up / 40 + (d + 39) / 40) * 40 - s.up
  | _ => d

/-- Move on by `n` ticks: elapsed time, and TT with WT (R35, R48, R51). -/
def State.tickOn (s : State) (n : Nat) : State :=
  let k := s.ttSteps n
  let r := wtAdvance s.adj 8 k s.wtSec s.wtNs s.wtFrac
  { s with up := s.up + n, tt := s.tt + BitVec.ofNat 64 k, wtSec := r.1, wtNs := r.2.1, wtFrac := r.2.2 }

/-- LOCKED of the selected domain. -/
def State.domLocked (s : State) : Bool := s.flag (clkDomStatLocked (s.fld clkTimeCtrlSel))

/-- The WT stamp of R55, as four words, low first. -/
def State.wtStamp (s : State) : List Word :=
  let status := b2n (s.flag clkRefStatHoldover) * 4 + b2n s.domLocked * 2 + s.fld clkTimeCtrlSel
  let v := s.wtSec * 2 ^ 80 + s.wtNs * 2 ^ 48 + (s.wtFrac / 2 ^ 16) * 2 ^ 32 + status
  (List.range 4).map (fun i => BitVec.ofNat 32 (v >>> (32 * i)))

/-- The low and high words of a 64-bit number. -/
def words64 (v : Nat) : List Word := [BitVec.ofNat 32 v, BitVec.ofNat 32 (v >>> 32)]

/-! Free values. -/

/-- Take a number for a value the manual leaves open: each use has its own. -/
def State.takeFree (s : State) : Nat × State := (s.free, { s with free := s.free + 1 })

/-! Cues raised. -/

/-- A cue on a channel is to appear at a tick (R192). -/
def State.raiseAt (s : State) (ch tick : Nat) : State := { s with due := s.due ++ [⟨tick, ch⟩] }

/-- A system event of the central die in the present tick: its cue appears in the next (R191, R192). -/
def State.sysCue (s : State) (ch : Nat) : State := s.raiseAt ch (s.now + 1)

/-- A system event detected on a converter die: its cue appears 4 ticks later (R192). -/
def State.dieCue (s : State) (ch : Nat) : State := s.raiseAt ch (s.now + 4)

/-! Device notices and the error log. -/

/-- Pad to 16 words. -/
def pad16 (ws : List Word) : List Word := (ws ++ List.replicate 16 0).take 16

/-- Offer an RR16 entry (R309): kind in word 0, its words, TT in words 12 and 13. It is held in a 16-entry buffer until a slot
is free, and dropped and counted when the buffer is full (R311). -/
def State.notice (s : State) (kind : Nat) (ws : List Word) : State :=
  let body := (BitVec.ofNat 32 kind :: ws) ++ List.replicate 12 0
  if s.rr16.length < 16 then { s with rr16 := s.rr16 ++ [body.take 12 ++ words64 s.now] }
  else s.countReg .hstRr16Drop

/-- Where the error log lies in BAR2 (R382). -/
def logBase : Nat := 0x0C500000

/-- Write one error-log entry (R374): block, event, unit, detail. Each entry posts the RR16 notice of kind 2. -/
def State.logEntry (s : State) (block event unit : Nat) (detail : Word) : State :=
  let next := s.rdn .svcLogNext
  let w0 := BitVec.ofNat 32 (block + event * 2 ^ 8 + unit % 2 ^ 16 * 2 ^ 16)
  let ws := w0 :: (words64 s.now ++ s.wtStamp ++ [detail])
  let held := s.fld svcLogStatHeld
  let s1 := { s with sram := memSetWords s.sram (logBase + 32 * (next % 4096)) ws }
  let s2 := (s1.wr .svcLogNext (next + 1)).put svcLogStatHeld (min 4096 (held + 1))
  let s3 := if held = 4096 then s2.raiseBit svcLogStatWrap else s2
  s3.notice 2 [BitVec.ofNat 32 next]

/-! Completions. -/

/-- A vector is to be sent (R315); several wait as one. -/
def State.msi (s : State) (v : Nat) : State := if s.msix.contains v then s else { s with msix := s.msix ++ [v] }

/-- Produce a completion (R307). -/
def State.complete (s : State) (tag : BitVec 16) (opcode : Nat) (st : Status) (detail : Nat := 0) (res : List Word := []) :
    State :=
  let c : Completion := ⟨tag, opcode, st, s.modeWord, BitVec.ofNat 32 detail, s.tt, res⟩
  let s1 := { s with cpls := s.cpls ++ [c] }
  if s1.flag hstCplCfgEn && s1.flag hstCplCfgIrqEn && !s1.ideStop then s1.msi 0 else s1

/-! The cue fabric's next tick. -/

/-- The lesser of two, where there is one. -/
def minOpt (a b : Option Nat) : Option Nat :=
  match a, b with
  | some x, some y => some (min x y)
  | some x, none => some x
  | none, y => y

/-- The earliest tick of a raised cue, or of a cell that moves on. -/
def State.cueTick (s : State) : Option Nat :=
  minOpt (s.due.foldl (fun m d => minOpt m (some d.tick)) none) s.evalAt

/-- The fabric runs (R190): not in BOOT, and stopped in DORMANT. -/
def State.fabricOn (s : State) : Bool := s.power && s.mode != .boot && s.mode != .dormant

end Sys2Proof.Machine
end

