-- ==== Sys2Proof/Machine/Operands.lean ====
section
/-! DEFINITION. Engines as an instruction sees them: which engine and channel a number names (R10 to R12), registers,
predicates, the condition (R78) and the operand forms of J-ISA (R80, R91), and the engine's memories (R57, R382). -/
namespace Sys2Proof

/-- A bit range of IMM. -/
def JWord.im (f : JWord) (hi lo : Nat) : Nat := f.imm.bits hi lo

/-- E[0], the R bit of most register forms. -/
def JWord.r (f : JWord) : Bool := f.e.getLsbD 0

/-- The channel or body field [41:32]: B and E. -/
def JWord.chan (f : JWord) : Nat := f.b.toNat * 32 + f.e.toNat

/-- AT's immediate [41:0]. -/
def JWord.imm42 (f : JWord) : Nat := f.chan * 2 ^ 32 + f.imm.toNat

end Sys2Proof

namespace Sys2Proof.Machine

/-- The class of a logical engine (R12). -/
def clsOf (e : Nat) : EngClass := if e < 512 then .te else if e < 768 then .fe else .me

/-- The class of a physical engine: the spares follow the logical ones (R12). -/
def clsOfPhys (p : Nat) : EngClass :=
  if p < 1024 then clsOf p else if p < 1056 then .te else if p < 1072 then .fe else .me

/-- RF output of a TE, numbered as the RFO blocks are: DRV00 to DRV63, then PRB00 to PRB15 (R12). -/
def rfOf (e : Nat) : Nat := if e < 256 then e / 4 else 64 + (e - 256) / 16

/-- Slot of a TE on its output (R12, R106). -/
def slotOf (e : Nat) : Nat := if e < 256 then e % 4 else (e - 256) % 16

/-- The TE of a slot (R106). -/
def teOf (o s : Nat) : Nat := if o < 64 then 4 * o + s else 256 + 16 * (o - 64) + s

/-- Slots of an output: 4 on a drive output, 16 on a probe output. -/
def nSlots (o : Nat) : Nat := if o < 64 then 4 else 16

/-- Converter die of an RF output (R10). -/
def dieOf (o : Nat) : Nat := if o < 64 then o / 16 else (o - 64) / 4

/-- The physical engine that serves a logical one (R11, R365). -/
def State.phys (s : State) (e : Nat) : Nat := tabGet s.engMap e e

/-- The logical engine that a physical one serves. -/
def State.logical (s : State) (p : Nat) : Nat :=
  match s.engMap.find? (fun e => e.2 == p) with
  | some e => e.1
  | none => p

/-- The physical engine p. -/
def State.engP (s : State) (p : Nat) : Eng := tabGet s.engs p {}

/-- The logical engine e. -/
def State.eng (s : State) (e : Nat) : Eng := s.engP (s.phys e)

/-- Replace a logical engine. -/
def State.setEng (s : State) (e : Nat) (g : Eng) : State := { s with engs := tabPut s.engs (s.phys e) g }

/-- Change a logical engine. -/
def State.modEng (s : State) (e : Nat) (f : Eng → Eng) : State := s.setEng e (f (s.eng e))

/-- A general register. -/
def Eng.reg (g : Eng) (i : Nat) : Word := tabGet g.g i 0

/-- Write a general register. -/
def Eng.setReg (g : Eng) (i : Nat) (w : Word) : Eng := { g with g := tabPut g.g i w }

/-- A predicate: p0 is always 1 (R59). -/
def Eng.pred (g : Eng) (i : Nat) : Bool := i == 0 || g.preds.getLsbD i

/-- Write a predicate: a write of p0 is ignored. -/
def Eng.setPred (g : Eng) (i : Nat) (b : Bool) : Eng :=
  if i = 0 then g
  else { g with preds := (g.preds &&& ~~~(1#8 <<< i)) ||| (if b then 1#8 <<< i else 0) }

/-- The J-ISA level of the engine's image; 2 while none is loaded. -/
def Eng.level (g : Eng) : Nat := match g.img with | some i => i.level | none => 2

/-- The condition of an instruction (R78). -/
def Eng.cond (g : Eng) (f : JWord) : Bool := xor (g.pred f.pred.toNat) f.pinv

/-- The operand `R ? gB : IMM` (R80). -/
def Eng.opB (g : Eng) (f : JWord) : Word := if f.r then g.reg f.b.toNat else f.imm

/-- The register pair gA:gA+1 as a 64-bit number (R80). -/
def Eng.pairA (g : Eng) (f : JWord) : Nat := (g.reg f.a.toNat).toNat + 2 ^ 32 * (g.reg (f.a.toNat + 1)).toNat

/-- Second operand of an integer instruction (R86). -/
def Eng.op2 (g : Eng) (i : Bool) (f : JWord) : Word := if i then f.imm else g.reg f.b.toNat

/-- The code of a class in ENG_STAT. -/
def clsCode : EngClass → Nat
  | .te => 0 | .fe => 1 | .me => 2

/-- Byte offset in BAR2 of a physical engine's memories (R382). -/
def engBase (p : Nat) : Nat := 0x0D000000 + p * 0x40000

/-- Byte offset in BAR2 of a data memory: X or the only one, or Y. -/
def dataBase (p : Nat) (y : Bool) : Nat := engBase p + (if y then 0x24000 else 0x20000)

/-- A word of a logical engine's data memory. -/
def State.dataWord (s : State) (e : Nat) (y : Bool) (a : Nat) : Word := memWord s.sram (dataBase (s.phys e) y + a)

/-- Store a word into a logical engine's data memory: its 64-bit word is encoded anew. -/
def State.setDataWord (s : State) (e : Nat) (y : Bool) (a : Nat) (w : Word) : State :=
  let x := dataBase (s.phys e) y + a
  { s with sram := memSetWord s.sram x w, upsets := tabDel s.upsets (x - x % 8) }

/-- Words written as a whole carry no error: those from byte address a on, `n` bytes. -/
def State.clearUpsets (s : State) (a n : Nat) : State :=
  { s with upsets := s.upsets.filter (fun u => decide (u.1 < a ∨ a + n ≤ u.1)) }

/-! Engines halt. -/

/-- An engine is between T_s and its halt. -/
def liveState : EngState → Bool
  | .running | .waiting | .stalled => true
  | _ => false

/-- An engine stops at an instruction boundary (R70): a wait is abandoned without effect, so a WAITC gives the listener back, and PC
is again the index of the instruction that waited. -/
def Eng.stop (g : Eng) (st : EngState) : Eng :=
  let g1 := match g.wait with
    | some (.waitc _ _ l p) => { g with listen := l, pend := p }
    | _ => g
  { g1 with state := st, pc := if g.wait.isSome then g.pc - 1 else g.pc, wait := none, haltReq := false }

/-- A halt request that came while an instruction ran its cost takes effect at the boundary after it (R70). -/
def State.haltDue (s : State) : State :=
  let due (g : Eng) : Bool := g.haltReq && g.routine.isNone && liveState g.state && decide (g.ready ≤ s.now)
  if s.engs.any (fun e => due e.2) then { s with engs := s.engs.map (fun e => (e.1, if due e.2 then e.2.stop .halted else e.2)) }
  else s

/-! Segments as engines see them (07 R131 to R134). The library of RF output o is number o, that of FLX i number 80 + i. -/

/-- The segment owner of an engine: RF output or 80 + flux output. -/
def ownerOf (e : Nat) : Nat := if e < 512 then rfOf e else 80 + (e - 512)

/-- Byte offset in BAR2 of descriptor d of an owner (R382). -/
def descAddr (o d : Nat) : Nat := if o < 80 then 0x05500000 + o * 0x4000 + 8 * d else 0x05800000 + (o - 80) * 0x4000 + 8 * d

/-- Byte offset in BAR2 of an owner's library. -/
def libAddr (o : Nat) : Nat := if o < 80 then o * 0x100000 else 0x06000000 + (o - 80) * 0x20000

/-- Byte offset in BAR2 of an RF output's marker array. -/
def markAddr (o : Nat) : Nat := 0x05000000 + o * 0x10000

/-- Granules of an owner's library (R129). -/
def nGran (o : Nat) : Nat := if o < 80 then 16384 else 2048

/-- Word 0 and word 1 of a descriptor. -/
def State.desc0 (s : State) (o d : Nat) : Word := memWord s.sram (descAddr o d)
def State.desc1 (s : State) (o d : Nat) : Word := memWord s.sram (descAddr o d + 4)

/-- Fields of descriptor word 0 (R131). -/
def dValid (w : Word) : Bool := w.bit 31
def dStream (w : Word) : Bool := w.bit 30
def dJen (w : Word) : Bool := w.bit 29
def dJt (w : Word) : Nat := w.bits 28 18
def dRing (w : Word) : Nat := w.bits 17 16
def dStart (w : Word) : Nat := w.bits 13 0

/-- A descriptor with VALID = 1 is well formed on its owner (R132). -/
def descOk (o : Nat) (w0 w1 : Word) : Bool :=
  w1.toNat % 16 == 0 && 32 ≤ w1.toNat && w0.bits 15 14 == 0
  && (if dStream w0 then o < 80 && dStart w0 == 0
      else decide (16 * dStart w0 + w1.toNat ≤ 16 * nGran o))

/-- dur(s) of R91 and R132, in ticks: 0 for an invalid descriptor. -/
def State.dur (s : State) (o d : Nat) : Nat := if dValid (s.desc0 o d) then (s.desc1 o d).toNat / 2 else 0

/-! The verdict table. -/

/-- Entry of the verdict table after every write made in tick t or earlier. -/
def State.verdictAt (s : State) (v t : Nat) : Option Verdict :=
  match (s.newVerdicts.filter (fun e => e.2.1 == v && e.1 ≤ t)).getLast? with
  | some e => e.2.2
  | none => tabFind s.verdicts v

/-- A verdict in the format of R88. -/
def verdictWord : Option Verdict → Word
  | some v => BitVec.ofNat 32 (b2n v.valid * 2 ^ 31 + v.seq % 256 * 2 ^ 8 + b2n v.conf * 4 + v.state % 4)
  | none => 0

end Sys2Proof.Machine
end

