-- ==== Sys2Proof/Machine/Flags.lean ====
section
/-! DEFINITION. What an instruction is judged by at issue: reserved bits, classes and levels (R79, R81, R104), the lead of a
timeline instruction (R63 to R65), and the sticky bits of ENG_LSR. -/
namespace Sys2Proof.Machine

/-- The assigned bits of an instruction's fields (R79), which of D, A and B name registers and whether D names a predicate
(R104), the classes it is valid for and whether level 1 has it (R81). -/
structure Form where
  dm : Nat := 0
  am : Nat := 0
  bm : Nat := 0
  em : Nat := 0
  im : Nat := 0
  rd : Bool := false
  ra : Bool := false
  rb : Bool := false
  pd : Bool := false
  te : Bool := true
  fe : Bool := true
  me : Bool := true
  l1 : Bool := true
  deriving DecidableEq, Repr

/-- Only bits of a mask are set. -/
def within (v m : Nat) : Bool := v &&& m == v

/-- An instruction is legal by its fields alone for a class and level (R79, R104). -/
def legalForm (F : Form) (c : EngClass) (lvl : Nat) (f : JWord) : Bool :=
  (match c with | .te => F.te | .fe => F.fe | .me => F.me)
  && within f.d.toNat F.dm && within f.a.toNat F.am && within f.b.toNat F.bm && within f.e.toNat F.em && within f.imm.toNat F.im
  && (lvl != 1 || (F.l1 && f.pred.toNat < 4 && !(F.rd && 16 ≤ f.d.toNat) && !(F.ra && 16 ≤ f.a.toNat)
        && !(F.rb && 16 ≤ f.b.toNat) && !(F.pd && 4 ≤ f.d.toNat)))

/-- The memory field M of R87: E[0] on an ME, reserved otherwise. -/
def mField (c : EngClass) : Nat := match c with | .me => 1 | _ => 0

/-- The register form and the immediate form of an integer instruction (R86). -/
def intForm (i : Bool) : Form :=
  if i then { dm := 31, am := 31, im := 0xFFFFFFFF, rd := true, ra := true }
  else { dm := 31, am := 31, bm := 31, rd := true, ra := true, rb := true }

/-- The immediate form of a shift keeps IMM[31:5] at 0 (R86). -/
def shiftForm (i : Bool) : Form := if i then { intForm true with im := 0x1F } else intForm false

/-- The required lead of a class (R63). -/
def leadOf (c : EngClass) : Nat := match c with | .me => 24 | _ => 40

/-- The capacity of an engine's effect queue (R64). -/
def queueCap (c : EngClass) : Nat := match c with | .me => 8 | _ => 32

/-- How a timeline instruction stands at issue (R63 to R67). -/
inductive Lead where
  | far | back | late | onTime
  deriving DecidableEq, Repr

/-- Judge a lead: TC_FAR goes before any other handling (R63), then TC_BACK (R65), then LATE (R67). -/
def judgeLead (c : EngClass) (tc t : Nat) (last : Option Nat) : Lead :=
  if t + 2 ^ 31 < tc then .far
  else if last.any (fun l => tc < l) then .back
  else if tc < t + leadOf c then .late
  else .onTime

/-! Bits of ENG_LSR (04). -/
def lsrLate : Nat := 0
def lsrForkLate : Nat := 1
def lsrUnderrun : Nat := 2
def lsrOv : Nat := 3
def lsrCbw : Nat := 4
def lsrSkipwin : Nat := 5
def lsrEcc1 : Nat := 6

/-- Set a sticky bit of ENG_LSR. -/
def Eng.setLsr (g : Eng) (b : Nat) : Eng := { g with lsr := g.lsr ||| BitVec.ofNat 32 (2 ^ b) }

/-- A 1 written to a sticky bit of ENG_LSR clears it (R61). -/
def Eng.clrLsr (g : Eng) (w : Word) : Eng := { g with lsr := g.lsr &&& ~~~(w &&& 0x7F) }

/-! Errors of engine memories. -/

/-- Engine e accesses the 64-bit word of its memories at byte address x of BAR2 (R58): a single wrong bit is corrected, sets ECC1
and is counted; `none`: more than one. -/
def State.eccRead (s : State) (e x : Nat) : Option State :=
  match tabGet s.upsets (x - x % 8) 0 with
  | 0 => some s
  | 1 => some ((s.modEng e (fun g => g.setLsr lsrEcc1)).countReg .svcEngEcc)
  | _ => none

/-- An access to a word of engine e's data memory. -/
def State.eccData (s : State) (e : Nat) (y : Bool) (a : Nat) : Option State := s.eccRead e (dataBase (s.phys e) y + a)

/-- An access to every 64-bit word of a range of engine e's data memory. -/
def State.eccRange (s : State) (e : Nat) (y : Bool) (a n : Nat) : Option State :=
  (List.range ((a % 8 + n + 7) / 8)).foldl (fun (st : Option State) i => st.bind (fun t => t.eccData e y (a - a % 8 + 8 * i))) (some s)

/-! Control stores (R261, R273). -/

/-- Where wrong bits of a class's patch RAM are kept: beyond BAR2, in which it has no place (R261). -/
def patchBase (c : EngClass) : Nat := 2 ^ 40 + 4096 * clsCode c

/-- A microword at a byte address is fetched (R273): a single wrong bit is corrected and counted; `false`: more, which is counted too. -/
def State.microEcc (s : State) (x : Nat) : State × Bool :=
  match tabGet s.upsets x 0 with
  | 0 => (s, true)
  | 1 => (s.put ucsEccCntSec (satAdd 16 (s.fld ucsEccCntSec) 1), true)
  | _ => (s.put ucsEccCntDed (satAdd 16 (s.fld ucsEccCntDed) 1), false)

/-- Microwords of patch RAM are fetched one after another, up to one beyond correction. -/
def State.patchEcc (s : State) (c : EngClass) : List Nat → State × Bool
  | [] => (s, true)
  | i :: is => match s.microEcc (patchBase c + 4 * (i % 1024)) with
    | (t, true) => t.patchEcc c is
    | (t, false) => (t, false)

/-- Engine e fetches the word at its PC and, while a patch is loaded, what its microcode reads of patch RAM (R58, R261, R273); `false`:
a word is beyond correction. -/
def State.fetchInstr (s : State) (e : Nat) : State × Bool :=
  match s.eccRead e (engBase (s.phys e) + 8 * (s.eng e).pc) with
  | none => (s, false)
  | some t => match t.patchRam with
    | none => (t, true)
    | some p => t.patchEcc (clsOf e) (Config.patchFetch p.1 p.2 (t.phys e) t.up)

end Sys2Proof.Machine
end

