-- ==== Sys2Proof/Machine/Tone.lean ====
section
/-! DEFINITION. The arithmetic of a tone: the absolute-phase rule, phase to amplitude, amplitude scale, partnering, mixing and
the output code (R107 to R120). -/
namespace Sys2Proof.Machine

/-- The phase word of a carrier at converter sample n (R107). -/
def phaseWord (ftw off n : Nat) : Nat := (ftw * (n % 2 ^ 48) + off * 2 ^ 16) % 2 ^ 48

/-- The 20-bit phase of R110, with the dither that is added before truncation when it is on. -/
def theta (p : Nat) (dith : Option (BitVec 28)) : Nat := (p + (match dith with | some d => d.toNat | none => 0)) / 2 ^ 28 % 2 ^ 20

/-- pi in units of 2^-96. -/
def pi96 : Nat := 0x3243F6A8885A308D313198A2E

/-- A power series in units of 2^-96: successive terms are multiplied by -x²/(k(k+1)). -/
def series (x : Nat) : Nat → Int → Nat → Int
  | 0, _, _ => 0
  | fuel + 1, term, k => term + series x fuel (-(term * x / 2 ^ 96 * x / 2 ^ 96) / (k * (k + 1))) (k + 2)

/-- cos and sin of an angle below a quarter turn, in units of 2^-20 turn, as 2^-96 fractions. -/
def quarter (r : Nat) : Int × Int :=
  let x := pi96 * 2 * r / 2 ^ 20
  (series x 20 (2 ^ 96) 1, series x 20 x 2)

/-- Round a 2^-96 fraction to Q1.17, limited to ±(2^17 - 1) (R110). -/
def toQ17 (v : Int) : Int := clampInt (-131071) 131071 ((v + 2 ^ 78) / 2 ^ 79)

/-- cos θ and sin θ of a 20-bit phase (R110). -/
def cosSin (th : Nat) : Int × Int :=
  let c := quarter (th % 2 ^ 18)
  match th / 2 ^ 18 % 4 with
  | 0 => (toQ17 c.1, toQ17 c.2)
  | 1 => (toQ17 (-c.2), toQ17 c.1)
  | 2 => (toQ17 (-c.1), toQ17 (-c.2))
  | _ => (toQ17 c.2, toQ17 (-c.1))

/-- One component under the amplitude scale, before and after its clamp (R111). -/
def scaleRaw (e : Int) (amp : Nat) : Int := e * amp / 2 ^ 15
def scaleEnv (e : Int) (amp : Nat) : Int := satS 16 (scaleRaw e amp)

/-- A partnering product before its clamp (R114): coefficient I in [15:0], Q in [31:16]. -/
def partnerRaw (coef : Word) (u : Int × Int) : Int × Int :=
  let cI := sext 16 (coef.bits 15 0)
  let cQ := sext 16 (coef.bits 31 16)
  ((cI * u.1 - cQ * u.2) / 2 ^ 15, (cI * u.2 + cQ * u.1) / 2 ^ 15)

/-- A contributor mixed at its carrier phase (R112). -/
def mixed (x : Int × Int) (th : Nat) : Int :=
  let c := cosSin th
  (x.1 * c.1 - x.2 * c.2) / 2 ^ 16

/-- The output code before its clamp, and the code (R113). -/
def codeRaw (sum : Int) (gain : Nat) : Int := sum * gain / 2 ^ 19
def rfCode (sum : Int) (gain : Nat) : Int := clampInt (-8192) 8191 (codeRaw sum gain)

/-- One interpolated component, Q2.16 (R116): zero for zero input, otherwise what the unpublished taps give, which cannot
overflow 18 bits. -/
def interpolate (frac phase : Nat) (w : List Int) : Int :=
  if w.all (· == 0) then 0 else satS 18 (Config.interp frac phase w)

/-- A major transition of the flux DAC (R160). -/
def majorStep (a b : Int) : Bool := (a + 131072) / 2 ^ 13 != (b + 131072) / 2 ^ 13

/-! Predistortion of a flux output (R155, R156). -/

/-- p of a segment sample, before and after its clamp. -/
def fluxScaleRaw (x : Int) (amp : Nat) : Int := x * amp / 2 ^ 15
def fluxScale (x : Int) (amp : Nat) : Int := satS 18 (fluxScaleRaw x amp)

/-- One biquad section: the unclamped output for input z, given coefficients b0 b1 b2 a1 a2 and its history. -/
def biquadRaw (b0 b1 b2 a1 a2 z : Int) (h : IirHist) : Int :=
  (b0 * z + b1 * h.z1 + b2 * h.z2 - a1 * h.w1 - a2 * h.w2) / 2 ^ 30

/-- A section's history after it has taken z and given w. -/
def biquadNext (z w : Int) (h : IirHist) : IirHist := ⟨z, h.z1, w, h.w1⟩

/-- The FIR sum over the present and earlier z[4] (R156). -/
def firSum (taps : List Int) (zs : List Int) : Int := (List.zipWith (· * ·) taps zs).foldl (· + ·) 0 / 2 ^ 18

/-- The output code before and after its clamp. -/
def fluxCodeRaw (f : Int) : Int := f / 2 ^ 8
def fluxCode (f : Int) : Int := satS 18 (fluxCodeRaw f)

/-! Ramps (R164): one step per flux sample (500 ps) at SLEW µA/µs, 0 acting as 1. One LSB is 24 mA / 131072, so the code
moves SLEW × 131072 / 48000000 in a sample. -/

/-- Flux samples that a ramp lasts. -/
def rampLen (r : Ramp) : Nat := ((r.target - r.from_).natAbs * 48000000 + max 1 r.slew * 131072 - 1) / (max 1 r.slew * 131072)

/-- The tick in which a ramp's target is reached. -/
def rampEnds (r : Ramp) : Nat := (r.start + ((rampLen r + 1) / 2 : Nat)).toNat

/-- The code `n` flux samples after the ramp's start, the target at the end. The distance moved carries 16 fractional bits, which
are dropped towards the start. -/
def rampCode (r : Ramp) (n : Nat) : Int :=
  let moved : Int := (n * (max 1 r.slew * 131072) * 2 ^ 16 / 48000000 / 2 ^ 16 : Nat)
  if rampLen r ≤ n then r.target else if r.from_ ≤ r.target then r.from_ + moved else r.from_ - moved

end Sys2Proof.Machine
end

