-- ==== Sys2Proof/Machine/Bulk.lean ====
section
/-! DEFINITION. Bulk memory as its users see it (18 R319 to R322): the groups in service, the interleave, reads and writes; and
the host's rings as the device writes them (R309 to R311, R315). -/
namespace Sys2Proof.Machine

/-- GLB_CAP (R1): the fields of the 64 GiB part, or half of them on a JV2-256C-32. -/
def State.capWord (s : State) : Word := if s.half then 0x201C0004 else s.rd .glbCap

/-- Usable bytes of one group: a quarter of GLB_CAP.USABLE_GIB. -/
def State.groupBytes (s : State) : Nat := s.capWord.bits glbCapUsableGib.hi glbCapUsableGib.lo / 4 * 2 ^ 30

/-- The group that serves a byte offset, if any group of the map does (R320). -/
def State.groupOf (s : State) (a : Nat) : Option Nat :=
  let n := s.fld memStatN
  if n = 0 ∨ n * s.groupBytes ≤ a then none
  else some (s.fld memStatMap / 4 ^ (a / 256 % (4 * n) / 4) % 4)

/-- The channel that serves a byte offset (R320). -/
def State.channelOf (s : State) (a : Nat) : Option Nat := (s.groupOf a).map (fun g => 4 * g + a / 256 % (4 * s.fld memStatN) % 4)

/-- An offset is usable: a group in service serves it (R320, R321). -/
def State.bulkServed (s : State) (a : Nat) : Bool :=
  match s.groupOf a with
  | some g => (s.fld memStatInService).testBit g
  | none => false

/-- Blocks of 256 bytes from `a` on that hold `n` bytes are all usable. -/
def State.bulkUsable (s : State) (a n : Nat) : Bool :=
  n = 0 || (List.range ((a + n - 1) / 256 - a / 256 + 1)).all (fun i => s.bulkServed (256 * (a / 256 + i)))

/-- A region of any length is usable: within the map, and no group of the map has left service. -/
def State.regionUsable (s : State) (a n : Nat) : Bool :=
  let g := s.fld memStatN
  if n ≤ 2 ^ 14 then s.bulkUsable a n
  else decide (a + n ≤ g * s.groupBytes)
    && (List.range g).all (fun i => (s.fld memStatInService).testBit (s.fld memStatMap / 4 ^ i % 4))

/-- No line of a range is poisoned (R325). -/
def State.notPoisoned (s : State) (a n : Nat) : Bool := s.poison.all (fun l => l < a / 64 || (a + n + 63) / 64 ≤ l)

/-- An access to a block that no group serves counts in HST_POISON_CNT (R302, R321). -/
def State.countLost (s : State) (a n : Nat) : State := if s.bulkUsable a n then s else s.countReg .hstPoisonCnt

/-- A device requester writes bytes: those no group serves are dropped and the access counts; a line written whole is no longer
poisoned. -/
def State.bulkWrite (s : State) (a : Nat) (bs : List Byte) : State :=
  let mem := (bs.zipIdx).foldl (fun m b => if s.bulkServed (a + b.2) then memSet m (a + b.2) b.1 else m) s.bulk
  { s.countLost a bs.length with bulk := mem, poison := s.poison.filter (fun l => 64 * l < a || a + bs.length < 64 * l + 64) }

/-- Bytes of words. -/
def wordsBytes (ws : List Word) : List Byte := ws.flatMap Word.bytes

/-- Bytes of bulk memory. -/
def State.bulkBytes (s : State) (a n : Nat) : List Byte := (List.range n).map (fun i => memByte s.bulk (a + i))

/-- Words of bulk memory. -/
def State.bulkWords (s : State) (a n : Nat) : List Word := memWords s.bulk a n

/-! The host's result rings. -/

/-- Entries of result ring n that are visible and not acknowledged. -/
def State.ringEntries (s : State) (n : Nat) : List (Nat × List Word) := tabGet s.hostRing n []

/-- A ring is full: EN is 0, or every slot holds an entry not acknowledged (R310, R311). While IDE has failed, results wait
(R318). -/
def State.ringFull (s : State) (n : Nat) : Bool :=
  !s.flag (hstRrCfgEn n) || s.ideStop || 2 ^ s.fld (hstRrCfgLog2 n) ≤ (s.ringEntries n).length

/-- An entry becomes visible on a ring: its count, its place, and its vector (R309, R315). `seq` is word 15 for its count. -/
def State.ringPush (s : State) (n : Nat) (body : List Word) (seq : Nat → Word) : State :=
  let k := (s.fld (hstRrStatProd n) + 1) % 2 ^ 28
  let e := (pad16 body).take 15 ++ [seq k]
  let s1 := { s with hostRing := tabPut s.hostRing n (s.ringEntries n ++ [(k, e)]) }
  let s2 := s1.put (hstRrStatProd n) k
  if s2.flag (hstRrCfgIrqEn n) then s2.msi (1 + n) else s2

end Sys2Proof.Machine
end

