-- ==== Sys2Proof/Machine/AcqCore.lean ====
section
/-! DEFINITION. An acquisition unit's record path (R229, R233 to R247): lines, samples, measurements, the close of a record,
missed triggers, histograms. -/
namespace Sys2Proof.Machine

/-- A unit. -/
def State.acq (s : State) (u : Nat) : Acq := tabGet s.acqs u {}

/-- Change a unit. -/
def State.modAcq (s : State) (u : Nat) (f : Acq → Acq) : State := { s with acqs := tabPut s.acqs u (f (s.acq u)) }

/-- Byte offset in BAR2 of a unit's memory (R382). -/
def acqBase (u : Nat) : Nat := 0x08000000 + u * 0x400000

/-- Set bits among the low `n` bits. -/
def popCount (n v : Nat) : Nat := ((List.range n).filter (fun i => v.testBit i)).length

/-- Ceiling division. -/
def ceilDiv (a b : Nat) : Nat := (a + b - 1) / b

/-- The raw source (R228). -/
def State.acqRaw (s : State) (u : Nat) : Bool := s.flag (acqCfgSrc u)

/-- Bytes of a sample time (R229). -/
def State.acqB (s : State) (u : Nat) : Nat := if s.acqRaw u then 2 else 4 * popCount 16 (s.fld (acqCfgChmask u))

/-- Lines of a record (R238). -/
def State.acqLines (s : State) (u pre post : Nat) : Nat := 2 + ceilDiv (s.acqB u * (pre + post)) 60

/-- Lines that the unit's memory must be able to take before it enters FILL (R237): a whole record; for a stream, whose lines
leave as they are formed, its header, pre-trigger and end lines. -/
def State.acqNeed (s : State) (u : Nat) : Nat :=
  if s.flag (acqCfgStream u) then s.acqLines u (s.rdn .acqPre u) 0
  else s.acqLines u (s.rdn .acqPre u) (s.rdn .acqPost u)

/-- The unit's memory can take one whole record. -/
def State.acqHasRoom (s : State) (u : Nat) : Bool := decide ((s.acq u).held + s.acqNeed u ≤ 65536)

/-- Wall time at another tick, as the stamp of R55: from WT just before the first change after that tick, or from the present one,
at the rate that then held (R48). -/
def State.wtStampAt (s : State) (tick : Nat) : List Word :=
  let u : Int := s.up + ((tick : Int) - s.now)
  let m := (s.wtLog.find? (fun x => decide (u < x.at_))).getD ⟨s.up, s.wtExact, s.adj⟩
  let n := (m.wt + (u - m.at_) * (2 ^ 32 + m.adj)).toNat
  ({ s with wtSec := n / 2 ^ 32 / 1000000000 % 2 ^ 48, wtNs := n / 2 ^ 32 % 1000000000, wtFrac := n % 2 ^ 32 }).wtStamp

/-- Source samples in one tick-quantum: 1/256 ticks between the instants of successive sample times (R228). -/
def State.acqStep (s : State) (u : Nat) : Nat := (if s.acqRaw u then 8 else 512) * 2 ^ s.fld (acqCfgDec u)

/-- The first sample time whose instant is at or after T (R233). -/
def State.acqFirst (s : State) (u t : Nat) : Nat := ceilDiv t (s.acqStep u)

/-- The tick in which sample time k is written (R230). -/
def State.acqWriteTick (s : State) (u k : Nat) : Nat :=
  let last := (k + 1) * 2 ^ s.fld (acqCfgDec u) - 1
  if s.acqRaw u then last / 32 + 9 else 2 * last + 28

/-! Lines. -/

/-- Lines of a unit with DEST = 00 stay in its memory; others wait there to leave (R241, R243). -/
def State.acqLeaves (s : State) (u : Nat) : Bool := s.fld (acqCfgDest u) != 0

/-- Write one line at the next place of the unit's memory. -/
def State.acqPut (s : State) (u : Nat) (ws : List Word) : State :=
  let p := (s.acq u).wpos % 65536
  let s1 := { s with sram := memSetWords s.sram (acqBase u + 64 * p) (pad16 ws) }
  s1.modAcq u (fun a => { a with wpos := a.wpos + 1, held := if s.acqLeaves u then a.held + 1 else a.held })

/-- Write a line of the open record: its words 0 to 14, then the line word. -/
def State.acqLine (s : State) (u ty : Nat) (r : AcqRec) (ws : List Word) : State × AcqRec :=
  (s.acqPut u ((pad16 ws).take 15 ++ [BitVec.ofNat 32 (ty * 2 ^ 28 + r.line % 2 ^ 28)]), { r with line := r.line + 1 })

/-- Words of a 64-bit number, low first. -/
def w64 (v : Nat) : List Word := words64 v

/-- Bits of a word from a Bool. -/
def bw (b : Bool) (i : Nat) : Nat := b2n b * 2 ^ i

/-- The sums of the measurements take one stored post-trigger sample (R245). -/
def AcqRec.measure (r : AcqRec) (thr : Int) (x : AcqCur) : AcqRec :=
  let cross := decide (thr ≤ x.i) && !r.prev.any (fun p => decide (thr ≤ p))
  { r with n := r.n + 1, sumI := r.sumI + x.i, sumQ := r.sumQ + x.q, energy := r.energy + (x.i * x.i + x.q * x.q).toNat,
           xing := if r.xing.isNone && cross then some r.n else r.xing, prev := some x.i }

/-- A sample time whose last byte is in a line that was kept or dropped. -/
def AcqRec.settleSample (r : AcqRec) (thr : Int) (dropped : Bool) (x : AcqCur) : AcqRec :=
  if dropped || x.bad then { r with dropped := r.dropped + 1 }
  else
    let r1 := { r with tagged := r.tagged + b2n x.tag }
    if x.post then r1.measure thr x else r1

/-- Mark lines go out after the data line during which their triggers came (R241). -/
def State.acqMarks (u : Nat) : List (List Word) → State → AcqRec → State × AcqRec
  | [], s, r => (s, { r with marks := [] })
  | m :: ms, s, r =>
    let q := s.acqLine u 3 r m
    State.acqMarks u ms q.1 q.2

/-- The data line in the buffer is written, or dropped when a stream's memory is full (R243). -/
def State.acqFlush (s : State) (u : Nat) (r : AcqRec) : State × AcqRec :=
  let thr := (s.rd .acqThr u).toInt
  let full := s.flag (acqCfgStream u) && decide (65536 - 64 ≤ (s.acq u).held)
  let rest := r.buf.drop 60
  let spans := !rest.isEmpty
  let ended := if spans then r.cur.dropLast else r.cur
  let bad (x : AcqCur) : AcqCur := { x with bad := x.bad || full }
  let carry := if spans then (r.cur.getLast?.toList).map bad else []
  let r1 := { ended.foldl (fun (q : AcqRec) x => q.settleSample thr full x) r with buf := rest, cur := carry }
  let q := if full then (s.raiseBit (acqStatDrop u), r1)
    else
      let bs := (r.buf.take 60) ++ List.replicate (60 - (r.buf.take 60).length) 0
      let ws := (List.range 15).map (fun i =>
        Word.ofBytes (bs.getD (4 * i) 0) (bs.getD (4 * i + 1) 0) (bs.getD (4 * i + 2) 0) (bs.getD (4 * i + 3) 0))
      s.acqLine u 2 r1 ws
  State.acqMarks u q.2.marks q.1 q.2

/-- Write out every whole data line of the buffer. -/
def State.acqDrain (u : Nat) : Nat → State → AcqRec → State × AcqRec
  | 0, s, r => (s, r)
  | fuel + 1, s, r =>
    if r.buf.length < 60 then (s, r)
    else
      let q := s.acqFlush u r
      State.acqDrain u fuel q.1 q.2

/-- The bytes of a sample time (R229). -/
def sampleBytes (raw : Bool) (vs : List (Int × Int)) : List Byte :=
  let half (x : Int) : List Byte := [BitVec.ofInt 8 x, BitVec.ofInt 8 (x / 256)]
  if raw then half ((vs.headD (0, 0)).1) else vs.flatMap (fun v => half v.1 ++ half v.2)

/-- I and Q of a sample time that the measurements use: channel MCH, or the raw code with Q = 0 (R245). -/
def State.acqMeasured (s : State) (u : Nat) (x : AcqSample) : Int × Int :=
  if s.acqRaw u then ((x.values.headD (0, 0)).1, 0)
  else x.values.getD (popCount (s.fld (acqCfgMch u)) (s.fld (acqCfgChmask u))) (0, 0)

/-- Store one sample time in the open record. -/
def State.acqStore (s : State) (u : Nat) (r : AcqRec) (x : AcqSample) (post : Bool) : State × AcqRec :=
  let m := s.acqMeasured u x
  let r1 := { r with buf := r.buf ++ sampleBytes (s.acqRaw u) x.values, cur := r.cur ++ [⟨m.1, m.2, post, x.tagged, false⟩],
                     post := r.post + b2n post }
  State.acqDrain u 3 s r1

/-- The header line goes out, with the pre-trigger samples that the unit has written since FILL (R239, R241). -/
def State.acqOpen (s : State) (u : Nat) (r : AcqRec) : State × AcqRec :=
  let want := s.rdn .acqPre u
  let endless := s.rdn .acqPost u == 0
  let pre := if endless then [] else ((s.acq u).past.filter (fun x => x.index < r.first)).take want
  let short := !endless && decide (pre.length < want)
  let step := s.acqStep u
  let w1 := u + bw (s.acqRaw u) 4 + s.fld (acqCfgDec u) * 2 ^ 8 + s.fld (acqCfgChmask u) * 2 ^ 16
  let hdr := [BitVec.ofNat 32 r.num, BitVec.ofNat 32 w1, BitVec.ofNat 32 pre.length] ++ w64 (r.t / 256)
    ++ [BitVec.ofNat 32 (r.t % 256 + (r.first * step - r.t) % 512 * 2 ^ 16)] ++ w64 r.first ++ r.wt
    ++ [BitVec.ofNat 32 (s.fld (acqTrigTsrc u) + s.fld (acqTrigTsel u) * 2 ^ 4)]
  let q := s.acqLine u 1 { r with opened := true, pre := pre.length, short := short } hdr
  let s1 := if short then q.1.raiseBit (acqStatShortPre u) else q.1
  let came := ((s.acq u).past.filter (fun x => r.first ≤ x.index)).reverse
  let late := if endless then came else came.take (s.rdn .acqPost u)
  let w := pre.reverse.foldl (fun (a : State × AcqRec) x => a.1.acqStore u a.2 x false) (s1, q.2)
  late.foldl (fun (a : State × AcqRec) x => a.1.acqStore u a.2 x true) w

/-! Measurements (R245). -/

/-- Integer square root, by bits. -/
def isqrt (n : Nat) : Nat → Nat → Nat
  | 0, r => r
  | b + 1, r => if (r + 2 ^ b) * (r + 2 ^ b) ≤ n then isqrt n b (r + 2 ^ b) else isqrt n b r

/-- Steps of 2^-16 turn in an angle of the first quadrant, rounded to nearest: the count of odd half-steps at or below it. -/
def angleSteps (x y : Int) : Nat → Nat → Nat
  | 0, b => b
  | k + 1, b =>
    let c := quarter (8 * (2 * (b + 2 ^ k) - 1))
    if b + 2 ^ k ≤ 2 ^ 14 ∧ 0 ≤ c.1 * y - c.2 * x then angleSteps x y k (b + 2 ^ k) else angleSteps x y k b

/-- PHASE: round(atan2(q, i) / 2π × 2^16) mod 2^16, 0 when both are 0. -/
def phaseOf (i q : Int) : Nat :=
  if i = 0 ∧ q = 0 then 0
  else if 0 < i ∧ 0 ≤ q then angleSteps i q 15 0 % 2 ^ 16
  else if i ≤ 0 ∧ 0 < q then (2 ^ 14 + angleSteps q (-i) 15 0) % 2 ^ 16
  else if i < 0 then (2 ^ 15 + angleSteps (-i) (-q) 15 0) % 2 ^ 16
  else (3 * 2 ^ 14 + angleSteps (-q) i 15 0) % 2 ^ 16

/-- Words 4 to 10 of the end line. -/
def AcqRec.measured (r : AcqRec) : List Word :=
  let mi := r.sumI * 2 ^ 16 / r.n
  let mq := r.sumQ * 2 ^ 16 / r.n
  [BitVec.ofInt 32 mi, BitVec.ofInt 32 mq, BitVec.ofNat 32 (isqrt (mi * mi + mq * mq).toNat 33 0),
   BitVec.ofNat 32 (phaseOf mi mq)] ++ w64 r.energy ++ [BitVec.ofNat 32 (r.xing.getD 0xFFFFFFFF)]

/-- Why a record closes before its last sample (R236). -/
inductive CloseBy where
  | full | disarmed | safe | settle
  deriving DecidableEq, Repr

/-- Close the open record (R236, R237, R244): the rest of its data, the end line, the status bits and event 913 + u. The state
that follows is the caller's. -/
def State.acqClose (s : State) (u : Nat) (why : CloseBy) : State :=
  match (s.acq u).rcd with
  | none => s
  | some r0 =>
    let a := if r0.opened then (s, r0) else s.acqOpen u r0
    let b := if a.2.buf.isEmpty then State.acqMarks u a.2.marks a.1 a.2 else a.1.acqFlush u a.2
    let r := b.2
    let st := b.1
    let tagged := r.tagged != 0
    let invalid := st.flag glbStreamStatShotInval || why == .safe || why == .settle || r.dropped != 0
      || (tagged && st.flag (acqCfgTagInv u))
    let meas := st.flag (acqCfgMeas u) && r.n != 0
    let flags := bw invalid 0 + bw r.short 1 + bw (r.dropped != 0) 2 + bw tagged 3 + bw (why == .disarmed) 4
      + bw (why == .safe) 5 + bw (why == .settle) 6 + bw meas 7
    let ws := [BitVec.ofNat 32 r.num, BitVec.ofNat 32 r.post, BitVec.ofNat 32 r.dropped, BitVec.ofNat 32 flags]
      ++ (if meas then r.measured else List.replicate 7 0) ++ [BitVec.ofNat 32 r.tagged] ++ w64 st.now
    let q := st.acqLine u 4 r ws
    let s1 := (q.1.modAcq u (fun x => { x with rcd := none, closeAt := st.now, done := x.held })).countReg .acqRecCnt u
    (if invalid then s1.raiseBit (acqStatInvalid u) else s1).sysCue (913 + u)

/-- A missed trigger (R240): cue 929, and the FIFO entry or the overflow. -/
def State.acqMissed (s : State) (u t cause : Nat) : State :=
  let s1 := (s.countReg .acqMissCnt u).sysCue 929
  if (s.acq u).miss.length < 64 then s1.modAcq u (fun a => { a with miss := a.miss ++ [(t / 256, cause)] })
  else s1.raiseBit (acqStatMissOvf u)

/-- After REARM, or when room returns: FILL if the memory can take a whole record, NOSPACE otherwise (R237). -/
def State.acqRefill (s : State) (u : Nat) : State :=
  let room := s.acqHasRoom u
  s.modAcq u (fun a => { a with state := if room then .fill else .noSpace, fillAt := s.now, past := [] })

/-- A record has closed with its last sample: IDLE after NREC records, REARM otherwise (R236, R237). -/
def State.acqAfter (s : State) (u : Nat) : State :=
  let idle := s.fld (acqNrecNrec u) != 0 && decide (s.fld (acqNrecNrec u) ≤ s.rdn .acqRecCnt u)
  s.modAcq u (fun a => { a with state := if idle then .idle else .rearm, past := [] })

/-- A change of the trim closes open records with SETTLE (R236). -/
def State.acqSettle (s : State) (u : Nat) : State :=
  match (s.acq u).rcd with
  | some _ => (s.acqClose u .settle).acqAfter u
  | none => s

/-- The clocks have settled: a unit that is armed for records fills again (R236). -/
def State.acqSettled (s : State) (u : Nat) : State :=
  match (s.acq u).state with
  | .fill | .rearm | .noSpace => s.acqRefill u
  | _ => s

/-- ACQ_DISARM of a unit, and the device's entry to STANDBY or SERVICE (R236). -/
def State.acqDisarm (s : State) (u : Nat) : State :=
  (s.acqClose u .disarmed).modAcq u (fun a => { a with state := .idle, armAt := none, past := [], trigs := [] })

/-- SAFE at t0 (R236): an open record closes with SAFE and INVALID; an armed unit is HELD. -/
def State.acqSafe (s : State) (u : Nat) : State :=
  if (s.acq u).state = .idle then s.modAcq u (fun a => { a with armAt := none })
  else (s.acqClose u .safe).modAcq u (fun a => { a with state := .held, past := [] })

/-- A HIST point of channel c (R246): no effect unless the unit is in HIST. -/
def State.histAdd (s : State) (u c : Nat) (a b : Word) : State :=
  if (s.acq u).state ≠ .hist then s
  else
    let sh := s.fld (acqHistCfgHsh u)
    let ix := (a.toInt - (s.rd .acqHcI u c).toInt) / 2 ^ sh + 128
    let iy := (b.toInt - (s.rd .acqHcQ u c).toInt) / 2 ^ sh + 128
    let cx := clampInt 0 255 ix
    let cy := clampInt 0 255 iy
    let s1 := if cx ≠ ix ∨ cy ≠ iy then s.countReg .acqHistEdgeCnt u else s
    let addr := acqBase u + c * 0x40000 + 4 * (cy.toNat * 256 + cx.toNat)
    let v := memWord s.sram addr
    if v = 0xFFFFFFFF then s1.raiseBit (acqStatHsat u) else { s1 with sram := memSetWord s1.sram addr (v + 1) }

end Sys2Proof.Machine
end

