-- ==== Sys2Proof/Machine/LinkCore.lean ====
section
/-! DEFINITION. Pyarn links: checks of frames (R283), the torus (R274, R275), queues (R283), routing (R290), errors and loss
of a link (R279, R294), and the notices a device sends (R289). -/
namespace Sys2Proof.Machine

/-! CRCs (R283), over bits from the highest down. -/

/-- The bits of an n-bit number, highest first. -/
def bitsDown (v : Nat) : Nat → List Bool
  | 0 => []
  | n + 1 => v.testBit n :: bitsDown v n

/-- CRC-16: polynomial 0x1021, initial value 0xFFFF. -/
def crc16 (bs : List Bool) : Nat :=
  (bs.foldl (fun (c : BitVec 16) b => if xor c.msb b then (c <<< 1) ^^^ 0x1021 else c <<< 1) 0xFFFF).toNat

/-- One bit into a reflected CRC-32C register. -/
def crc32cBit (c : BitVec 32) (b : Bool) : BitVec 32 := if xor (c.getLsbD 0) b then (c >>> 1) ^^^ 0x82F63B78 else c >>> 1

/-- CRC-32C: reflected polynomial, initial value and final XOR 0xFFFFFFFF. -/
def crc32c (bs : List Bool) : Nat := ((bs.foldl crc32cBit 0xFFFFFFFF) ^^^ 0xFFFFFFFF).toNat

/-- A bit field of a flit. -/
def flit (w : BitVec 128) (hi lo : Nat) : Nat := w.toNat / 2 ^ lo % 2 ^ (hi + 1 - lo)

/-- CRC-32C of a frame (R286). -/
def frameCrc (h : BitVec 128) (p : List (BitVec 128)) : Nat :=
  crc32c (bitsDown (h.toNat / 2 ^ 32) 96 ++ p.flatMap (fun f => bitsDown f.toNat 128))

/-- A header flit (R286) with its CRC. -/
def mkHeader (cls src dst hops ty : Nat) (spec : Nat) (p : List (BitVec 128)) : BitVec 128 :=
  let h := BitVec.ofNat 128 (cls * 2 ^ 124 + src * 2 ^ 115 + dst * 2 ^ 106 + hops * 2 ^ 101 + ty * 2 ^ 96 + p.length * 2 ^ 88
    + spec * 2 ^ 32)
  h ||| BitVec.ofNat 128 (frameCrc h p)

/-! Links. -/

/-- Link state codes (LNK_STAT). -/
def lsDown : Nat := 0
def lsTrain : Nat := 1
def lsCaps : Nat := 2
def lsAuth : Nat := 3
def lsUp : Nat := 4
def lsIsolated : Nat := 5
def lsKeepalive : Nat := 6
def lsDisabled : Nat := 7

/-- A link's queues and counts. -/
def State.link (s : State) (l : Nat) : Link := tabGet s.links l {}

/-- Change a link. -/
def State.modLink (s : State) (l : Nat) (f : Link → Link) : State := { s with links := tabPut s.links l (f (s.link l)) }

/-- A link's state. -/
def State.linkState (s : State) (l : Nat) : Nat := s.fld (lnkStatState l)

/-- The device's own ID. -/
def State.ownId (s : State) : Nat := s.fld lnkIdId

/-- Ring size of a dimension (R275). -/
def LinkCfg.size (c : LinkCfg) (d : Nat) : Nat := match d with | 0 => c.nx | 1 => c.ny | _ => c.nz

/-- A coordinate of a device (R274). -/
def coord (id d : Nat) : Nat := id / 8 ^ d % 8

/-- An ID with one coordinate replaced. -/
def withCoord (id d v : Nat) : Nat := id - coord id d * 8 ^ d + v * 8 ^ d

/-- The neighbour on link l (R275). -/
def State.neighbour (s : State) (l : Nat) : Nat :=
  let n := s.linkCfg.size (l / 2)
  let c := coord s.ownId (l / 2)
  withCoord s.ownId (l / 2) (if l % 2 = 0 then (c + 1) % n else (c + n - 1) % n)

/-- A device lies within the ring sizes. -/
def State.inArray (s : State) (id : Nat) : Bool := (List.range 3).all (fun d => coord id d < s.linkCfg.size d)

/-- A link's neighbour has announced SERVICE or DORMANT; after its REJOIN it is available from the next tick (R289). -/
def State.nbrUnavail (s : State) (l : Nat) : Bool := (s.fld svcNbrUnavailLink).testBit l || (s.link l).back == some s.up

/-- A link is available for routing (R290). -/
def State.linkAvail (s : State) (l : Nat) : Bool := s.linkState l == lsUp && !s.nbrUnavail l

/-- Routing (R290): the link a frame for `dst` that arrived on `inl` leaves by. -/
def State.route (s : State) (dst : Nat) (inl : Option Nat) : Option Nat :=
  let here := s.ownId
  let pref (d : Nat) : Nat :=
    let n := s.linkCfg.size d
    let k := (coord dst d + n - coord here d) % n
    if k ≤ n - k then 2 * d else 2 * d + 1
  let differs (d : Nat) : Bool := coord here d != coord dst d
  let opp (l : Nat) : Nat := if l % 2 = 0 then l + 1 else l - 1
  match [0, 1, 2].find? (fun d => differs d && s.linkAvail (pref d)) with
  | some d => some (pref d)
  | none =>
    match [0, 1, 2, 3, 4, 5].find? (fun l => !differs (l / 2) && decide (1 < s.linkCfg.size (l / 2)) && s.linkAvail l && !inl.any (· == l)) with
    | some l => some l
    | none =>
      match [0, 1, 2].find? (fun d => differs d && s.linkAvail (opp (pref d)) && !inl.any (· == opp (pref d))) with
      | some d => some (opp (pref d))
      | none => none

/-- Flits of a frame. -/
def OutFrame.size : OutFrame → Nat
  | .msg _ => 1
  | .flits _ _ p => 1 + p.length
  | .time _ p _ => 1 + p.length

/-- The class of a queued frame. -/
def OutFrame.cls : OutFrame → Nat
  | .msg _ => 0
  | .flits c _ _ => c
  | .time .. => 4

/-- Queue a frame of a class other than DECISION on link l: 1,024 flits of each class (R283). -/
def State.enqueue (s : State) (l : Nat) (f : OutFrame) : State :=
  let used := (((s.link l).out.filter (fun x => x.cls == f.cls)).map OutFrame.size).foldl (· + ·) 0
  if 1024 < used + f.size then s.countReg .lnkCntDrop l else s.modLink l (fun k => { k with out := k.out ++ [f] })

/-- A DECISION frame as link l carries it: a link at version 1 carries no verdict (R298). -/
def State.onLink (s : State) (l : Nat) (w : BitVec 128) : BitVec 128 :=
  if s.fld (lnkStatVer l) = 1 ∧ w.getLsbD 94 then
    let h := (w.toNat - 2 ^ 94) / 2 ^ 16 * 2 ^ 16
    BitVec.ofNat 128 (h + crc16 (bitsDown (h / 2 ^ 16) 112))
  else w

/-- A DECISION frame sets out for link l's queue, which it reaches `n` ticks later (R291). -/
def State.enqueueDec (s : State) (l n : Nat) (w : BitVec 128) : State :=
  s.modLink l (fun k => { k with pipe := k.pipe ++ [(s.up + n, s.onLink l w)] })

/-- A DECISION frame enters the queue, which holds 64 (R283). -/
def State.pushDec (l : Nat) (s : State) (w : BitVec 128) : State :=
  if 64 ≤ (s.link l).dec.length then s.countReg .lnkCntDrop l else s.modLink l (fun k => { k with dec := k.dec ++ [w] })

/-- The DECISION frames that have reached link l's queue by now enter it (R291). -/
def State.fillDec (s : State) (l : Nat) : State :=
  let x := (s.link l).pipe.partition (fun e => decide (e.1 ≤ s.up))
  if x.1.isEmpty then s else (x.1.map (·.2)).foldl (State.pushDec l) (s.modLink l (fun k => { k with pipe := x.2 }))

/-- A destination is a neighbour that has announced SERVICE or DORMANT, whatever its link does now (R290, R368). -/
def State.unavailTo (s : State) (dst : Nat) : Bool := (List.range 6).any (fun l => s.neighbour l == dst && s.nbrUnavail l)

/-- A frame goes by a link: a link at version 1 does not carry SYNDROME (R298). -/
def State.goesBy (s : State) (l : Nat) (f : OutFrame) : State :=
  if f.cls = 2 ∧ s.fld (lnkStatVer l) = 1 then s else s.enqueue l f

/-- Send a frame of a routed class: the destination may be a neighbour that is unavailable, which only MGMT reaches (R290). -/
def State.sendFrame (s : State) (dst : Nat) (inl : Option Nat) (f : OutFrame) : State :=
  if f.cls = 5 then
    match (List.range 6).find? (fun l => s.neighbour l == dst && s.linkState l == lsUp) with
    | some l => s.enqueue l f
    | none => match s.route dst inl with
      | some l => s.enqueue l f
      | none => s.countReg .lnkNoroute
  else if s.unavailTo dst then s.countReg .lnkNoroute
  else match s.route dst inl with
  | some l => s.goesBy l f
  | none => s.countReg .lnkNoroute

/-- A MGMT notice to a device. -/
def State.mgmtFrameTo (s : State) (dst ty : Nat) : OutFrame := .flits 5 (mkHeader 5 s.ownId dst 0 ty 0 []) []

/-- A MGMT notice to every neighbour whose link is UP (R289). -/
def State.notifyNeighbours (s : State) (ty : Nat) : State :=
  (List.range 6).foldl (fun st l => if st.linkState l = lsUp then st.enqueue l (st.mgmtFrameTo (st.neighbour l) ty) else st) s

/-- Face partners named with EN = 1. -/
def State.facePartners (s : State) : List Nat := ((List.range 6).filter (fun f => s.flag (qryFaceEn f))).map (fun f => s.fld (qryFacePartner f))

/-- SAFE is announced (R31, R289): own DECISION and SYNDROME frames that wait to leave stop. -/
def State.announceSafe (s : State) : State :=
  let own (h : BitVec 128) : Bool := flit h 123 115 == s.ownId
  let s1 := (List.range 6).foldl (fun st l => if (tabFind st.links l).isNone then st else st.modLink l (fun k => { k with
    pipe := k.pipe.filter (fun e => !own e.2)
    dec := k.dec.filter (fun w => !own w)
    out := k.out.filter (fun x => match x with | .flits 2 h _ => !own h | _ => true) })) s
  let s2 := s1.notifyNeighbours 1
  let nbrs := ((List.range 6).filter (fun l => s.linkState l == lsUp)).map s.neighbour
  (s.facePartners.filter (fun p => !nbrs.contains p)).foldl (fun st p => st.sendFrame p none (st.mgmtFrameTo p 1)) s2

/-- Faces whose partner is reached over a link that is lost, or that announces SAFE, are LOST (R218). -/
def State.faceLost (s : State) (partner : Nat) : State :=
  (List.range 6).foldl (fun st f =>
    if st.flag (qryFaceEn f) && st.fld (qryFacePartner f) == partner then st.raiseBit (qryFaceLost f) else st) s

/-- A link changes state: VER is 0 before CAPS, and ISO_CAUSE stands while ISOLATED. -/
def State.setLink (s : State) (l st : Nat) : State :=
  let s1 := if st = lsDown ∨ st = lsTrain ∨ st = lsDisabled then s.put (lnkStatVer l) 0 else s
  let s2 := if st = lsIsolated then s1 else s1.put (lnkStatIsoCause l) 0
  (s2.put (lnkStatState l) st).modLink l (fun k => { k with since := s.up })

/-- A link begins training (R279). -/
def State.trainLink (s : State) (l : Nat) : State := (s.setLink l lsTrain).modLink l (fun k => { k with retry := false })

/-- Frames in a link's queues and replay buffer do not survive its loss. -/
def Link.clear (k : Link) : Link :=
  { k with pipe := [], dec := [], out := [], sent := [], nonce := none, training := false, retry := false }

/-- A link that was UP is lost: DOWN, cue 932, faces over it LOST (R218, R279). -/
def State.linkLost (s : State) (l : Nat) : State :=
  let s1 := ((s.setLink l lsDown).modLink l Link.clear).sysCue 932
  (s1.logEntry 0x06 1 l (s1.rd .lnkStat l)).faceLost (s.neighbour l)

/-- A link goes ISOLATED with a cause (R279, R280, R294). -/
def State.isolate (s : State) (l cause : Nat) : State :=
  let up := s.linkState l == lsUp
  let s1 := ((s.setLink l lsIsolated).put (lnkStatIsoCause l) cause).modLink l Link.clear
  let s2 := s1.logEntry 0x06 1 l (s1.rd .lnkStat l)
  if up then (s2.sysCue 932).faceLost (s.neighbour l) else s2

/-- ISO_THR in force (R9, R294). -/
def State.isoThr (s : State) (l : Nat) : Nat := s.xfld lnkCfgXen (lnkCtrlIsoThr l) 16

/-- One error on a link (R294). -/
def State.linkError (s : State) (l : Nat) : State :=
  let n := (s.link l).errs + 1
  let s1 := s.modLink l (fun k => { k with errs := n })
  if s.isoThr l ≠ 0 ∧ s.isoThr l ≤ n ∧ s.linkState l = lsUp then s1.isolate l 5 else s1

end Sys2Proof.Machine
end

