-- ==== Sys2Proof/Machine/Play.lean ====
section
/-! DEFINITION. Playing on slots and flux outputs (R92, R135 to R151): instances, the library reader and its stream rings, the
samples of each tick, and what a tick does on every output (R111 to R117, R155, R156, R405). -/
namespace Sys2Proof.Machine

/-- The number of a slot. -/
def slotKey (o k : Nat) : Nat := o * 16 + k

/-- The number of a ring. -/
def ringKey (o r : Nat) : Nat := o * 4 + r

/-- A register as it stood at T_s. -/
def State.heldReg (s : State) (k : RegK) (i j : Nat) : Word := (regFind s.held ⟨k, i, j⟩).getD (BitVec.ofNat 32 (Reg.reset ⟨k, i, j⟩))

/-- A slot as the slot registers give it, from a converter sample on (R106). -/
def slotOfRegs (lo hi ph amp : Word) (n : Nat) : Slot :=
  { ftws := [(n, lo.toNat + 2 ^ 32 * hi.bits 15 0)], offs := [(n, true, ph.toNat)], amps := [(0, amp.bits 15 0)],
    tset := amp.bits 18 16 }

/-- A slot at T_s (R106), from the slot registers as they stood then. -/
def State.slotStart (s : State) (o k : Nat) : Slot :=
  slotOfRegs (s.heldReg .rfoSlotFtwLo o k) (s.heldReg .rfoSlotFtwHi o k) (s.heldReg .rfoSlotPh o k) (s.heldReg .rfoSlotAmp o k)
    (s.ts * 32)

/-- A slot. -/
def State.slot (s : State) (o k : Nat) : Slot := tabGet s.slots (slotKey o k) (s.slotStart o k)

/-- Replace a slot. -/
def State.setSlot (s : State) (o k : Nat) (x : Slot) : State := { s with slots := tabPut s.slots (slotKey o k) x }

/-- Change a slot. -/
def State.modSlot (s : State) (o k : Nat) (f : Slot → Slot) : State := s.setSlot o k (f (s.slot o k))

/-- A flux output. -/
def State.flx (s : State) (i : Nat) : Flux := tabGet s.flux i {}

/-- Replace a flux output. -/
def State.setFlx (s : State) (i : Nat) (x : Flux) : State := { s with flux := tabPut s.flux i x }

/-- A ring. -/
def State.ring (s : State) (o r : Nat) : Ring := tabGet s.rings (ringKey o r) {}

/-- Replace a ring. -/
def State.setRing (s : State) (o r : Nat) (x : Ring) : State := { s with rings := tabPut s.rings (ringKey o r) x }

/-! Segment status of an owner (RF output o, or 80 + flux output). -/
def noseg (o : Nat) : Fld := if o < 80 then rfoSegStatNoseg o else flxSegStatNoseg (o - 80)
def jcut (o : Nat) : Fld := if o < 80 then rfoSegStatJcut o else flxSegStatJcut (o - 80)
def descBad (o : Nat) : Fld := if o < 80 then rfoSegStatDescBad o else flxSegStatDescBad (o - 80)
def wdrop (o : Nat) : Fld := if o < 80 then rfoSegStatWdrop o else flxSegStatWdrop (o - 80)

/-- A dropped write: WDROP and the drop counter (R136). -/
def State.dropWrite (s : State) (o : Nat) : State :=
  let s1 := s.raiseBit (wdrop o)
  if o < 80 then s1.countReg .rfoSegWdropCnt o else s1.countReg .flxSegWdropCnt (o - 80)

/-! What governs from a position on: lists of (position, value), the last position first. -/

/-- Enter a value at its position, before the entries of the same position: of these the later in program order governs (R65). -/
def logPut {α : Type} (pos : Nat) (v : α) : List (Nat × α) → List (Nat × α)
  | [] => [(pos, v)]
  | e :: es => if pos < e.1 then e :: logPut pos v es else (pos, v) :: e :: es

/-- The value in force at a position. -/
def logAt {α : Type} (d : α) (pos : Nat) (l : List (Nat × α)) : α :=
  match l.find? (fun e => e.1 ≤ pos) with
  | some e => e.2
  | none => d

/-- A log up to the first entry at or before `low`: older ones govern nothing any more. -/
def pruneLog {α : Type} (low : Nat) : List (Nat × α) → List (Nat × α)
  | [] => []
  | e :: es => if e.1 ≤ low then [e] else e :: pruneLog low es

/-- The offset that entries (replaces?, value), the last first, make: SETPH replaces it, SHPH adds to it (R109). -/
def offSum : List (Bool × Nat) → Nat
  | [] => 0
  | (true, v) :: _ => v
  | (false, v) :: es => (v + offSum es) % 2 ^ 32

/-- FTW in force at converter sample n (R108). -/
def Slot.ftwAt (x : Slot) (n : Nat) : Nat := logAt 0 n x.ftws

/-- OFF in force at converter sample n (R109). -/
def Slot.offAt (x : Slot) (n : Nat) : Nat := offSum ((x.offs.filter (fun e => decide (e.1 ≤ n))).map (·.2))

/-- AMP in force at a position in 1/16 converter sample (R111). -/
def Slot.ampAt (x : Slot) (pos : Nat) : Nat := logAt 0 pos x.amps

/-- Converter samples for which a slot's carrier is kept: those a demodulation channel still asks for (R174). -/
def carrierKeep : Nat := 32 * 4352

/-- A frequency from converter sample n on (R108). -/
def Slot.putFtw (x : Slot) (n v : Nat) : Slot := { x with ftws := logPut n v (pruneLog (n - carrierKeep) x.ftws) }

/-- A change of the offset from converter sample n on (R109): the entries that no channel asks for become one. -/
def Slot.putOff (x : Slot) (n : Nat) (sets : Bool) (v : Nat) : Slot :=
  let low := n - carrierKeep
  { x with offs := logPut n (sets, v) (x.offs.filter (fun e => decide (low < e.1)) ++ [(low, true, x.offAt low)]) }

/-- AMP from converter sample n on (R111). -/
def Slot.putAmp (x : Slot) (n v : Nat) : Slot := { x with amps := logPut (16 * n) v (pruneLog (16 * (n - 4096)) x.amps) }

/-- A MARK override of a line from converter sample n on (R94). -/
def Slot.putMark (x : Slot) (line n : Nat) (v : MarkOv) : Slot :=
  if line = 0 then { x with mark0 := logPut (16 * n) v (pruneLog (16 * (n - 4096)) x.mark0) }
  else { x with mark1 := logPut (16 * n) v (pruneLog (16 * (n - 4096)) x.mark1) }

/-- A PART of a term from source envelope sample m on (R114); what no sample in flight was formed under is dropped. -/
def Slot.putPart (x : Slot) (n m : Nat) (src : Option (Nat × Word)) : Slot :=
  let old := x.parts.filter (fun e => e.n == n)
  let keep := old.takeWhile (fun e => decide (m < e.from_ + 256)) ++ (old.dropWhile (fun e => decide (m < e.from_ + 256))).take 1
  { x with parts := ⟨n, m, src⟩ :: keep ++ x.parts.filter (fun e => e.n != n) }

/-- The source and coefficient of term n for source envelope sample m. -/
def Slot.partAt (x : Slot) (n m : Nat) : Option (Nat × Word) :=
  match x.parts.find? (fun e => e.n == n && decide (e.from_ ≤ m)) with
  | some e => e.src
  | none => none

/-! What plays. -/

/-- What begins to play when an effect lands: the segment and its duration, or nothing (a chosen branch with VALID = 0). -/
def State.beginSeg (s : State) (o seg tc d reps : Nat) (fork : Option (Nat × Nat)) : Option Play :=
  if d = 0 then none else some { seg := seg, w0 := s.desc0 o seg, b := tc, dur := d, reps := reps - 1, fork := fork }

/-! Forks. -/

/-- The branch of a fork at its deadline: whether b, and whether FORK_LATE is set (R93, R142, R143). -/
def forkChoice (v : Option Verdict) (dfltB : Bool) (mask : BitVec 4) (conf : Bool) (seq : Nat) : Bool × Bool :=
  match v with
  | some x => if x.valid ∧ x.seq % 256 = seq ∧ (conf = false ∨ x.conf) then (mask.getLsbD (x.state % 4), false) else (dfltB, true)
  | none => (dfltB, true)

/-- The deadline of a fork (R142). -/
def forkDeadline (e tc : Nat) : Nat := if e < 512 then tc - 28 else tc - 36

/-- Select a fork's branch: the queue entry with its choice, and FORK_LATE. -/
def State.selectFork (s : State) (e : Nat) (q : QEff) : QEff × Bool :=
  match q.eff with
  | .playf a b da db v dfltB mask conf seq none =>
    let c := forkChoice (s.verdictAt v (forkDeadline e q.tc)) dfltB mask conf seq
    ({ q with eff := .playf a b da db v dfltB mask conf seq (some (if c.1 then b else a)) }, c.2)
  | _ => (q, false)

/-! The library reader (R122 stage 3, R141): in tick t it reads the granule that lands at t + 28, so it follows each slot's
playback 28 ticks ahead of the land. Stream instances take their granules here (R147, R148, R151). -/

/-- The playing effect of a TE's queue that lands at a tick: the last in program order governs (R92). -/
def playAt (q : List QEff) (t : Nat) : Option QEff :=
  (q.filter (fun x => x.tc == t && (match x.eff with | .play .. | .playf .. | .hold _ => true | _ => false))).getLast?

/-- What an effect will play, as the reader sees it. -/
def State.frontPlay (s : State) (o k : Nat) (q : QEff) : Option Play :=
  match (s.selectFork (teOf o k) q).1.eff with
  | .play seg reps d => s.beginSeg o seg q.tc d reps none
  | .playf a _ da db _ _ _ _ _ c => s.beginSeg o (c.getD a) q.tc (if c.getD a = a then da else db) 1 none
  | _ => none

/-- The reader follows a slot to land tick t: at an instance's end the target of a jump whose land tick is before the commit
point, or the next repetition (R140, R141). -/
def State.rollFront (s : State) (o t : Nat) (x : Slot) : Slot :=
  match x.front with
  | none => x
  | some p =>
    let e := p.b + p.dur
    if t < e then x
    else if dJen p.w0 && x.jump.any (fun r => decide (r < e - 8) && x.used != some r) then
      { x with used := x.jump, front := s.beginSeg o (dJt p.w0) e (s.dur o (dJt p.w0)) 1 none }
    else if 0 < p.reps then { x with front := some { p with b := e, reps := p.reps - 1 } }
    else { x with front := none }

/-- The stream instance of a slot that begins at a tick. -/
def Slot.readOf (x : Slot) (b : Nat) : Option StreamUse := x.reads.find? (fun u => u.b == b)

/-- Granules that an instance has not read are freed without being read, and refill passes over them (R147). -/
def State.dropRead (s : State) (o : Nat) (u : StreamUse) : State :=
  if u.conflict then s
  else
    let g := s.ring o u.ring
    s.setRing o u.ring { g with present := g.present.filter (u.first + u.count ≤ ·), next := max g.next (u.first + u.count) }

/-- The reader comes to land tick t on a slot: an effect that lands there cuts what it follows. -/
def State.frontTo (t : Nat) (s : State) (key : Nat) : State :=
  let o := key / 16
  let k := key % 16
  let x := s.slot o k
  match playAt (s.eng (teOf o k)).queue t with
  | some q =>
    let s1 := match x.front with
      | some p => if t < p.b + p.dur then (match x.readOf p.b with | some u => s.dropRead o u | none => s) else s
      | none => s
    s1.setSlot o k { x with front := s.frontPlay o k q }
  | none => if x.front.isSome then s.setSlot o k (s.rollFront o t x) else s

/-- The ring of a stream instance. -/
def Play.ringOf (p : Play) : Option Nat := if dStream p.w0 && p.hold.isNone then some (dRing p.w0) else none

/-- Another slot's instance holds ring r of output o at land tick t, where slot k begins one (R148). -/
def State.ringHeld (s : State) (o r k t : Nat) : Bool :=
  (List.range (nSlots o)).any (fun j => j != k && (match (s.slot o j).front with
    | some p => p.ringOf == some r && (decide (p.b < t) || decide (j < k)) && ((s.slot o j).readOf p.b).any (fun u => !u.conflict)
    | none => false))

/-- A stream instance that begins at land tick t takes the next granules of its ring, or is refused it (R147, R148). -/
def State.beginRead (t : Nat) (s : State) (key : Nat) : State :=
  let o := key / 16
  let k := key % 16
  let x := s.slot o k
  match x.front with
  | none => s
  | some p =>
    match p.ringOf with
    | some r =>
      if p.b ≠ t then s
      else
        let g := s.ring o r
        let n := p.dur / 8
        let old := x.reads.filter (fun u => decide (t < u.b + 8 * u.count + 64))
        if s.ringHeld o r k t then
          (s.raiseBit (rfoRingStatConflict o r)).setSlot o k { x with reads := ⟨t, r, g.pos, n, [], 0, none, true⟩ :: old }
        else (s.setRing o r { g with pos := g.pos + n }).setSlot o k { x with reads := ⟨t, r, g.pos, n, [], 0, none, false⟩ :: old }
    | none => s

/-- An underrun at granule j of an instance, detected in tick t (R151, R152, R192). -/
def State.underrun (s : State) (o k : Nat) (u : StreamUse) (j t : Nat) : State :=
  let s1 := (s.dropRead o u).modEng (teOf o k) (fun e => e.setLsr lsrUnderrun)
  let s2 := (s1.raiseBit (rfoRingStatUnder o u.ring)).countReg .rfoRingUcnt o u.ring (u.count - j)
  ((s2.countReg .glbStreamUcnt).raiseBit glbStreamStatShotInval).raiseAt 906 (t + 4)

/-- Replace a stream instance. -/
def Slot.setRead (x : Slot) (u : StreamUse) : Slot := { x with reads := x.reads.map (fun v => if v.b = u.b then u else v) }

/-- In tick t the reader reads the granule that a slot plays from land tick t + 28 on, where one begins there. -/
def State.readGranule (t : Nat) (s : State) (key : Nat) : State :=
  let o := key / 16
  let k := key % 16
  let x := s.slot o k
  match x.front.bind (fun p => x.readOf p.b) with
  | none => s
  | some u =>
    if u.conflict || u.under.isSome || decide (u.count ≤ u.read) || t + 28 != u.b + 8 * u.read then s
    else
      let g := s.ring o u.ring
      let gr := u.first + u.read
      if g.present.contains gr then
        let a := libAddr o + 64 * (s.fld (rfoRingCfgRbase o u.ring) + gr % max 1 (s.fld (rfoRingCfgRlen o u.ring)))
        (s.setRing o u.ring { g with present := g.present.filter (· != gr) }).setSlot o k
          (x.setRead { u with read := u.read + 1, buf := u.buf ++ memWords s.sram a 16 })
      else (s.underrun o k u u.read t).modSlot o k (fun y => y.setRead { u with under := some u.read })

/-- Slots that the reader looks at: those that have done anything since T_s, and those whose TE has effects queued. -/
def State.readSlots (s : State) : List Nat :=
  ascending (s.slots.map (·.1) ++ s.engs.filterMap (fun e =>
    let n := s.logical e.1
    if n < 512 && !e.2.queue.isEmpty then some (slotKey (rfOf n) (slotOf n)) else none))

/-- The reader has nothing to follow: no slot is read ahead and nothing that plays is queued. -/
def State.readQuiet (s : State) : Bool :=
  s.slots.all (fun e => e.2.front.isNone) && s.engs.all (fun e => e.2.queue.isEmpty || decide (512 ≤ s.logical e.1))

/-- The reader's tick t. -/
def State.readTick (s : State) (t : Nat) : State :=
  if s.readQuiet then s
  else
    let keys := s.readSlots
    let s1 := keys.foldl (State.frontTo (t + 28)) s
    let s2 := keys.foldl (State.beginRead (t + 28)) s1
    keys.foldl (State.readGranule t) s2

/-! RF outputs, tick by tick. -/

/-- Roll a playback on at tick t: at an instance's end the jump target of a taken jump follows (R141), then the next
repetition, then nothing. -/
def State.roll (s : State) (o t : Nat) (p : Play) : State × Option Play :=
  if t < p.b + p.dur then (s, some p)
  else if p.taken then
    match s.beginSeg o (dJt p.w0) (p.b + p.dur) (s.dur o (dJt p.w0)) 1 none with
    | some j => (s, some { j with jt := true, tset := p.tset })
    | none => (s.raiseBit (noseg o), none)
  else if 0 < p.reps then (s, some { p with b := p.b + p.dur, reps := p.reps - 1 })
  else (s, none)

/-- The end of all that plays: every repetition, or the target of a taken jump (R29). -/
def State.playEnd (s : State) (o : Nat) (p : Play) : Nat :=
  if p.taken then p.b + p.dur + s.dur o (dJt p.w0) else p.b + p.dur * (p.reps + 1)

/-- An envelope word as a sample. -/
def envOf (tset : Nat) (w : Word) (m0 m1 : Bool) : Smp := ⟨tset, sext 16 (w.bits 15 0), sext 16 (w.bits 31 16), m0, m1⟩

/-- Envelope sample j of what plays on a slot (R130); zero envelope past its end, at an underrun and on a refused ring (R148,
R151). -/
def State.rfSample (s : State) (o : Nat) (x : Slot) (p : Play) (j : Nat) : Smp :=
  if 2 * p.dur ≤ j then { tset := p.tset }
  else if dStream p.w0 then
    match x.readOf p.b with
    | some u => if u.conflict || u.under.any (fun g => decide (g ≤ j / 16)) then { tset := p.tset }
        else envOf p.tset (u.buf.getD j 0) false false
    | none => { tset := p.tset }
  else
    let gr := dStart p.w0 + j / 16
    let m := memWord s.sram (markAddr o + 4 * gr)
    envOf p.tset (memWord s.sram (libAddr o + 64 * gr + 4 * (j % 16))) (m.bit (2 * (j % 16))) (m.bit (2 * (j % 16) + 1))

/-- Envelope samples kept of each slot: those that a clamp not yet judged can still depend on. -/
def lineLen : Nat := 160

/-- Envelope sample m of a slot at the land (R92, R404). -/
def State.slotSample (s : State) (o k m : Nat) : State :=
  let x := s.slot o k
  let v : Smp := match x.play with
    | some p => (match p.hold with
      | some h => { h with tset := p.tset }
      | none => s.rfSample o x p (m - 2 * p.b))
    | none => { tset := x.tset }
  s.setSlot o k { x with line := (v :: x.line).take lineLen }

/-- The position, in 1/16 converter sample, of envelope sample m of output o under a timing set (R115), as
it stands in the sample's tick (R118). -/
def State.samplePos (s : State) (o t m : Nat) : Nat :=
  16 * (16 * m + s.fldIn (rfoTsetK0 o t) (m / 2)) + s.fldIn (rfoTsetFrac o t) (m / 2)

/-- Envelope sample m of a slot, where `last` is the newest one. -/
def Slot.envAt (x : Slot) (last m : Nat) : Smp := if last < m then {} else x.line.getD (last - m) {}

/-- The scaled envelope u of a slot at sample m (R111): AMP is that in force at the sample's landing instant. -/
def State.scaledAt (s : State) (o k last m : Nat) : Nat × Int × Int :=
  let x := s.slot o k
  let e := x.envAt last m
  let amp := x.ampAt (s.samplePos o e.tset m)
  (e.tset, scaleEnv e.i amp, scaleEnv e.q amp)

/-- The scaled envelope of a TE's slot. -/
def State.teScaled (s : State) (te last m : Nat) : Nat × Int × Int := s.scaledAt (rfOf te) (slotOf te) last m

/-- The sample v of partnering term n of a slot that source `src` gives at sample m (R114), under the source's timing set. -/
def State.termAt (s : State) (x : Slot) (n src last m : Nat) : Nat × Int × Int :=
  let u := s.teScaled src last m
  match x.partAt n m with
  | some (te, c) => if te = src then (u.1, satS 16 (partnerRaw c u.2).1, satS 16 (partnerRaw c u.2).2) else (u.1, 0, 0)
  | none => (u.1, 0, 0)

/-- A clamp of R111 or R114 on a slot at envelope sample m. -/
def State.satAt (s : State) (o k last m : Nat) : Bool :=
  let x := s.slot o k
  let e := x.envAt last m
  let amp := x.ampAt (s.samplePos o e.tset m)
  clampsS 16 (scaleRaw e.i amp) || clampsS 16 (scaleRaw e.q amp)
    || [0, 1, 2].any (fun n => match x.partAt n m with
      | some (te, c) => clampsS 16 (partnerRaw c (s.teScaled te last m).2).1 || clampsS 16 (partnerRaw c (s.teScaled te last m).2).2
      | none => false)

/-- Frequency and offset that govern converter sample n on a slot (R107, R108). -/
def carrierAt (x : Slot) (n : Nat) : Nat × Nat := (x.ftwAt n, x.offAt n)

/-- Dither of an output, when X mode has it on (R110). -/
def State.ditherOf (s : State) (o n : Nat) : Option (BitVec 28) :=
  if s.xenOn (rfoCtrlXen o) (n / 32) && s.flag (rfoCtrlDither o) then some (Config.dither o n) else none

/-- What the samples of one timing set of output `tsetOut` give at converter sample n of output o (R112, R115): `smp m` is
envelope sample m with its timing set. -/
def State.contributorIn (s : State) (o tsetOut tset n : Nat) (carrier : Nat × Nat) (smp : Nat → Nat × Int × Int) : Int :=
  let k0 := s.fldIn (rfoTsetK0 tsetOut tset) (n / 32)
  let frac := s.fldIn (rfoTsetFrac tsetOut tset) (n / 32)
  if n < k0 then 0
  else
    let top := (n - k0) / 16 + 24
    let w := (List.range 49).map (fun d => if top < d then (0, 0) else
      let u := smp (top - d)
      if u.1 = tset then u.2 else (0, 0))
    if w.all (fun u => u.1 == 0 && u.2 == 0) then 0
    else
      let x := (interpolate frac ((n - k0) % 16) (w.map (·.1)), interpolate frac ((n - k0) % 16) (w.map (·.2)))
      mixed x (theta (phaseWord carrier.1 carrier.2 n) (s.ditherOf o n))

/-- A contributor's value at converter sample n: its samples are placed under the timing sets they began with (R117). -/
def State.contributor (s : State) (o tsetOut n : Nat) (carrier : Nat × Nat) (tsets : List Nat) (smp : Nat → Nat × Int × Int) : Int :=
  (tsets.eraseDups.map (fun t => s.contributorIn o tsetOut t n carrier smp)).foldl (· + ·) 0

/-- The sum S of an output at converter sample n (R112, R114); `last` is the newest envelope sample. -/
def State.rfSum (s : State) (o last n : Nat) : Int :=
  ((List.range (nSlots o)).map (fun k =>
    let x := s.slot o k
    s.contributor o o n (carrierAt x n) (x.line.map (·.tset)) (s.scaledAt o k last)
      + ((x.parts.filterMap (fun e => e.src.map (fun c => (e.n, c.1)))).eraseDups.map (fun e =>
          let y := s.slot (rfOf e.2) (slotOf e.2)
          s.contributor o (rfOf e.2) n (carrierAt y n) (y.line.map (·.tset)) (s.termAt x e.1 e.2 last))).foldl (· + ·) 0)).foldl
    (· + ·) 0

/-- The output code's sum after the equaliser (R113, R120). -/
def State.rfEqualised (s : State) (o last n : Nat) : Int :=
  if s.flag (rfoCtrlIsinc o) && s.fld (rfoCtrlNyq o) == 0 then
    let w := (List.range 31).map (fun d => s.rfSum o last (n + d - 15))
    if w.all (· == 0) then 0 else Config.isinc w
  else s.rfSum o last n

/-- The slot numbers that have done anything since T_s. -/
def State.liveSlots (s : State) : List Nat := s.slots.map (·.1)

/-- The outputs of those slots. -/
def State.liveOuts (s : State) : List Nat := (s.liveSlots.map (· / 16)).eraseDups

/-- Clamps of R111 and R114 in land tick t set SAT_ENV of outputs whose converter is on. -/
def State.satTick (s : State) (last t : Nat) : State :=
  s.liveSlots.foldl (fun st key =>
    let o := key / 16
    if st.flag (rfoStatOn o) && (st.satAt o (key % 16) last (2 * t) || st.satAt o (key % 16) last (2 * t + 1))
    then st.raiseBit (rfoStatSatEnv o) else st) s

/-- Clamps of R113 in land tick t set CLIP and count. -/
def State.clipTick (s : State) (last t : Nat) : State :=
  s.liveOuts.foldl (fun st o =>
    if !st.flag (rfoStatOn o) then st
    else
      let k := ((List.range 32).filter (fun d =>
        let c := codeRaw (st.rfEqualised o last (32 * t + d)) (st.rdn .rfoGain o)
        clampInt (-8192) 8191 c != c)).length
      if k = 0 then st else (st.raiseBit (rfoStatClip o)).countReg .rfoClipCnt o 0 k) s

/-- The clamps that are known once the envelope samples of tick t are: those of SAT_ENV wait until every AMP that can land at
or before the sample has landed, at most 511 converter samples later; those of CLIP also for the samples that the interpolator
spans. `State.judge` brings the flags forward to the present, where a look at them is (R405). -/
def State.judgeTick (s : State) (t : Nat) : State :=
  let s1 := if 16 ≤ t ∧ s.satFrom ≤ t - 16 then s.satTick (2 * t + 1) (t - 16) else s
  if 32 ≤ t ∧ s.clipFrom ≤ t - 32 then s1.clipTick (2 * t + 1) (t - 32) else s1

/-- Nothing plays and every line is silent: a tick changes nothing on the RF outputs. -/
def State.rfQuiet (s : State) : Bool := s.slots.all (fun e =>
  e.2.play.isNone && e.2.line.all (fun u => u.i == 0 && u.q == 0 && !u.m0 && !u.m1))

/-- Roll a slot on at tick t. -/
def State.rollSlot (t : Nat) (s : State) (key : Nat) : State :=
  let o := key / 16
  let k := key % 16
  match (s.slot o k).play with
  | none => s
  | some p => let r := s.roll o t p; r.1.modSlot o k (fun x => { x with play := r.2 })

/-- One tick of every RF output: the reader, two envelope samples of each slot, and the clamps that have become known. -/
def State.rfTick (s : State) (t : Nat) : State :=
  let s0 := s.readTick t
  let live := s0.liveSlots
  let s1 := live.foldl (State.rollSlot t) s0
  let s2 := [2 * t, 2 * t + 1].foldl (fun st m => live.foldl (fun x key => x.slotSample (key / 16) (key % 16) m) st) s1
  if s2.rfQuiet then s2 else s2.judgeTick t

/-- Bring the RF outputs up to the end of tick t - 1. -/
def State.rfTicks : Nat → Nat → State → State
  | 0, _, s => s
  | n + 1, t, s => if s.rfQuiet && s.readQuiet then s else State.rfTicks n (t + 1) (s.rfTick t)

/-! Flux outputs, tick by tick. -/

/-- Coefficients of IIR section c of flux output i in force in tick t (R157): b0, b1, b2, a1, a2. -/
def State.iirCoef (s : State) (i c t : Nat) (k : Nat) : Int :=
  if s.xenOn (flxCtrlXen i) t then (s.regIn ⟨.flxIir, i, 5 * c + k⟩ t).toInt else if k = 0 then 2 ^ 30 else 0

/-- The FIR taps in force in tick t. -/
def State.firTaps (s : State) (i t : Nat) : List Int :=
  if s.xenOn (flxCtrlXen i) t then (List.range 64).map (fun k => sext 20 ((s.regIn ⟨.flxFir, i, k⟩ t).bits 19 0)) else [2 ^ 18]

/-- Run the four sections on one sample: the last output, the new histories, and whether a section clamped (R156). -/
def State.iirRun (s : State) (i t : Nat) : Nat → Int → List IirHist → Int × List IirHist × Bool
  | _, z, [] => (z, [], false)
  | c, z, h :: hs =>
    let raw := biquadRaw (s.iirCoef i c t 0) (s.iirCoef i c t 1) (s.iirCoef i c t 2) (s.iirCoef i c t 3) (s.iirCoef i c t 4) z h
    let w := satS 28 raw
    let r := State.iirRun s i t (c + 1) w hs
    (r.1, biquadNext z w h :: r.2.1, r.2.2 || clampsS 28 raw)

/-- The word of flux sample j of an instance (R130). -/
def State.fluxWord (s : State) (i : Nat) (p : Play) (j : Nat) : Word :=
  memWord s.sram (libAddr (80 + i) + 64 * (dStart p.w0 + j / 16) + 4 * (j % 16))

/-- The code of the newest flux sample, with the two before it. -/
def Flux.setCode (x : Flux) (c : Int) : Flux := { x with code := c, past := (x.code :: x.past).take 2 }

/-- One flux sample m of output i (R155, R156, R164). -/
def State.fluxSample (s : State) (i m : Nat) : State :=
  let x := s.flx i
  match x.ramp with
  | some r =>
    let n := ((m : Int) + 1 - 2 * r.start).toNat
    s.setFlx i { x with code := rampCode r n, past := [rampCode r (n - 1), rampCode r (n - 2)] }
  | none =>
    if !s.flag (flxStatOn i) then s
    else
      let v : Int × Bool × Bool × Bool := match x.play with
        | some p =>
          if p.hold.isSome || decide (2 * p.dur ≤ m - 2 * p.b) then (x.p, x.m0, x.m1, false)
          else
            let w := s.fluxWord i p (m - 2 * p.b)
            let raw := fluxScaleRaw (sext 18 (w.bits 17 0)) x.amp
            (satS 18 raw, w.bit 18, w.bit 19, clampsS 18 raw)
        | none => (x.p, x.m0, x.m1, false)
      let r := s.iirRun i (m / 2) 0 (v.1 * 2 ^ 8) x.iir
      let f := firSum (s.firTaps i (m / 2)) (r.1 :: x.fir)
      let s1 := s.setFlx i ({ x with p := v.1, m0 := v.2.1, m1 := v.2.2.1, iir := r.2.1, fir := (r.1 :: x.fir).take 63 }.setCode
        (fluxCode f))
      let s2 := if v.2.2.2 || r.2.2 then s1.raiseBit (flxStatFsat i) else s1
      if clampsS 18 (fluxCodeRaw f) then (s2.raiseBit (flxStatClip i)).countReg .flxClipCnt i else s2

/-- Roll flux output i on at tick t. -/
def State.fluxRoll (s : State) (i t : Nat) : State :=
  match (s.flx i).play with
  | none => s
  | some p => let r := s.roll (80 + i) t p; r.1.setFlx i { r.1.flx i with play := r.2 }

/-- One tick of flux output i. -/
def State.fluxTick (i : Nat) (s : State) (t : Nat) : State :=
  ((s.fluxRoll i t).fluxSample i (2 * t)).fluxSample i (2 * t + 1)

/-- Bring flux output i up to the end of tick t + n - 1. With nothing playing, a tick that changes neither the output nor its
clip count is followed by others like it (two ticks from a write of XEN on). -/
def State.fluxTicks (i : Nat) : Nat → Nat → State → State
  | 0, _, s => s
  | n + 1, t, s =>
    let s1 := s.fluxTick i t
    if (s1.flx i).play.isNone && s1.flx i == s.flx i && s1.rdn .flxClipCnt i == s.rdn .flxClipCnt i
        && !s.wrTick.any (fun w => decide (t ≤ w)) then s1
    else State.fluxTicks i n (t + 1) s1

/-- Ticks of a flux output to go through: a ramp's code depends on its last sample alone. -/
def State.fluxSpan (s : State) (i n : Nat) : Nat := if (s.flx i).ramp.isSome then min n 1 else n

/-- Bring every output up to the end of tick `t` - 1 (the samples of tick t follow the effects that land in it). -/
def State.settle (s : State) (t : Nat) : State :=
  let s1 := { State.rfTicks (t - s.rfSettled) s.rfSettled s with rfSettled := max t s.rfSettled }
  s1.flux.foldl (fun st e =>
    let n := st.fluxSpan e.1 (t - (st.flx e.1).settled)
    let st1 := State.fluxTicks e.1 n (t - n) st
    st1.setFlx e.1 { st1.flx e.1 with settled := max t (st1.flx e.1).settled }) s1

/-- `n` ticks pass: the outputs play on, then TT and WT advance, and engines reach instruction boundaries. -/
def State.pass (s : State) (n : Nat) : State := ((s.settle (s.now + s.ttSteps n)).tickOn n).haltDue

/-- Time passes to tick t, in DORMANT to the first crystal cycle at or after it (R51). TT never goes back. -/
def State.advanceTo (s : State) (t : Nat) : State := if t ≤ s.now then s else s.pass (s.ticksFor (t - s.now))

/-- Time passes until `u` ticks have elapsed since reset (R403). -/
def State.elapseTo (s : State) (u : Nat) : State := if u ≤ s.up then s else s.pass (u - s.up)

end Sys2Proof.Machine
end

