-- ==== Sys2Proof/Machine/Landing.lean ====
section
/-! DEFINITION. The landing of effects on slots and flux outputs (R66, R92), and the outputs as they stand some ticks ahead of
the land: what the queues already hold lands there, so the flags and codes of the converter dies' pipeline, which are formed
before the land, are read from it (R122, R153, R405). -/
namespace Sys2Proof.Machine

/-- A new effect governs playback from its landing tick: what plays ends there. A jump that was to begin at or after that tick
is cut, and a commit point still to come stands (R92, R135, R141). The state, and that commit point. -/
def State.cutPlay (s : State) (o tc : Nat) (p : Option Play) : State × Option Nat :=
  match p with
  | none => (s, none)
  | some p =>
    let e := p.b + p.dur
    (if p.taken ∧ tc ≤ e then s.raiseBit (jcut o) else s,
     if dJen p.w0 ∧ p.hold.isNone ∧ !p.taken ∧ tc < e ∧ tc ≤ e - 8 then some (e - 8) else none)

/-- Start what an effect plays on slot k of output o, or on flux output o - 80, from tick tc on. -/
def State.startPlay (s : State) (o k tc : Nat) (p : Option Play) : State :=
  if o < 80 then
    let r := s.cutPlay o tc (s.slot o k).play
    r.1.modSlot o k (fun x => { x with play := p, commits := x.commits.filter (fun c => decide (tc ≤ c)) ++ r.2.toList })
  else
    let r := s.cutPlay o tc (s.flx (o - 80)).play
    let x := r.1.flx (o - 80)
    r.1.setFlx (o - 80) { x with play := p, commits := x.commits.filter (fun c => decide (tc ≤ c)) ++ r.2.toList }

/-- Where an effect that begins at tick tc under the slot's timing set begins earlier than the previous one ends, the previous
one is cut at that position (R117): samples placed there or after play nothing. -/
def State.cutLine (s : State) (o tc tset : Nat) (line : List Smp) : List Smp :=
  let pos := s.samplePos o tset (2 * tc)
  line.zipIdx.map (fun e => if pos ≤ s.samplePos o e.1.tset (2 * tc - 1 - e.2) then { tset := e.1.tset } else e.1)

/-- The sample that a HOLD repeats (R404): the one that plays immediately before the HOLD's first position. -/
def State.heldSmp (s : State) (o tc tset : Nat) (line : List Smp) : Smp :=
  let pos := s.samplePos o tset (2 * tc)
  match line.zipIdx.find? (fun e => s.samplePos o e.1.tset (2 * tc - 1 - e.2) < pos) with
  | some e => if pos ≤ s.samplePos o e.1.tset (2 * tc - 1 - e.2) + 256 then { e.1 with tset := tset } else { tset := tset }
  | none => { tset := tset }

/-- Start what an effect plays on a slot, under its timing set in force (R117). -/
def State.startSlot (s : State) (o k tc : Nat) (p : Option Play) : State :=
  let t := (s.slot o k).tset
  let s1 := if p.isSome then s.modSlot o k (fun x => { x with line := s.cutLine o tc t x.line }) else s
  s1.startPlay o k tc (p.map (fun q => { q with tset := t }))

/-- Write predistortion coefficient idx of flux output i (R95, R157): it governs from its landing tick on, so it also enters the
words that stand for the present tick. -/
def State.setCoef (s : State) (i idx : Nat) (v : Word) : State :=
  let r : Reg := if idx < 64 then ⟨.flxFir, i, idx⟩ else ⟨.flxIir, i, idx - 64⟩
  let w := if idx < 64 then v &&& 0xFFFFF else v
  let s1 := s.setReg r w
  { s1 with wrOld := if s.wrTick.isSome then regPut s.wrOld r w else s.wrOld }

/-- The MARK override of a line from a position on, in 1/16 converter sample (R94): a pulse lasts `width` ticks. -/
def markOv (pos : Nat) (level : Option Bool) (width : Option Nat) : MarkOv :=
  match level, width with
  | none, _ => .free
  | some b, none => .force b
  | some _, some w => .pulse (pos + 512 * w)

/-- The first converter sample of an effect that lands at tick tc on a slot (R66), by the timing set in force in that tick (R118). -/
def State.landSample (s : State) (o k tc : Nat) : Nat := tc * 32 + s.fldIn (rfoTsetK0 o (s.slot o k).tset) tc

/-- An effect lands at tick tc on slot k of output o (R66, R91 to R95). -/
def State.landSlot (s : State) (o k tc : Nat) (eff : Eff) : State :=
  let n := s.landSample o k tc
  match eff with
  | .play seg reps d => s.startSlot o k tc (s.beginSeg o seg tc d reps none)
  | .playf a b da db _ _ _ _ _ c =>
    let seg := c.getD a
    let d := if seg = a then da else db
    let stop := tc + max da db
    let s1 := if d = 0 then s.raiseBit (noseg o) else s
    let s2 := s1.startSlot o k tc (s1.beginSeg o seg tc d 1 (some (if seg = a then b else a, stop)))
    { s2 with actTail := s2.actTail ++ [(o, a, stop), (o, b, stop)] }
  | .noseg => s.raiseBit (noseg o)
  | .hold h =>
    let x := s.slot o k
    s.startSlot o k tc (some { seg := 0, w0 := 0, b := tc, dur := h, hold := some (s.heldSmp o tc x.tset x.line) })
  | .setf v => s.modSlot o k (fun x => x.putFtw n v)
  | .shph v => s.modSlot o k (fun x => x.putOff n false v)
  | .setph v => s.modSlot o k (fun x => x.putOff n true v)
  | .seta v => s.modSlot o k (fun x => x.putAmp n v)
  | .tset v => s.modSlot o k (fun x => { x with tset := v })
  | .mark l lv w => s.modSlot o k (fun x => x.putMark l n (markOv (16 * n) lv w))
  | .term i src => s.modSlot o k (fun x => x.putPart i (2 * tc) src)
  | _ => s

/-- An effect lands at tick tc on flux output i (R66, R91 to R95, R155). -/
def State.landFlux (s : State) (i tc : Nat) (eff : Eff) : State :=
  let o := 80 + i
  match eff with
  | .play seg reps d => s.startPlay o 0 tc (s.beginSeg o seg tc d reps none)
  | .playf a b da db _ _ _ _ _ c =>
    let seg := c.getD a
    let d := if seg = a then da else db
    let stop := tc + max da db
    let s1 := if d = 0 then s.raiseBit (noseg o) else s
    let s2 := s1.startPlay o 0 tc (s1.beginSeg o seg tc d 1 (some (if seg = a then b else a, stop)))
    { s2 with actTail := s2.actTail ++ [(o, a, stop), (o, b, stop)] }
  | .noseg => s.raiseBit (noseg o)
  | .hold h => s.startPlay o 0 tc (some { seg := 0, w0 := 0, b := tc, dur := h, hold := some {} })
  | .seta v => s.setFlx i { s.flx i with amp := v }
  | .mark l lv w =>
    let x := s.flx i
    let ov := markOv (512 * tc) lv w
    s.setFlx i (if l = 0 then { x with mark0 := ov } else { x with mark1 := ov })
  | .coef idx v => s.setCoef i idx v
  | .flev c =>
    let s1 := s.startPlay o 0 tc none
    s1.setFlx i { s1.flx i with p := c }
  | _ => s

/-- The effects of a parked flux output's engine are discarded (R163). -/
def State.fluxParked (s : State) (e : Nat) : Bool := decide (512 ≤ e ∧ e < 768) && s.flag (flxStatParked (e - 512))

/-- An effect of TE or FE e lands at tick tc. -/
def State.landOut (s : State) (e tc : Nat) (eff : Eff) : State :=
  if s.fluxParked e then s
  else if e < 512 then s.landSlot (rfOf e) (slotOf e) tc eff else s.landFlux (e - 512) tc eff

/-- The first queue entry of the earliest tc, and the rest (R64, R65: entries of one tc in program order). -/
def popQueue : List QEff → Option (QEff × List QEff)
  | [] => none
  | q :: qs => match popQueue qs with
    | some (r, rest) => if r.tc < q.tc then some (r, q :: rest) else some (q, qs)
    | none => some (q, qs)

/-! Jumps. -/

/-- The commit points of what plays at which a request can be taken (R135, R140): those of its repetitions with JEN = 1, or that of
the target of a taken jump. -/
def State.commitsOf (s : State) (o : Nat) (p : Play) : List Nat :=
  if p.hold.isSome then []
  else if p.taken then
    let w := s.desc0 o (dJt p.w0)
    if dValid w && dJen w then [p.b + p.dur + s.dur o (dJt p.w0) - 8] else []
  else if dJen p.w0 then (List.range (p.reps + 1)).map (fun i => p.b + (i + 1) * p.dur - 8) else []

/-- The first commit point after a jump's land tick and not before the present, among `own` or among those of instances that were
cut, and whether it is of a cut one (R135, R140). -/
def commitAfter (own cut : List Nat) (r now : Nat) : Option (Nat × Bool) :=
  let ok (c : Nat) : Bool := decide (r < c) && decide (now ≤ c)
  let mine := own.find? ok
  let old := minOpt none ((cut.filter ok).foldl (fun m c => minOpt m (some c)) none)
  match mine, old with
  | some a, some b => some (if b ≤ a then (b, true) else (a, false))
  | some a, none => some (a, false)
  | none, some b => some (b, true)
  | none, none => none

/-- A request is taken at the commit point of what plays (R141). -/
def Play.take (p : Play) : Play := { p with taken := true, reps := 0 }

/-- The jump that a slot or flux output takes next. -/
def State.nextJump (s : State) (o k : Nat) : Option (Nat × Bool) :=
  let of (j : Option Nat) (p : Option Play) (cut : List Nat) : Option (Nat × Bool) :=
    j.bind (fun r => commitAfter (match p with | some p => s.commitsOf o p | none => []) cut r s.now)
  if o < 80 then of (s.slot o k).jump (s.slot o k).play (s.slot o k).commits
  else of (s.flx (o - 80)).jump (s.flx (o - 80)).play (s.flx (o - 80)).commits

/-- A jump is taken at its commit point: the request is cleared, and the target follows; where a later effect has cut the
instance, that effect cuts the jump too (R135, R141). -/
def State.takeJump (s : State) (o k : Nat) (cut : Bool) : State :=
  let s1 := if cut then s.raiseBit (jcut o) else s
  if o < 80 then s1.modSlot o k (fun x => { x with jump := none, play := if cut then x.play else x.play.map Play.take })
  else
    let x := s1.flx (o - 80)
    s1.setFlx (o - 80) { x with jump := none, play := if cut then x.play else x.play.map Play.take }

/-! Ahead of the land. -/

/-- What happens on the outputs next by tick t without any event from outside: the engine whose queued effect lands first, or the
slot or flux output that takes a jump first, with its tick. -/
def State.nextOut (s : State) (t : Nat) : Option (Nat × (Nat ⊕ (Nat × Nat × Bool))) :=
  let lands := s.engs.filterMap (fun e =>
    let n := s.logical e.1
    if n < 768 then (popQueue e.2.queue).bind (fun q => if q.1.tc ≤ t then some (q.1.tc, Sum.inl n) else none) else none)
  let jumps := (s.slots.filterMap (fun e => (s.nextJump (e.1 / 16) (e.1 % 16)).map (fun c => (c.1, Sum.inr (e.1 / 16, e.1 % 16, c.2)))))
    ++ s.flux.filterMap (fun e => (s.nextJump (80 + e.1) 0).map (fun c => (c.1, Sum.inr (80 + e.1, 0, c.2))))
  (lands ++ jumps.filter (fun e => decide (e.1 ≤ t))).foldl (fun m e => match m with
    | some b => if e.1 < b.1 then some e else some b
    | none => some e) none

/-- That event happens. -/
def State.outEvent (s : State) (t : Nat) (x : Nat ⊕ (Nat × Nat × Bool)) : State :=
  let s1 := s.settle t
  match x with
  | .inl e =>
    match popQueue (s1.eng e).queue with
    | some (q, rest) => (s1.modEng e (fun g => { g with queue := rest })).landOut e t (s1.selectFork e q).1.eff
    | none => s1
  | .inr (o, k, cut) => s1.takeJump o k cut

/-- All of them up to tick t, one after another. -/
def State.outEvents : Nat → Nat → State → State
  | 0, _, s => s
  | n + 1, t, s => match s.nextOut t with
    | some (c, x) => State.outEvents n t (s.outEvent c x)
    | none => s

/-- The outputs at the end of land tick t, as the queues and playback of the present give them. -/
def State.outAt (s : State) (t : Nat) : State :=
  let n := (s.engs.map (fun e => e.2.queue.length)).foldl (· + ·) 0 + s.slots.length + s.flux.length
  (State.outEvents n t s).settle (t + 1)

/-- SAT_ENV, CLIP and RFO_CLIP_CNT as they stand in the present tick (R405): stage 4 works on the sample that lands 23 ticks later,
stage 7 on the one that lands 7 ticks later (R122). Clamps of those samples set them now, and not again at the land. -/
def State.judge (s : State) : State :=
  if s.rfQuiet && s.readQuiet then s
  else
    let a := s.outAt (s.now + 39)
    let own (e : Reg × Word) : Bool := e.1.k == .rfoStat || e.1.k == .rfoClipCnt
    { s with regs := (a.regs.filter own).foldl (fun r e => regPut r e.1 (if e.1.k = .rfoStat then
               ((regFind r e.1).getD 0).put 4 3 (e.2.bits 4 3) else e.2)) s.regs
             satFrom := max s.satFrom (s.now + 24), clipFrom := max s.clipFrom (s.now + 8) }

/-! What is at the lands. -/

/-- Code 0 is forced on an output in tick t by a cause of R123. CUE_MUTED forces it from 8 ticks after its cue. -/
def State.rfMutedIn (s : State) (o t : Nat) : Bool :=
  s.mode == .safe || s.fldIn (rfoCtrlMute o) t != 0 || s.stopMuted
    || (s.flag (rfoStatCueMuted o) && decide (tabGet s.cueMuted o 0 ≤ t))

/-- RFO_STAT.MUTED (R123). -/
def State.rfMuted (s : State) (o : Nat) : Bool := s.rfMutedIn o s.now

/-- The code at the land of RF output o at converter sample d of the present tick (R113, R123); a converter that is off gives
none. -/
def State.rfLand (s : State) (o d : Nat) : Option Int :=
  if !s.flag (rfoStatOn o) then none
  else if s.rfMuted o then some 0
  else
    let a := s.outAt (s.now + 39)
    some (rfCode (a.rfEqualised o (2 * (s.now + 39) + 1) (32 * s.now + d)) (s.rdn .rfoGain o))

/-- FLX_LEVEL: the code at the deglitcher's input, of the sample that lands 7 ticks later (R153). -/
def State.fluxLevel (s : State) (i : Nat) : Int := ((s.outAt (s.now + 7)).flx i).code

/-- A sample of code b after one of code a, `sub` × 15.625 ps into it, behind the deglitcher (R160). -/
def deglitched (en : Bool) (hold : Nat) (a b : Int) (sub : Nat) : Int :=
  if en && majorStep a b && decide (sub < hold) then a else b

/-- The code whose current is at the land of flux output i, `sub` × 15.625 ps into the present tick (R154, R160, R164). -/
def State.fluxLand (s : State) (i sub : Nat) : Int :=
  let x := (s.outAt s.now).flx i
  let hold := s.xfld (flxCtrlXen i) (flxDgHold i) 8
  let c1 := x.past.getD 0 x.code
  let c2 := x.past.getD 1 c1
  if sub % 64 < 32 then deglitched (s.flag (flxCtrlDgEn i)) hold c2 c1 (sub % 32)
  else deglitched (s.flag (flxCtrlDgEn i)) hold c1 x.code (sub % 32)

end Sys2Proof.Machine
end

