-- ==== Sys2Proof/Machine/MvpCore.lean ====
section
/-! DEFINITION. What the pins of the marker and vector port carry (R94, R249 to R251, R257): marker lines, drivers, idle levels,
and the end of a pattern. -/
namespace Sys2Proof.Machine

/-- The level of a line at a position, in 1/16 converter sample, under its MARK override (R94): `bit` is what plays there. -/
def MarkOv.level (o : MarkOv) (bit : Bool) (pos : Nat) : Bool :=
  match o with
  | .free => bit
  | .force b => b
  | .pulse stop => if pos < stop then true else bit

/-- Where the marker bits of envelope sample m govern, in 1/16 converter sample (R115, R124): FRAC is rounded to half a sample. -/
def State.markPos (s : State) (o tset m : Nat) : Nat :=
  let f := s.fldIn (rfoTsetFrac o tset) (m / 2)
  16 * (16 * m + s.fldIn (rfoTsetK0 o tset) (m / 2)) + (if f < 4 then 0 else if f < 12 then 8 else 16)

/-- Line l of a tone slot at a position (R94, R124): the bit of the sample that governs there, 0 where none does. -/
def State.slotMark (s : State) (o k l pos : Nat) : Bool :=
  let x := s.slot o k
  let last := 2 * s.rfSettled - 1
  let bit := match x.line.zipIdx.find? (fun e => decide (s.markPos o e.1.tset (last - e.2) ≤ pos)) with
    | some e => if pos < s.markPos o e.1.tset (last - e.2) + 256 then (if l = 0 then e.1.m0 else e.1.m1) else false
    | none => false
  (logAt MarkOv.free pos (if l = 0 then x.mark0 else x.mark1)).level bit pos

/-- Line l of a flux output at a position in the present tick (R94, R166): the bits of the sample that plays in that half tick. -/
def State.fluxMark (s : State) (i l pos : Nat) : Bool :=
  let a := (s.fluxRoll i s.now).fluxSample i (2 * s.now)
  let x := (if pos % 512 < 256 then a else a.fluxSample i (2 * s.now + 1)).flx i
  if l = 0 then x.mark0.level x.m0 pos else x.mark1.level x.m1 pos

/-- The level of a marker line, numbered as MSRC numbers it (R250), `sub` 1/512 of a tick into the present tick. An edge reaches its
pin within the bound of `State.edgeBound` of that instant. -/
def State.markerLine (s : State) (n : Nat) (sub : Nat := 0) : Bool :=
  let pos := 512 * s.now + sub
  if n < 1024 then (s.settle (s.now + 1)).slotMark (rfOf (n / 2)) (slotOf (n / 2)) (n % 2) pos
  else if n < 1536 then (s.settle s.now).fluxMark ((n - 1024) / 2) (n % 2) pos
  else false

/-! Trims (R125, R166, R255). -/

/-- The trim register of a marker line, numbered as MSRC numbers it (R250). -/
def lineTrimValid (n : Nat) : Fld :=
  if n < 1024 then rfoMrkTrimValid (rfOf (n / 2)) (2 * slotOf (n / 2) + n % 2) else flxMrkTrimValid ((n - 1024) / 2) (n % 2)
def lineTrimEff (n : Nat) : Fld :=
  if n < 1024 then rfoMrkTrimTrimEff (rfOf (n / 2)) (2 * slotOf (n / 2) + n % 2) else flxMrkTrimTrimEff ((n - 1024) / 2) (n % 2)
def lineTrimOvr (n : Nat) : Fld :=
  if n < 1024 then rfoMrkTrimTrimOvr (rfOf (n / 2)) (2 * slotOf (n / 2) + n % 2) else flxMrkTrimTrimOvr ((n - 1024) / 2) (n % 2)

/-- The output of a marker line has XEN in force. -/
def State.lineXen (s : State) (n : Nat) : Bool :=
  if n < 1024 then s.xenOn (rfoCtrlXen (rfOf (n / 2))) s.now else s.xenOn (flxCtrlXen ((n - 1024) / 2)) s.now

/-- The trim of a marker line in force, in 1/64 tick (R125): TRIM_OVR while XEN is 1, otherwise the measured one. -/
def State.markTrim (s : State) (n : Nat) : Int :=
  if s.lineXen n then sext 8 (s.fldIn (lineTrimOvr n) s.now) else sext 8 (s.fld (lineTrimEff n))

/-- How far, in ps, an edge of a routed line may lie from the instant of the sample that governs it (R125, R166). -/
def State.edgeBound (s : State) (n : Nat) : Nat := if s.flag (lineTrimValid n) || s.lineXen n then 20 else 250

/-- The idle level of a pin (R251): off, 0, 1, or the level it held. -/
def State.idleLevel (s : State) (p : Nat) : Option Bool :=
  match s.fld (mvpPinCfgIdle p) with
  | 0 => none
  | 1 => some false
  | 2 => some true
  | _ => tabGet s.mvp.held p none

/-- The drivers are on: in BOOT and DORMANT every pin and every trigger-bus driver is at high impedance (R249). -/
def State.driversOn (s : State) : Bool := s.power && s.mode != .boot && s.mode != .dormant

/-- The trigger bus's driver k pulls its line low (R260). -/
def State.tbusLow (s : State) (k : Nat) : Bool :=
  s.driversOn && (tabGet s.mvp.tbus k []).any (fun x => decide (x.1 ≤ s.now) && decide (s.now < x.2))

/-- What vector pin p drives at a position in 1/64 tick (R253). -/
def State.vectorPin (s : State) (p pos : Nat) : Option Bool := if s.mvp.idle then s.idleLevel p else logAt none pos (tabGet s.mvp.drv p [])

/-- What pin p drives (R249 to R251), `sub` 1/512 of a tick into the present tick: `none` is high impedance. -/
def State.pinOut (s : State) (p : Nat) (sub : Nat := 0) : Option Bool :=
  if !s.driversOn then none
  else match s.fld (mvpPinCfgFunc p) with
  | 0 => none
  | 1 => s.vectorPin p (64 * s.now + sub / 8)
  | 2 => if s.mode = .safe then s.idleLevel p else some (s.markerLine (s.fld (mvpPinCfgMsrc p)) sub)
  | _ => if s.mode = .safe then s.idleLevel p else some (s.flag (mvpPinCfgStatic p))

/-- The sequencer stops and vector pins go to IDLE (R251, R257). -/
def State.mvpIdle (s : State) : State :=
  let held := (List.range 64).map (fun p => (p, s.pinOut p))
  { s with mvp := { s.mvp with running := false, next := none, goCue := none, stopFrom := none, idle := true,
                               held := if s.mode = .safe then s.mvp.held else held } }

/-- The sequencer runs, from GO until the boundary at which it stops (R256, R257). -/
def State.mvpRuns (s : State) : Bool := s.mvp.running && !s.mvp.stopFrom.any (fun b => b ≤ s.now)

/-- The mode changes: pins that held a finished pattern's last state hold it no longer, and stay at IDLE until the next GO (R257,
R251; DEDUCED, log 141). -/
def State.dropLastState (s : State) : State := if s.mvpRuns || s.mvp.idle then s else s.mvpIdle

/-- Ticks moved with TT by an epoch load (R403): a VSTART still to come stays. `sh64` moves positions in 1/64 tick. -/
def Mvp.shift (m : Mvp) (sh sh64 : Nat → Nat) : Mvp :=
  { m with
    next := if m.waitTt then m.next else m.next.map sh
    stopFrom := m.stopFrom.map sh
    drv := m.drv.map (fun (e : Nat × List (Nat × Option Bool)) => (e.1, e.2.map (fun x => (sh64 x.1, x.2))))
    tbus := m.tbus.map (fun (e : Nat × List (Nat × Nat)) => (e.1, e.2.map (fun x => (sh x.1, sh x.2)))) }

end Sys2Proof.Machine
end

