-- ==== Sys2Proof/Machine/Safe.lean ====
section
/-! DEFINITION. Mode changes and SAFE: what a change of mode does in the tick it takes effect (R29, R37, R72, R121), engine
halts (R70, R71), SAFE entry and SAFE causes (R31 to R34), and engine faults (R69). -/
namespace Sys2Proof.Machine

/-! Engines halt. -/

/-- Apply a change to every engine the state lists. -/
def State.eachEng (s : State) (f : Eng → Eng) : State := { s with engs := s.engs.map (fun e => (e.1, f e.2)) }

/-- An engine stops issue in tick t by STOP or SAFE (R71). A micro-routine that is not held goes on to its next safe point, and
its deposits, cues and publications after tick t are discarded (R269). -/
def Eng.stopIssue (g : Eng) (t : Nat) : Eng :=
  if !liveState g.state then g
  else match g.routine, g.state with
  | some r, .running => { g with haltReq := true, routine := some { r with drop := some t } }
  | _, _ => { g.stop .halted with routine := none }

/-- Stop every live engine at tick t and discard the effects with tc of t or later (R29 STOP, R31). -/
def State.haltAll (s : State) (t : Nat) : State :=
  s.eachEng (fun g => { g.stopIssue t with queue := g.queue.filter (fun q => q.tc < t) })

/-- The device leaves ARMED other than to RUN: HELD, HALTED and FAULTED engines become IDLE (R72). -/
def State.releaseEngs (s : State) : State :=
  s.eachEng (fun g => match g.state with | .held | .halted | .faulted => { g with state := .idle } | _ => g)

/-- Playback on every slot ends at once (R92, R137): what the reader had read ahead is dropped. -/
def Slot.cut (x : Slot) : Slot := { x with play := none, commits := [], front := none, reads := [] }

/-- An effect owner's end on every slot. Clamps that the pipeline has computed before it stay flagged (R405). -/
def State.cutSlots (s : State) : State := { s with slots := s.slots.map (fun e => (e.1, e.2.cut)) }

/-- Every flux output's playback ends; the level stays (R92). -/
def State.cutFlux (s : State) : State := { s with flux := s.flux.map (fun e => (e.1, { e.2 with play := none, commits := [] })) }

/-- A ramp begins on flux output i towards a code (R164). RAMPING reads 1 until it ends; a ramp of no length ends at once. -/
def State.startRamp (s : State) (i : Nat) (target : Int) (off : Bool := false) : State :=
  let x := s.flx i
  let s1 := s.setFlx i { x with play := none, ramp := some ⟨s.now, x.code, target, s.fld (flxSlewSlew i), off⟩ }
  s1.raiseBit (flxStatRamping i)

/-- The park code of flux output i. -/
def State.parkCode (s : State) (i : Nat) : Int := sext 18 (s.fld (flxParkPark i))

/-- Outputs whose flux converter is on. -/
def State.fluxOn (s : State) : List Nat := (List.range 256).filter (fun i => s.flag (flxStatOn i))

/-- On SAFE every flux output that is on ramps to its park code; a ramp to it that is in progress continues (R164, R165), a ramp
that a transition began before powering the output off does not. -/
def State.safeRamps (s : State) : State :=
  s.fluxOn.foldl (fun st i =>
    if st.flag (flxStatRamping i) && (st.flx i).ramp.any (fun r => !r.off) then st else st.startRamp i (st.parkCode i)) s

/-- Rings: refill stops and PRIMED is 0 (R146). -/
def State.unprime (s : State) : State :=
  s.rings.foldl (fun st e => (st.setRing (e.1 / 4) (e.1 % 4) { st.ring (e.1 / 4) (e.1 % 4) with primed := false, stopped := true }).put
    (rfoRingStatPrimed (e.1 / 4) (e.1 % 4)) 0) s

/-- Attenuations stored in RUN take effect when RUN is left (R121). -/
def State.applyAtt (s : State) : State :=
  (List.range 80).foldl (fun st o =>
    if st.flag (rfoStatAttPend o) then (st.put (rfoAttAttEff o) (st.fld (rfoAttAtt o))).put (rfoStatAttPend o) 0 else st) s

/-- The mode becomes m: MODE_SEQ counts it, no transition is in progress, an epoch capture that is armed is cancelled outside
STANDBY and CALIBRATE (R37), a finished pattern's last state is no longer held (R257), and attenuations stored in RUN take effect
on leaving it. -/
def State.setMode (s0 : State) (m : Mode) : State :=
  let s := if m = s0.mode then s0 else s0.dropLastState
  let s1 := if s.mode = .run && m ≠ .run then { s.applyAtt with runEnd := s.now } else s
  let s2 := { s1 with mode := m, trans := none, modeSeq := s1.modeSeq + 1 }
  if m = .standby || m = .calibrate then s2 else s2.put clkEpochArm 0

/-! Commands that SAFE interrupts (R33). -/

/-- Loads and SKEW_CAL are interrupted by SAFE; flash and repair work is not. -/
def interrupted : Job → Bool
  | .loadEngines .. | .loadSegments .. | .loadOpen .. => true
  | _ => false

/-- The transition's command, SKEW_CAL and the loads complete with FAULT (R33). A LOAD_ENGINES cut short has written none of its
images yet: R33 does not say when each is written (DESIGN CHOICE, log 48). -/
def State.interruptCommands (s : State) : State :=
  let s1 := match s.trans with
    | some ⟨_, some (tag, op), _, _⟩ => { s with trans := none }.complete tag op .fault
    | _ => { s with trans := none }
  let s2 := match s1.skew with
    | some k => { s1 with skew := none }.complete k.tag 0x33 .fault
    | none => s1
  let hit := s2.bg.filter (fun b => interrupted b.job)
  hit.foldl (fun st b => st.complete b.tag b.opcode .fault) { s2 with bg := s2.bg.filter (fun b => !interrupted b.job) }

/-- The Quarry at t0 of SAFE (R225): a decode in progress is abandoned without commit. -/
def State.freezeQuarry (s : State) : State :=
  { s with qry := { s.qry with dec := none, wait := false } }.put qryStatState 4

/-- Segments of owner o that an engine's effects still hold active, or that play (R137). -/
def State.activeSegs (s : State) : List (Nat × Nat) :=
  let queued := s.engs.flatMap (fun e => e.2.queue.flatMap (fun q =>
    let o := ownerOf (s.logical e.1)
    match q.eff with
    | .play seg _ _ => [(o, seg)]
    | .playf a b .. => [(o, a), (o, b)]
    | _ => []))
  let live (o : Nat) (p : Option Play) : List (Nat × Nat) :=
    match p with
    | some p => if p.hold.isSome || decide (s.playEnd o p ≤ s.now) then []
        else (if p.taken && decide (p.b + p.dur ≤ s.now) then [] else [(o, p.seg)]) ++ (if p.taken then [(o, dJt p.w0)] else [])
    | none => []
  queued ++ s.slots.flatMap (fun e => live (e.1 / 16) e.2.play) ++ s.flux.flatMap (fun e => live (80 + e.1) e.2.play)

/-- Acquisition units at t0 of SAFE (R236). -/
def State.acqsSafe (s : State) : State := (List.range 16).foldl (fun st u => if (tabFind st.acqs u).isNone then st else st.acqSafe u) s

/-- SAFE entry from STANDBY, CALIBRATE, ARMED or RUN at the present tick (R31, R32). `cmd`: an ENTER_SAFE brings it, so no
device notice is due (R309). -/
def State.enterSafe (s : State) (first : Nat) (cmd : Bool) : State :=
  let fromRun := s.mode == .run
  let tail := (s.activeSegs ++ (s.actTail.filter (fun x => decide (s.now < x.2.2))).map (fun x => (x.1, x.2.1))).map
    (fun x => (x.1, x.2, s.now + 8))
  let s1 := (s.judge.interruptCommands).haltAll s.now
  let s2 := if fromRun then s1 else s1.releaseEngs
  let s3 := ((s2.cutSlots).cutFlux.safeRamps).unprime
  let s4 := ((({ s3 with startAt := none, stopAt := none, safePending := false, pendCause := none, safeAt := s.now,
                         actTail := tail }).mvpIdle.acqsSafe).freezeQuarry).announceSafe
  let s5 := ((s4.put glbSafeCauseFirst first).setMode .safe).msi 18
  if cmd then s5 else s5.notice 3 [s5.modeWord, s5.rd .glbSafeCause]

/-- A SAFE cause is registered in the present tick: its bit is set, and the mode decides what follows (R32, R34). -/
def State.safeCause (s : State) (bit : Nat) (cmd : Bool := false) : State :=
  let s1 := s.setReg ⟨.glbSafeCause, 0, 0⟩ (s.rd .glbSafeCause ||| BitVec.ofNat 32 (2 ^ bit))
  match s.mode with
  | .boot => s1
  | .dormant | .service => { s1 with
      safePending := true
      trans := s.trans.map (fun t => if t.target = .standby then { t with target := .safe } else t)
      pendCause := match s.pendCause with
        | some (t, b) => some (t, if t = s.now then min b bit else b)
        | none => some (s.now, bit) }
  | .safe =>
    let s2 := if s.safeAt = s.now then s1.put glbSafeCauseFirst (min (s1.fld glbSafeCauseFirst) bit) else s1
    if s.trans.isSome then s2.interruptCommands.safeRamps else s2.interruptCommands
  | _ => s1.enterSafe bit cmd

/-! Engine faults (R69). -/

/-- ENG_FAULT of an engine. -/
def Eng.faultWord (g : Eng) : Word :=
  BitVec.ofNat 32 (b2n g.fltValid * 2 ^ 31 + b2n g.fltOvf * 2 ^ 30 + g.fltArg * 2 ^ 8 + g.fltCode)

/-- The engine's registers after a fault at instruction index pc: the first fault is kept. -/
def Eng.faulted (g : Eng) (code arg pc : Nat) : Eng :=
  let g1 := if g.fltValid then { g with fltOvf := true }
    else { g with fltValid := true, fltCode := code, fltArg := arg, fltPc := pc }
  { g1.stop .faulted with routine := none }

/-- A fault of logical engine e at tick t: the engine enters FAULTED, cue 905 fires, the log takes an entry, and with
FAULT_ACT the ENG cause is raised in the tick after. -/
def State.engFault (s : State) (e code : Nat) (arg : Nat := 0) (pc : Option Nat := none) : State :=
  let g := s.eng e
  let s1 := (s.setEng e (g.faulted code arg (pc.getD g.pc))).sysCue 905
  let s2 := s1.logEntry 0x40 1 e (s1.eng e).faultWord
  if g.faultAct then (s2.advanceTo (s2.now + 1)).safeCause 7 else s2

/-- Fault codes (R69). -/
def fLate : Nat := 1
def fTcBack : Nat := 2
def fTcFar : Nat := 3
def fIllegal : Nat := 4
def fIaddr : Nat := 5
def fDaddr : Nat := 6
def fAlign : Nat := 7
def fLoopDepth : Nat := 8
def fStack : Nat := 9
def fEcc : Nat := 10
def fTrap : Nat := 11
def fUopAbsent : Nat := 12
def fBdma : Nat := 13
def fAbort : Nat := 14

end Sys2Proof.Machine
end

