-- ==== Sys2Proof/Machine/ClockCore.lean ====
section
/-! DEFINITION. References (R41 to R44): which one may be used, locking, and holdover. -/
namespace Sys2Proof.Machine

/-- A reference is valid: `true` names REFB. -/
def State.refValid (s : State) (b : Bool) : Bool := if b then s.flag clkRefStatRefbValid else s.flag clkRefStatRefaValid

/-- The reference that a lock would use under REF_MODE (R42), if one is valid. `keep`: automatic modes stay on the one in
use. -/
def State.eligible (s : State) (keep : Bool) : Option Bool :=
  match s.fld clkRefCtrlRefMode with
  | 2 => if s.refValid false then some false else none
  | 3 => if s.refValid true then some true else none
  | _ =>
    let pref := if keep then s.flag clkRefStatActive else s.flag clkRefCtrlPref
    if s.refValid pref then some pref else if s.refValid (!pref) then some (!pref) else none

/-- The PLL locks to a reference: no holdover, no free run, no drift (R44). -/
def State.lockTo (s : State) (b : Bool) : State :=
  let s1 := ((s.put clkRefStatActive (b2n b)).put clkRefStatLocked 1).put clkRefStatHoldover 0
  { (s1.put clkRefStatFreeRun 0).put clkHoldDriftEst 0 with holdUs := 0 }

/-- The PLL is on its own: holdover, with its event, or still free run on a device that has never locked (R43, R44, R191). -/
def State.loseLock (s : State) : State :=
  let s1 := s.put clkRefStatLocked 0
  if s1.flag clkRefStatFreeRun then s1 else { s1.put clkRefStatHoldover 1 with holdUs := 0, holdAt := s.up }.sysCue 936

/-- A hitless switch to a reference (R42, R191). -/
def State.switchRef (s : State) (b : Bool) : State :=
  if s.flag clkRefStatActive = b then s
  else (((s.put clkRefStatActive (b2n b)).raiseBit clkRefStatSwitchSeen).count clkRefStatSwitchCnt).sysCue 936

/-- The PLL locks again on a device that has locked before: to another reference than the last is a switch (R42, log 126). -/
def State.lockAgain (s : State) (b : Bool) : State := (if s.flag clkRefStatFreeRun then s else s.switchRef b).lockTo b

/-- The PLL relocks after DORMANT (R51). -/
def State.relock (s : State) : State :=
  match s.eligible true with
  | some b => s.lockAgain b
  | none => s.loseLock

/-- Reference edges at `edge` (TT in 1/256 tick, modulo one reference period) fall on ticks with TT ≡ V (mod 10), within half a
tick (R44). -/
def State.edgeOk (s : State) (edge : Nat) : Bool :=
  let d := (edge + 2560 - 256 * (s.epochV % 10)) % 2560
  decide (d ≤ 128) || decide (2432 ≤ d)

/-- The PLL relocks from holdover, with the check of the epoch phase (R44). A device in free run has no epoch to check. -/
def State.regain (s : State) (b : Bool) (edge : Nat) : State :=
  let s1 := s.lockAgain b
  if s.flag clkRefStatHoldover && !s.edgeOk edge then (s1.put clkEpochPhaseErr 1).put clkEpochAcq 0 else s1

/-- The PLL runs: not in BOOT and not in DORMANT (R51). -/
def State.pllOn (s : State) : Bool := s.power && s.mode != .boot && s.mode != .dormant

/-! Epoch load. -/

/-- A tick moved with TT: elapsed time stays (R403). -/
def shiftTick (old new x : Nat) : Nat := ((x : Int) + new - old).toNat

/-- A tick kept as an integer moves with TT: it may come to lie before tick 0. -/
def shiftInt (old new : Nat) (x : Int) : Int := x + new - old

/-- A position of `k` units a tick that moves with TT. -/
def shiftPos (k old new x : Nat) : Nat := ((x : Int) + k * ((new : Int) - old)).toNat

/-- A MARK override moves with TT: the end of a pulse is a position. -/
def MarkOv.shift (old new : Nat) : MarkOv → MarkOv
  | .pulse stop => .pulse (shiftPos 512 old new stop)
  | o => o

/-- What a slot holds by position moves with TT (R403). -/
def Slot.shift (old new : Nat) (x : Slot) : Slot :=
  let pulse (e : Nat × MarkOv) : Nat × MarkOv := (shiftPos 512 old new e.1, e.2.shift old new)
  { x with
    ftws := x.ftws.map (fun (e : Nat × Nat) => (shiftPos 32 old new e.1, e.2))
    offs := x.offs.map (fun (e : Nat × Bool × Nat) => (shiftPos 32 old new e.1, e.2))
    amps := x.amps.map (fun (e : Nat × Nat) => (shiftPos 512 old new e.1, e.2))
    parts := x.parts.map (fun (p : PartLog) => { p with from_ := shiftPos 2 old new p.from_ })
    mark0 := x.mark0.map pulse
    mark1 := x.mark1.map pulse
    commits := x.commits.map (shiftTick old new) }

/-- What a flux output holds by position moves with TT (R403). -/
def Flux.shift (old new : Nat) (x : Flux) : Flux :=
  { x with
    settled := shiftTick old new x.settled
    ramp := x.ramp.map (fun (r : Ramp) => { r with start := shiftInt old new r.start })
    mark0 := x.mark0.shift old new
    mark1 := x.mark1.shift old new
    commits := x.commits.map (shiftTick old new)
    limit := x.limit.map (shiftPos 2 old new) }

/-- TT becomes V (R36): what runs on elapsed ticks moves with it, and what is set at a TT value stays (R403). The schedules
restart (R39). -/
def State.loadTT (s : State) (v : Nat) : State :=
  let sh := shiftTick s.now v
  let shI := shiftInt s.now v
  let sh256 (x : Nat) : Nat := shiftPos 256 s.now v x
  let cell (e : Nat × Cell) : Nat × Cell :=
    (e.1, { e.2 with oneSince := e.2.oneSince.map shI, lastOne := e.2.lastOne.map shI })
  let trig (x : Trig) : Trig := { x with reach := sh x.reach, t := sh256 x.t }
  let step (u : Nat) : Nat := s.acqStep u
  let idx (u x : Nat) : Nat := ((x : Int) + 256 * ((v : Int) - s.now) / step u).toNat
  let smp (u : Nat) (x : AcqSample) : AcqSample := { x with index := idx u x.index }
  let acq (e : Nat × Acq) : Nat × Acq :=
    (e.1, { e.2 with
      fillAt := sh e.2.fillAt
      closeAt := sh e.2.closeAt
      recAt := sh e.2.recAt
      past := e.2.past.map (smp e.1)
      trigs := e.2.trigs.map trig
      rcd := e.2.rcd.map (fun (r : AcqRec) => { r with first := idx e.1 r.first }) })
  { s with
    tt := BitVec.ofNat 64 v
    ttFrom := v
    epochV := v
    wrTick := s.wrTick.map sh
    newVerdicts := s.newVerdicts.map (fun (e : Nat × Nat × Option Verdict) => (sh e.1, e.2))
    links := s.links.map (fun (e : Nat × Link) => (e.1, { e.2 with errs := 0, decN := 0, synN := 0, mgmtN := 0 }))
    rfSettled := sh s.rfSettled
    satFrom := sh s.satFrom
    clipFrom := sh s.clipFrom
    cueMuted := s.cueMuted.map (fun (e : Nat × Nat) => (e.1, sh e.2))
    slots := s.slots.map (fun (e : Nat × Slot) => (e.1, e.2.shift s.now v))
    flux := s.flux.map (fun (e : Nat × Flux) => (e.1, e.2.shift s.now v))
    ts := sh s.ts
    runEnd := sh s.runEnd
    safeAt := sh s.safeAt
    gate := s.gate.map (fun (g : GatePass) => { g with tick := sh g.tick })
    streams := s.streams.map (fun (e : Nat × List DemodSet) => (e.1, e.2.map (fun (d : DemodSet) => { d with m := sh (2 * d.m) / 2 })))
    hkp := { s.hkp with cut := true }
    actTail := s.actTail.map (fun (x : Nat × Nat × Nat) => (x.1, x.2.1, sh x.2.2))
    due := s.due.map (fun (d : Due) => { d with tick := sh d.tick })
    evalAt := s.evalAt.map sh
    lastCue := s.lastCue.map (fun (e : Nat × Int) => (e.1, shI e.2))
    cells := s.cells.map cell
    pauliTick := sh s.pauliTick
    acqs := s.acqs.map acq
    mvp := s.mvp.shift sh (shiftPos 64 s.now v)
    tdc := s.tdc.map (fun (e : Nat × Nat) => (e.1, sh256 e.2))
    mem := { s.mem with stallTo := 0, ue := [] } }

/-! Trim (R47). -/

/-- The trim that XEN selects. -/
def State.trimSel (s : State) : Nat := s.xfld clkTimeCtrlXen clkSkewTrimOvr (s.fld clkSkewCalTrimCal)

/-- In CALIBRATE the selected trim takes effect, and a change re-settles the sample clocks. -/
def State.applyTrim (s : State) : State :=
  if s.mode = .calibrate ∧ s.fld clkSkewTrimEff ≠ s.trimSel then
    let s1 := { s.put clkSkewTrimEff s.trimSel with resettling := true }
    (s1.acqs.map (·.1)).foldl (fun st u => st.acqSettle u) s1
  else s

/-! Domains (R53). -/

/-- A domain's source: 0 none, 1 PTP, 2 TIME frames. -/
def State.domSrc (s : State) (b : Bool) : Nat := s.fld (if b then clkTimeCtrlSrcB else clkTimeCtrlSrcA)

/-- A domain. -/
def State.dom (s : State) (b : Bool) : Dom := if b then s.domB else s.domA

/-- Replace a domain. -/
def State.setDom (s : State) (b : Bool) (d : Dom) : State := if b then { s with domB := d } else { s with domA := d }

/-- A domain's offset is WT minus source, in ns, as its registers show it. -/
def State.domOffset (s : State) (b : Bool) (off : Int) : State :=
  let s1 := s.setDom b { s.dom b with offset := off }
  let s2 := s1.put (clkDomStatOffset (b2n b)) (twos 30 (clampInt (-(2 ^ 29 - 1)) (2 ^ 29 - 1) off))
  s2.put (clkDomStatFar (b2n b)) (b2n (decide (1000000 < off.natAbs)))

/-- A source gives a domain an offset: its offset and frequency estimate are brought up to date (R53). -/
def State.domEstimate (s : State) (b : Bool) (off : Int) : State :=
  let d := s.dom b
  let f := Config.domFreq d.freq d.offset off (s.up - d.at_)
  (s.setDom b { d with present := true, freq := f, at_ := s.up }).domOffset b off

/-- The selected domain's offset. -/
def State.selOffset (s : State) : Int := if s.flag clkTimeCtrlSel then s.domB.offset else s.domA.offset

/-- A step of WT is permitted (R50). -/
def State.stepOk (s : State) : Bool := s.flag clkTimeCtrlStepEn && s.mode != .armed && s.mode != .run && decide (1000000 < s.selOffset.natAbs)

/-- WT is set: seconds, nanoseconds, fraction. Both domains' offsets move with it (R53). -/
def State.setWt (s : State) (sec ns frac : Nat) : State :=
  let d : Int := ((sec * 1000000000 + ns : Nat) : Int) - (s.wtSec * 1000000000 + s.wtNs : Nat)
  let s1 := { s.markWt with wtSec := sec, wtNs := ns, wtFrac := frac }
  [false, true].foldl (fun st b => if st.domSrc b = 0 then st else st.domOffset b ((s.dom b).offset + d)) s1

/-- WT moved by a whole number of nanoseconds; its fraction is kept (R50 is silent on it: DESIGN CHOICE, log 127). -/
def State.moveWt (s : State) (d : Int) : State :=
  let n : Int := ((s.wtSec * 1000000000 + s.wtNs : Nat) : Int) + d
  s.setWt (n / 1000000000 % (2 ^ 48 : Int)).toNat (n % 1000000000).toNat s.wtFrac

/-- WT in 2^-16 ns. -/
def State.wtFine (s : State) : Int := ((s.wtSec * 1000000000 + s.wtNs : Nat) : Int) * 2 ^ 16 + (s.wtFrac / 2 ^ 16 : Nat)

/-- A domain's source is lost (R53): LOCKED is 0, and what PTP has heard is forgotten. -/
def State.sourceLost (s : State) (b : Bool) : State :=
  (s.setDom b { s.dom b with present := false, masters := [], await := none, last := none, req := none, delay := none }).put
    (clkDomStatLocked (b2n b)) 0

/-- The period of TIME frames (R54), counted from 1. -/
def State.timePeriod (s : State) : Nat := s.now / 2 ^ 20 + 1

end Sys2Proof.Machine
end

