-- ==== Sys2Proof/Machine/Command.lean ====
section
/-! DEFINITION. Administrative commands: how one is judged (R22 to R28, R305), taken from the queue (R340) and completed (R307);
the settings journal (R350, R351); and the commands that read, commit or set thresholds (R307, R313, R339, R362, R375). -/
namespace Sys2Proof

/-- Word k of a command entry, 1 to 15 (R305). -/
def Cmd.w (c : Cmd) (k : Nat) : Word := c.words.getD (k - 1) 0

/-- A 64-bit parameter, low word first. -/
def Cmd.w64 (c : Cmd) (k : Nat) : Nat := (c.w k).toNat + 2 ^ 32 * (c.w (k + 1)).toNat

/-- Words 1 to 15. -/
def Cmd.params (c : Cmd) : List Word := (List.range 15).map (fun i => c.w (i + 1))

end Sys2Proof

namespace Sys2Proof.Machine

/-- Reserved bits and unused words are 0 (R305): only the bits of the listed words' masks may be set. -/
def Cmd.only (c : Cmd) (ms : Tab Nat) : Bool :=
  c.rsvd == 0 && (List.range 15).all (fun i => within (c.w (i + 1)).toNat (tabGet ms (i + 1) 0))

/-- A whole word. -/
def wordMask : Nat := 0xFFFFFFFF

/-- The legality matrix (R27): the modes of each opcode, `none` for an opcode the matrix does not list. -/
def legalModes (op : Nat) : Option (List Mode) :=
  let sca : List Mode := [.standby, .calibrate, .armed]
  let upAll : List Mode := [.standby, .calibrate, .armed, .run, .safe, .service]
  match op with
  | 0x01 => some (.boot :: .dormant :: upAll)
  | 0x02 => some (.boot :: upAll)
  | 0x10 => some [.dormant, .standby, .calibrate, .armed, .safe, .service]
  | 0x11 => some [.standby]
  | 0x12 => some sca
  | 0x13 => some sca
  | 0x14 => some [.armed]
  | 0x15 => some [.run]
  | 0x16 => some (.dormant :: upAll)
  | 0x17 => some [.standby]
  | 0x20 => some sca
  | 0x21 => some [.standby, .calibrate, .armed, .run]
  | 0x22 => some sca
  | 0x23 => some sca
  | 0x24 => some upAll
  | 0x30 => some [.calibrate, .armed, .run]
  | 0x31 => some [.calibrate, .armed, .run, .safe]
  | 0x32 => some [.calibrate]
  | 0x33 => some [.calibrate]
  | 0x40 => some [.standby, .calibrate, .armed, .service]
  | 0x41 => some upAll
  | 0x50 => some [.standby, .service]
  | 0x51 => some [.standby, .calibrate, .armed, .run, .service]
  | 0x52 => some [.service]
  | 0x60 => some [.standby, .service]
  | 0x61 => some [.service]
  | 0x62 => some [.standby, .service]
  | 0x70 => some upAll
  | 0x71 => some upAll
  | 0x72 => some upAll
  | _ => none

/-- A command is legal in a mode. -/
def legal (op : Nat) (m : Mode) : Bool :=
  match legalModes op with
  | some l => l.contains m
  | none => false

/-- How a command of well-formed words stands (R22 to R28): executed, or completed with a status. -/
def State.verdict (s : State) (op : Nat) : Option Status :=
  if (s.bootFailed || s.fld glbCallerStatState == 4) && s.mode != .dormant && op != 0x01 && op != 0x02 then some .fault
  else match s.trans with
  | some t =>
    if 0x10 ≤ op ∧ op ≤ 0x17 then some .busy
    else match legal op s.mode, legal op t.target with
    | true, true => none
    | false, false => some .state
    | _, _ => some .busy
  | none => if legal op s.mode then none else some .state

/-- Commands of undefined opcode at the head of the queue complete with FORMAT (R305). -/
def State.skim : List QueuedCmd → State → State
  | [], s => { s with adminQ := [] }
  | q :: qs, s =>
    if (legalModes q.opcode).isNone then State.skim qs ((s.complete q.tag q.opcode .format)) else { s with adminQ := q :: qs }

/-- Serve undefined opcodes that stand at the head of the queue. -/
def State.skimQ (s : State) : State := if s.callerServing then State.skim s.adminQ s else s

/-- The command leaves the queue (R340): with commands queued, only the one at the head executes. -/
def State.popAdmin (s : State) (op : Nat) (c : Cmd) : Option State :=
  if !s.callerServing then none
  else match s.adminQ with
  | [] => some s
  | q :: qs =>
    if q.tag = c.tag ∧ q.opcode = op ∧ q.rsvd = c.rsvd ∧ (pad16 q.words).take 15 = c.params then
      some ({ s with adminQ := qs }.skimQ)
    else none

/-- An administrative command begins to execute: format first, legality next, then `body` with the guards (R305). -/
def State.admin (s : State) (op : Nat) (c : Cmd) (okFormat : Bool) (body : State → State) : Res :=
  match s.popAdmin op c with
  | none => .next s
  | some s1 =>
    if !okFormat then .next (s1.complete c.tag op .format)
    else match s1.verdict op with
    | none => .next (body s1)
    | some .state => .next ((s1.countReg .svcStateRej).complete c.tag op .state)
    | some st => .next (s1.complete c.tag op st)

/-! The flash-write window and the journal. -/

/-- A threshold's flag: zone z, threshold k (LOW_CRIT, LOW_WARN, HOT_WARN, HOT_SAFE, CRIT). -/
def State.zoneFlag (s : State) (z k : Nat) : Bool := (tabGet s.hkp.zones (z * 5 + k) {}).flag

/-- The flash-write window is open (R361). -/
def State.flashOpen (s : State) : Bool := !s.zoneFlag 5 1 && !s.zoneFlag 5 2

/-- The setting a record holds. -/
def JRec.slot : JRec → Nat
  | .key .. => 1
  | .links .. => 2
  | .thr z .. => 3 + z

/-- Every journalled setting as it stands (R350). -/
def State.journalNow (s : State) : List JRec :=
  let c := s.linkCfg
  (if c.keySet then [JRec.key c.key c.kid] else [])
    ++ [.links c.nx c.ny c.nz c.v1 c.authReq c.en]
    ++ (List.range 10).map (fun z => .thr z (s.rd .hkpThrA z) (s.rd .hkpThrB z))

/-- The journal region in use (R350). -/
def Flash.journalIn (f : Flash) : JRegion := if f.region then f.jB else f.jA

/-- Its whole records, oldest first, and whether a torn one follows them. -/
def Flash.recs (f : Flash) : List JRec := f.journalIn.recs.map (·.2)
def Flash.torn (f : Flash) : Bool := f.journalIn.torn

/-- A region of the journal is replaced. -/
def Flash.setRegion (f : Flash) (b : Bool) (j : JRegion) : Flash := if b then { f with jB := j } else { f with jA := j }

/-- Records with the sequence numbers that follow those of the region in use. -/
def Flash.numbered (f : Flash) (rs : List JRec) : List (Nat × JRec) :=
  let n := match f.journalIn.recs.getLast? with | some e => e.1 + 1 | none => 0
  (rs.zipIdx).map (fun e => (n + e.2, e.1))

/-- Records are appended; after a torn record, or where the region is full, every current value `now` is written to the other region
with higher sequence numbers, and the old region is erased (R350). -/
def Flash.append (f : Flash) (full : Bool) (now rs : List JRec) : Flash :=
  if f.torn || full then
    { (f.setRegion (!f.region) { recs := f.numbered now }).setRegion f.region {} with region := !f.region }
  else f.setRegion f.region { recs := f.journalIn.recs ++ f.numbered rs }

/-- Records are journalled. How much a record takes is not given, so what is used, and whether the region can take it, is left open
(log 18). -/
def State.journal (s : State) (rs : List JRec) : State :=
  let q := s.takeFree
  let w : Word := Config.freeWord q.1
  let g := s.flash.append (w.bit 31) s.journalNow rs
  ({ q.2 with flash := g }.put glbPersistRegion (b2n g.region)).put glbPersistUsed (w.bits 30 0 % 1025)

/-- A command's persistent settings are journalled, or wait for the window (R351): completion word 5 is 1 when they wait. -/
def State.persist (s : State) (rs : List JRec) : State × List Word :=
  let left := s.flash.todo.filter (fun r => !(rs.any (fun x => x.slot == r.slot)))
  if s.flashOpen then
    let s1 := ({ s with flash := { s.flash with todo := left } }).journal rs
    (if left.isEmpty then s1.put glbPersistPend 0 else s1, [])
  else ({ s with flash := { s.flash with todo := left ++ rs } }.raiseBit glbPersistPend, [1])

/-! Commands. -/

/-- GET_STATUS (R307). -/
def execGetStatus (c : Cmd) (s : State) : Res :=
  s.admin 0x01 c (Cmd.only c []) (fun t => t.complete c.tag 0x01 .ok 0
    [t.modeWord, t.rd .glbSafeCause, t.rd .glbXingStat, t.rd .clkEpoch, t.rd .clkRefStat, t.rd .glbStreamStat, t.rd .qryStat,
     t.rd .hstLinkStat])

/-- READ_LOG (R375). -/
def execReadLog (c : Cmd) (s : State) : Res :=
  s.admin 0x02 c (Cmd.only c [(1, wordMask)]) (fun t =>
    let i := (c.w 1).toNat
    let next := t.rdn .svcLogNext
    if i < next ∧ next ≤ i + t.fld svcLogStatHeld then
      t.complete c.tag 0x02 .ok 0 (memWords t.sram (logBase + 32 * (i % 4096)) 8)
    else t.complete c.tag 0x02 .range)

/-- COMMIT (R313): every accepted host write is already visible to every requester. -/
def execCommit (c : Cmd) (s : State) : Res :=
  s.admin 0x24 c (Cmd.only c []) (fun t => t.complete c.tag 0x24 .ok)

/-- READ_TELEMETRY (R339): the data is not described. -/
def execReadTelemetry (c : Cmd) (s : State) : Res :=
  s.admin 0x71 c (Cmd.only c []) (fun t =>
    let ws := (List.range 10).map (fun i => Config.freeWord (t.free + i))
    { t with free := t.free + 10 }.complete c.tag 0x71 .ok 0 ws)

/-- The thresholds of a SET_THRESHOLDS lie in their ranges, each at least 6 °C above the one before (R362). -/
def thrOk (a b : Word) : Bool :=
  let t := [sext 8 (a.bits 7 0), sext 8 (a.bits 15 8), sext 8 (a.bits 23 16), sext 8 (a.bits 31 24), sext 8 (b.bits 7 0)]
  decide (-10 ≤ t.getD 0 0) && decide (t.getD 3 0 ≤ 100) && decide (t.getD 4 0 ≤ 110)
    && (List.zip t (t.drop 1)).all (fun p => decide (p.1 + 6 ≤ p.2))

/-- Zone z takes new thresholds; the round in progress is still judged by those that stood before (R362). -/
def State.setThr (s : State) (z : Nat) (a b : Word) : State :=
  let old := if (tabFind s.hkp.thr z).isSome then s.hkp.thr else tabPut s.hkp.thr z (s.rd .hkpThrA z, s.rd .hkpThrB z)
  ({ s with hkp := { s.hkp with thr := old } }.setReg ⟨.hkpThrA, z, 0⟩ a).setReg ⟨.hkpThrB, z, 0⟩ b

/-- SET_THRESHOLDS (R362, R351). -/
def execSetThresholds (c : Cmd) (s : State) : Res :=
  let z := (c.w 1).bits 3 0
  s.admin 0x70 c (Cmd.only c [(1, 0x8000000F), (2, wordMask), (3, 0xFF)] && (z < 10 || z == 15)) (fun t =>
    if !thrOk (c.w 2) (c.w 3) then t.complete c.tag 0x70 .range
    else
      let zs := if z = 15 then List.range 10 else [z]
      let t1 := zs.foldl (fun st i => st.setThr i (c.w 2) (c.w 3)) t
      if (c.w 1).bit 31 then
        let p := t1.persist (zs.map (fun i => .thr i (c.w 2) (c.w 3)))
        p.1.complete c.tag 0x70 .ok 0 p.2
      else t1.complete c.tag 0x70 .ok)

end Sys2Proof.Machine
end

