-- ==== Sys2Proof/Machine/MemCore.lean ====
section
/-! DEFINITION. Bulk memory's shared conditions (18): groups in service (R319 to R323), uncorrectable errors (R325), the
schedules fixed to TT (R39), the row of a block (R330). -/
namespace Sys2Proof.Machine

/-- The next tick at which a schedule of a period begins an interval (R39): a multiple of the period after the present tick,
at least half a period after TT started or was loaded. -/
def State.nextInterval (s : State) (period : Nat) : Nat :=
  let b := (s.now / period + 1) * period
  if 2 * b < 2 * s.ttFrom + period then b + period else b

/-- The first tick of a schedule's next interval is reached (R39): in BOOT the schedules run on elapsed ticks. -/
def State.toInterval (s : State) (period : Nat) : State :=
  if s.mode = .boot then s.elapseTo ((s.up / period + 1) * period) else s.advanceTo (s.nextInterval period)

/-- Groups in service. -/
def State.groupsUp (s : State) : Nat := popCount 4 (s.fld memStatInService)

/-- LIMIT follows the groups in service, and OVERSUB the rings open (R149, R150). -/
def State.setLimit (s : State) : State :=
  let limit := 5 * s.groupsUp
  (s.put glbStreamStatLimit limit).put glbStreamStatOversub (b2n (limit < s.fld glbStreamStatOpenCnt))

/-- Group g leaves service between full trainings (R321). -/
def State.groupLeaves (s : State) (g : Nat) : State :=
  if !(s.fld memStatInService).testBit g then s
  else
    let s1 := (s.put memStatInService (s.fld memStatInService - 2 ^ g)).put memStatLeft (s.fld memStatLeft ||| 2 ^ g)
    (s1.setLimit).logEntry 0x05 1 g (s1.rd .memStat)

/-- The row of a byte offset, as channel × 2^22 + bank × 2^18 + row. -/
def State.rowOf (s : State) (a : Nat) : Option Nat :=
  (s.channelOf a).map (fun c => c * 2 ^ 22 + Config.rowPlace (a / 256 / (4 * s.fld memStatN)) % 2 ^ 22)

/-- An uncorrectable error in the line of a byte offset (R325, R321). -/
def State.uncorrectable (s : State) (a : Nat) : State :=
  let line := a / 64
  let s1 := (s.countReg .memEccUe).wr64 .memErrLo .memErrHi (64 * line)
  let s2 := { s1 with poison := if s1.poison.contains line then s1.poison else s1.poison ++ [line] }.sysCue 934
  match s2.channelOf a, s2.rowOf a with
  | some c, some row =>
    let cands := if s2.mem.cands.contains row || 32 ≤ s2.mem.cands.length then s2.mem.cands else s2.mem.cands ++ [row]
    let n := tabGet s2.mem.ue c 0 + 1
    let s3 := { s2 with mem := { s2.mem with ue := tabPut s2.mem.ue c n, cands := cands } }.put memPprStatCand cands.length
    if 8 ≤ n then s3.groupLeaves (c / 4) else s3
  | _, _ => s2

/-- The widest run of passing codes from code `c` on, as its first code and its length: the first of the widest. `lo` and `n` are the
run that ends before `c`, `best` the widest before it. -/
def widestFrom (pass : BitVec 128) : Nat → Nat → Nat × Nat → Nat × Nat → Nat × Nat
  | 0, _, _, best => best
  | fuel + 1, c, (lo, n), best =>
    if pass.getLsbD c then
      let run := (if n = 0 then c else lo, n + 1)
      widestFrom pass fuel (c + 1) run (if best.2 < run.2 then run else best)
    else widestFrom pass fuel (c + 1) (0, 0) best

/-- The widest passing window of a lane over codes 0 to 127 (R323). -/
def sweepWindow (sw : List Sweep) (c : Nat) (lane : SweepLane) : Nat × Nat :=
  match sw.find? (fun x => x.channel.val == c && x.lane == lane) with
  | some x => widestFrom x.pass 128 0 (0, 0) (0, 0)
  | none => (0, 128)

/-- The centre of a lane's window, rounded down (R323). -/
def sweepCentre (sw : List Sweep) (c : Nat) (lane : SweepLane) : Nat :=
  (sweepWindow sw c lane).1 + ((sweepWindow sw c lane).2 - 1) / 2

/-- A channel has a working setting: no window narrower than 16 codes (R323). -/
def channelWorks (sw : List Sweep) (c : Nat) : Bool :=
  [SweepLane.rd0, .rd1, .wr0, .wr1].all (fun lane => decide (16 ≤ (sweepWindow sw c lane).2))

/-- A channel takes its trained delays (R323). The margin before the first measurement of R324 is left open (log 22). -/
def State.trainChannel (s : State) (sw : List Sweep) (c : Nat) : State :=
  let q := s.takeFree
  let w : Word := Config.freeWord q.1
  q.2.setReg ⟨.memChDly, c, 0⟩ (BitVec.ofNat 32 (w.bits 30 24 * 2 ^ 24 + sweepCentre sw c .wr0 * 2 ^ 14 + sweepCentre sw c .rd1 * 2 ^ 7
    + sweepCentre sw c .rd0))

/-- The groups whose four channels each have a working setting (R321, R323). -/
def groupsFound (sw : List Sweep) : Nat :=
  (((List.range 4).filter (fun g => (List.range 4).all (fun i => channelWorks sw (4 * g + i)))).map (2 ^ ·)).sum

/-- A full training (R319, R321, R322, R323) with the sweeps it makes: the map, the reductions, and contents that are lost unless the
map stands. Under XEN no sweep result is applied, so no group fails. -/
def State.fullTrain (s : State) (sw : List Sweep) (keep : Bool) : State :=
  let ok := if s.flag memCtrlXen then 0xF else groupsFound sw
  let gs := (List.range 4).filter (fun g => ok.testBit g)
  let map := (gs.zipIdx.map (fun e => e.1 * 4 ^ e.2)).foldl (· + ·) 0
  let same := keep && s.fld memStatN == gs.length && s.fld memStatMap == map
  let s1 := (((s.put memStatMap map).put memStatN gs.length).put memStatLeft 0).put memStatInService ok
  let s2 := if same then s1 else { s1 with bulk := [], poison := [] }
  let s3 := if s.flag memCtrlXen then s2 else
    gs.foldl (fun st g => (List.range 4).foldl (fun x i => x.trainChannel sw (4 * g + i)) st) s2
  let s4 := { s3 with mem := { s3.mem with selfRef := 0, lastReq := [], ue := [] } }.setLimit
  ((List.range 4).filter (fun g => !ok.testBit g)).foldl (fun st g => st.logEntry 0x05 1 g (st.rd .memStat)) s4

end Sys2Proof.Machine
end

