-- ==== Sys2Proof/Machine/EngRegs.lean ====
section
/-! DEFINITION. What an engine's control window shows (04 Control window, 10 Registers, 15), and the verdict table and Pauli
frame as an instruction reads them (R88, R203). -/
namespace Sys2Proof.Machine

/-- The code of an engine state (R72). -/
def engStateCode : EngState → Nat
  | .unloaded => 0 | .idle => 1 | .held => 2 | .running => 3 | .waiting => 4 | .stalled => 5 | .halted => 6 | .faulted => 7

/-- A queue entry that a timeline instruction deposited. A PLAY of an invalid descriptor and a skipped window leave only a
mark of what they would have done (R68, R134). -/
def deposited (q : QEff) : Bool :=
  match q.eff with
  | .noseg | .wopen _ _ true => false
  | _ => true

/-- Effects an engine holds (R64). -/
def Eng.depth (g : Eng) : Nat := (g.queue.filter deposited).length

/-- The invalid condition of an ME (R152, R185). -/
def State.meInv (s : State) (g : Eng) : Bool := g.me.inv || s.flag glbStreamStatShotInval

/-- An address generator of an ME. -/
def Me.ag (m : Me) (a : Nat) : AddrGen := match a with | 0 => m.ag0 | 1 => m.ag1 | 2 => m.ag2 | _ => m.ag3

/-- Replace an address generator. -/
def Me.setAg (m : Me) (a : Nat) (x : AddrGen) : Me :=
  match a with | 0 => { m with ag0 := x } | 1 => { m with ag1 := x } | 2 => { m with ag2 := x } | _ => { m with ag3 := x }

/-- An address generator as a use in tick p finds it (R186): the CBSETs of earlier ticks have taken effect. -/
def Me.agAt (m : Me) (k p : Nat) : AddrGen :=
  (m.cbs.filter (fun c => c.ag == k && decide (c.tick < p))).foldl
    (fun a c => ⟨c.base, c.len, if c.rst then 0 else a.off⟩) (m.ag k)

/-- A landed window that is not fully consumed. -/
def winPending (w : MeWin) : Bool := w.consumed < w.len

/-- Open-window requests queued or still landing (ME_STAT.WIN_OPEN). -/
def Eng.winOpen (g : Eng) : Nat :=
  g.depth + (g.me.wins.filter (fun w => !(w.skipped && w.arrived == 0) && decide (w.arrived < w.len))).length

/-- ME_STAT. -/
def State.meStatWord (s : State) (g : Eng) : Word :=
  BitVec.ofNat 32 (b2n (s.meInv g) * 2 ^ 31 + b2n g.me.run.isSome * 2 ^ 30 + min 8 g.winOpen * 2 ^ 24
    + min 255 (g.me.wins.filter winPending).length * 2 ^ 16 + g.me.buf.length % 2 ^ 13)

/-- The word of an engine's window at a byte offset: logical number n, physical engine p. -/
def State.engWord (s : State) (p off : Nat) : Word :=
  let g := s.engP p
  let me := clsOfPhys p == .me
  let acc (v : Int) (hi : Bool) : Word := if hi then BitVec.ofInt 32 (v / 2 ^ 32) else BitVec.ofInt 32 v
  if 0x80 ≤ off && off < 0x100 && off % 4 == 0 then g.reg ((off - 0x80) / 4)
  else if off = 0x04 then BitVec.ofNat 32 (b2n g.lateCue * 4 + b2n g.faultAct * 2 + b2n g.latePol)
  else if off = 0x08 then
    BitVec.ofNat 32 (min 15 g.depth * 2 ^ 8 + clsCode (clsOfPhys p) * 2 ^ 6 + engStateCode g.state)
  else if off = 0x0C then g.faultWord
  else if off = 0x10 then BitVec.ofNat 32 (g.pc % 16384)
  else if off = 0x14 then BitVec.ofNat 32 g.tc.toNat
  else if off = 0x18 then BitVec.ofNat 32 (g.tc.toNat >>> 32)
  else if off = 0x1C then BitVec.ofNat 32 g.lateCnt
  else if off = 0x20 then BitVec.ofNat 32 g.fltPc
  else if off = 0x24 then g.lsr
  else if off = 0x28 then match g.img with
    | some i => BitVec.ofNat 32 (2 ^ 31 + i.level * 2 ^ 16 + i.entry)
    | none => 0
  else if off = 0x30 then BitVec.ofNat 32 (g.preds ||| 1).toNat
  else if off = 0x3C then g.abortState
  else if 0x40 ≤ off && off < 0x50 && off % 4 == 0 then
    match g.loops.reverse[(off - 0x40) / 4]? with
    | some c => BitVec.ofNat 32 (2 ^ 31 + c.count % 2 ^ 24)
    | none => 0
  else if !me then 0
  else if off = 0x34 then BitVec.ofNat 32 (b2n g.ovCue)
  else if off = 0x38 then s.meStatWord g
  else if off = 0x50 then acc g.me.accI false
  else if off = 0x54 then acc g.me.accI true
  else if off = 0x58 then acc g.me.accQ false
  else if off = 0x5C then acc g.me.accQ true
  else if 0x60 ≤ off && off < 0x80 && off % 4 == 0 then
    let a := g.me.agAt ((off - 0x60) / 8) s.now
    if off % 8 = 0 then BitVec.ofNat 32 (a.len * 2 ^ 16 + a.base) else BitVec.ofNat 32 a.off
  else 0

/-- The logical engine a spare carries, if it is in use. -/
def State.spareUser (s : State) (p : Nat) : Option Nat := (s.engMap.find? (fun e => e.2 == p)).map (·.1)

/-- ENG_MAP of window n (04, R365). -/
def State.engMapWord (s : State) (n : Nat) : Word :=
  if n < 1024 then
    let p := s.phys n
    BitVec.ofNat 32 (b2n (1024 ≤ p) * 2 ^ 31 + p)
  else match s.spareUser n with
    | some e => BitVec.ofNat 32 (2 ^ 31 + 2 ^ 30 + e * 2 ^ 16 + n)
    | none => BitVec.ofNat 32 (2 ^ 31 + n)

/-- The physical engine that window n shows (04, R383). -/
def State.windowPhys (s : State) (n : Nat) : Nat := if n < 1024 then s.phys n else n

/-- A word of engine window n. -/
def State.windowWord (s : State) (n off : Nat) : Word :=
  if off = 0x2C then s.engMapWord n else s.engWord (s.windowPhys n) off

/-! Writes of the verdict table and the Pauli frame. -/

/-- Write entry v in tick t, the present one or one to come. Writes of earlier ticks go into the table. -/
def State.writeVerdict (s : State) (v t : Nat) (x : Option Verdict) : State :=
  let old := s.newVerdicts.filter (fun e => e.1 + 1 < s.now)
  let store (tb : Tab Verdict) (e : Nat × Nat × Option Verdict) : Tab Verdict :=
    match e.2.2 with
    | some y => tabPut tb e.2.1 y
    | none => tabDel tb e.2.1
  { s with verdicts := old.foldl store s.verdicts,
           newVerdicts := s.newVerdicts.filter (fun e => s.now ≤ e.1 + 1) ++ [(t, v, x)] }

/-- The Pauli frame entry of a qubit as an LDF issued in tick t reads it: before that tick's writes (R88). -/
def State.pauliAt (s : State) (q t : Nat) : BitVec 2 :=
  if s.pauliTick = t then tabGet s.pauliOld q 0 else tabGet s.pauli q 0

/-- Toggle a Pauli frame entry in the present tick (R216, R224). -/
def State.togglePauli (s : State) (q : Nat) (v : BitVec 2) : State :=
  let s1 := if s.pauliTick = s.now then s else { s with pauliOld := s.pauli, pauliTick := s.now }
  { s1 with pauli := tabPut s1.pauli q (tabGet s1.pauli q 0 ^^^ v) }

end Sys2Proof.Machine
end

