-- ==== Sys2Proof/Machine/Gate.lean ====
section
/-! DEFINITION. The write gate of segments (R136, R137) and the check of a descriptor (R133). Owner o is RF output o, or flux
output o - 80. -/
namespace Sys2Proof.Machine

/-- Descriptors with the jump targets that they keep active (R137): a worklist and the descriptors found. -/
def State.jtClose (s : State) (o : Nat) : Nat → List Nat → List Nat → List Nat
  | 0, _, done => done
  | _, [], done => done
  | n + 1, d :: ds, done =>
    if done.contains d then State.jtClose s o n ds done
    else
      let w := s.desc0 o d
      State.jtClose s o n (if dJen w then dJt w :: ds else ds) (done ++ [d])

/-- The active segments of an owner. -/
def State.activeOf (s : State) (o : Nat) : List Nat :=
  let base := (s.activeSegs.filter (fun x => x.1 == o)).map (·.2)
  let tail := (s.actTail.filter (fun x => x.1 == o && decide (s.now < x.2.2))).map (fun x => x.2.1)
  s.jtClose o (4096 + base.length + tail.length) (base ++ tail) []

/-- Granule ranges that the gate protects: those of active static segments and the regions of open rings. -/
def State.gateRegions (s : State) (o : Nat) : List (Nat × Nat) :=
  let segs := (s.activeOf o).filterMap (fun d =>
    let w := s.desc0 o d
    if dValid w && !dStream w then some (dStart w, dStart w + (s.desc1 o d).toNat / 16) else none)
  let rings := if o < 80 then (List.range 4).filterMap (fun r =>
      if s.flag (rfoRingStatOpen o r) then
        some (s.fld (rfoRingCfgRbase o r), s.fld (rfoRingCfgRbase o r) + s.fld (rfoRingCfgRlen o r))
      else none) else []
  segs ++ rings

/-- The gate drops a write of a descriptor. -/
def State.gateDesc (s : State) (o d : Nat) : Bool := (s.activeOf o).contains d

/-- The gate drops a write of some granule from `g`, `n` of them. -/
def State.gateGran (s : State) (o g n : Nat) : Bool := (s.gateRegions o).any (fun x => decide (g < x.2) && decide (x.1 < g + n))

/-- Write 0 over bit 31 of a descriptor's word 0. -/
def invalidDesc (w : Word) : Word := w &&& 0x7FFFFFFF

/-- A descriptor's words are stored and checked (R133). -/
def State.storeDesc (s : State) (o d : Nat) (w0 w1 : Word) : State :=
  let bad := dValid w0 && !descOk o w0 w1
  let x := if bad then invalidDesc w0 else w0
  let s1 := { s with sram := memSetWord (memSetWord s.sram (descAddr o d) x) (descAddr o d + 4) w1 }
  if bad then s1.raiseBit (descBad o) else s1

/-! A PLAY or PLAYF that issues later in the tick in which a write passed the gate turns that write into a dropped one (R137):
the passes of the present tick are kept with the bytes they replaced. -/

/-- A write passes the gate: `rs` are the byte ranges it is about to replace. -/
def State.passGate (s : State) (o : Nat) (desc : Option Nat) (gran : List (Nat × Nat)) (rs : List (Nat × Nat))
    (tag : Option (BitVec 16)) : State :=
  let old := rs.map (fun r => (r.1, (List.range r.2).map (fun i => memByte s.sram (r.1 + i))))
  let bad := desc.isSome && s.flag (descBad o)
  { s with gate := ⟨s.now, o, desc, gran, old, bad, tag⟩ :: s.gate.filter (fun g => g.tick == s.now) }

/-- One pass is undone: its bytes, a DESC_BAD it set, and its count as a drop (R136, R138). -/
def State.unpass (s : State) (g : GatePass) : State :=
  let s1 := { s with sram := g.old.foldl (fun (m : Memory) (r : Nat × List Byte) => memSets m r.1 r.2) s.sram
                     gate := s.gate.filter (· != g) }
  let s2 := if g.desc.isSome && !g.bad then s1.put (descBad g.owner) 0 else s1
  let s3 := s2.dropWrite g.owner
  match g.load with
  | none => s3
  | some t => { s3 with bg := s3.bg.map (fun b => if b.tag = t then
      (match b.job with | .loadSegments o ds n => { b with job := .loadSegments o (ds.filter (fun d => !g.desc.any (· == d))) (n + 1) } | _ => b) else b) }

/-- Segments that a PLAY or PLAYF names become active in the tick it issues (R137): writes of theirs that passed the gate
earlier in this tick are dropped, those of descriptors first. -/
def State.activate (s : State) (o : Nat) (segs : List Nat) : State :=
  let here (t : State) : List GatePass := t.gate.filter (fun g => g.tick == t.now && g.owner == o)
  let act (t : State) : List Nat := t.jtClose o 4096 segs []
  let s1 := (List.range (here s).length).foldl (fun t _ =>
    match (here t).find? (fun g => g.desc.any (fun d => (act t).contains d)) with
    | some g => t.unpass g
    | none => t) s
  let regions := (act s1).filterMap (fun d =>
    let w := s1.desc0 o d
    if dValid w && !dStream w then some (dStart w, dStart w + (s1.desc1 o d).toNat / 16) else none)
  ((here s1).filter (fun g => g.gran.any (fun r => regions.any (fun x => decide (r.1 < x.2) && decide (x.1 < r.2))))).foldl
    State.unpass s1

/-- Bytes of an address range of BAR2's segment part: the owner, the granule, and whether it is a library or a marker array. -/
def granOf (a : Nat) : Option (Nat × Nat) :=
  if a < 0x5000000 then some (a / 0x100000, a % 0x100000 / 64)
  else if a < 0x5500000 then some ((a - 0x5000000) / 0x10000, (a - 0x5000000) % 0x10000 / 4)
  else if 0x6000000 ≤ a ∧ a < 0x8000000 then some (80 + (a - 0x6000000) / 0x20000, (a - 0x6000000) % 0x20000 / 64)
  else none

/-- One word of a library or marker array passes the gate or is dropped (R136). -/
def State.libWord (s : State) (a : Nat) (w : Word) : State :=
  match granOf a with
  | some (o, g) =>
    if s.gateGran o g 1 then s.dropWrite o
    else { s.passGate o none [(g, g + 1)] [(a, 4)] none with sram := memSetWord s.sram a w }
  | none => s

end Sys2Proof.Machine
end

