-- ==== Sys2Proof/Machine/Issue.lean ====
section
/-! DEFINITION. One instruction issues (R59, R78 to R82): when it may, what makes it ILLEGAL, its condition, its cost, and what
a timeline instruction deposits (R63 to R68). -/
namespace Sys2Proof.Machine

/-- The tick in which engine e can issue its next instruction. -/
def State.issueTick (s : State) (e : Nat) : Nat := max s.now (s.eng e).ready

/-- The engine is at an instruction boundary and may issue: RUNNING, or STALLED for the timeline instruction that stalled,
with no micro-routine in progress and T_stop not reached. -/
def State.mayIssue (s : State) (e : Nat) (timeline : Bool) : Bool :=
  let g := s.eng e
  s.power && (g.state == .running || (timeline && g.state == .stalled)) && g.routine.isNone && !g.haltReq
    && !s.stopAt.any (fun x => x ≤ s.issueTick e)

/-- The instruction has issued: PC moves on by one, and the next issues `cost` ticks later. -/
def State.fin (s : State) (e cost : Nat) : State :=
  s.modEng e (fun g => { g with pc := g.pc + 1, ready := s.now + cost, state := .running })

/-- The instruction has issued and PC is set. -/
def State.finAt (s : State) (e pc cost : Nat) : State :=
  s.modEng e (fun g => { g with pc := pc, ready := s.now + cost, state := .running })

/-- Engine e issues an instruction. The command does not occur while the engine may not issue, or (`run` answers `none`)
while a wait named in its entry holds it (R82). Otherwise time comes to the issue tick, and the outcome is the fault of an earlier
transfer (R89) or accumulation (R58), ECC on a word of its own (R58, R273), ILLEGAL (R79), IADDR at index 16,383 for an instruction that
would fall through (R56), `skip` when the condition is 0 (R59), or `run`. `xfer`: with its condition 1 the instruction sets PC
itself. -/
def State.issue (s : State) (e : Nat) (f : JWord) (F : Form) (more : Eng → Bool) (xfer timeline : Bool)
    (skip : State → Eng → State) (run : State → Eng → Option State) : Res :=
  if !s.mayIssue e timeline then .next s
  else
    let s0 := s.advanceTo (s.issueTick e)
    match (s0.eng e).bdmaBad, (s0.eng e).eccBad, s0.fetchInstr e with
    | some pc, _, _ => .next ((s0.modEng e (fun g => { g with bdmaBad := none })).engFault e fBdma 0 (some pc))
    | none, some pc, _ => .next ((s0.modEng e (fun g => { g with eccBad := none })).engFault e fEcc 0 (some pc))
    | none, none, (s1, false) => .next (s1.engFault e fEcc)
    | none, none, (s1, true) =>
      let g := s1.eng e
      if !(legalForm F (clsOf e) g.level f && more g) then .next (s1.engFault e fIllegal)
      else if g.pc = 16383 && !(xfer && g.cond f) then .next (s1.engFault e fIaddr)
      else if g.cond f then .next ((run s1 g).getD s)
      else .next (skip s1 g)

/-- An instruction that acts at issue with a fixed cost and moves PC by one. -/
def State.issuePlain (s : State) (e : Nat) (f : JWord) (F : Form) (more : Eng → Bool) (cost : Nat)
    (act : State → Eng → State) : Res :=
  s.issue e f F more false false (fun t _ => t.fin e cost) (fun t g => some ((act t g).fin e cost))

/-! Timeline instructions. -/

/-- tc moves on (R59, R67). -/
def State.advTc (s : State) (e adv : Nat) : State := s.modEng e (fun g => { g with tc := g.tc + BitVec.ofNat 64 adv })

/-- Deposit an effect at tc, with the lead judged now (R63 to R68). `mark`: the queue entry a skipped instruction leaves. -/
def State.deposit (s : State) (e : Nat) (eff : Eff) (adv cost : Nat) (mark : Option Eff := none) : State :=
  let g := s.eng e
  let tc := g.tc.toNat
  if queueCap (clsOf e) ≤ g.depth then s.setEng e { g with state := .stalled }
  else match judgeLead (clsOf e) tc s.now g.lastTc with
  | .far => s.engFault e fTcFar
  | .back => s.engFault e fTcBack
  | .late =>
    let s1 := if g.lateCue then s.sysCue 904 else s
    if g.latePol then s1.engFault e fLate
    else
      let g1 := { (g.setLsr lsrLate) with lateCnt := satAdd 32 g.lateCnt 1, lastTc := some tc,
                                          queue := g.queue ++ (match mark with | some m => [⟨tc, m⟩] | none => []) }
      ((s1.setEng e g1).advTc e adv).fin e cost
  | .onTime => ((s.setEng e { g with queue := g.queue ++ [⟨tc, eff⟩], lastTc := some tc }).advTc e adv).fin e cost

/-- A timeline instruction (R59, R91): with condition 0 it advances tc and is not checked for lead. Then it also issues with a full
queue, without a stall, and it is not the instruction before the next one for TC_BACK: `lastTc` stays (DESIGN CHOICE, log 134:
R64 and R65 do not say). -/
def State.issueTimeline (s : State) (e : Nat) (f : JWord) (F : Form) (more : Eng → Bool) (cost : Nat)
    (adv : State → Eng → Nat) (eff : State → Eng → Eff) (mark : Option Eff := none) : Res :=
  s.issue e f F more false true (fun t g => (t.advTc e (adv t g)).fin e cost)
    (fun t g => some (t.deposit e (eff t g) (adv t g) cost mark))

end Sys2Proof.Machine
end

