-- ==== Sys2Proof/Machine/MeCore.lean ====
section
/-! DEFINITION. The datapath of a measurement engine (R97, R99, R180 to R187): address generators, products one per tick,
saturation, and the port rules. -/
namespace Sys2Proof.Machine

/-- Change a logical engine's ME datapath. -/
def State.modMe (s : State) (e : Nat) (f : Me → Me) : State := s.modEng e (fun g => { g with me := f g.me })

/-- One use of an address generator (R99, R186): the address, the stepped generator, and whether the offset was reduced. -/
def agUse (a : AddrGen) : Nat × AddrGen × Bool :=
  let wrap := a.len ≤ a.off
  let off := if wrap then a.off % a.len else a.off
  (a.base + 4 * off, { a with off := if off + 1 = a.len then 0 else off + 1 }, wrap)

/-- Use address generator k of ME e in tick p: its address, CBW when the offset was reduced. -/
def State.useAg (s : State) (e k p : Nat) : Nat × State :=
  let g := s.eng e
  let u := agUse (g.me.agAt k p)
  let g1 := { g with me := { g.me.setAg k u.2.1 with cbs := g.me.cbs.filter (fun c => !(c.ag == k && decide (c.tick < p))) } }
  (u.1, s.setEng e (if u.2.2 then g1.setLsr lsrCbw else g1))

/-- Steps that an ME can take. -/
def Eng.accFuel (g : Eng) : Nat := (match g.me.run with | some r => r.left + 1 | none => 0) + g.me.caps.length

/-- A word of a data memory as a fetch in tick p finds it: a write of that tick is not seen (R181). -/
def State.fetchWord (s : State) (e : Nat) (y : Bool) (a p : Nat) : Word :=
  match (s.eng e).me.wrote.find? (fun w => decide (p ≤ w.1) && w.2.1 == y && w.2.2.1 == a) with
  | some w => w.2.2.2
  | none => s.dataWord e y a

/-- A write port of a data memory writes a word in tick p. -/
def State.portWrite (s : State) (e : Nat) (y : Bool) (a p : Nat) (w : Word) : State :=
  let s1 := s.setDataWord e y a w
  if (s.eng e).accFuel = 0 then s1 else s1.modMe e (fun m => { m with wrote := m.wrote ++ [(p, y, a, s.dataWord e y a)] })

/-- The invalid condition is set (R185). -/
def State.meInvalid (s : State) (e : Nat) : State := s.modMe e (fun m => { m with inv := true })

/-- I and Q of an operand word (R97). -/
def iqOf (w : Word) : Int × Int := (sext 16 (w.bits 15 0), sext 16 (w.bits 31 16))

/-- The product of a and b, with b.Q negated under CONJ (R97, R183). -/
def product (a b : Int × Int) (conj : Bool) : Int × Int :=
  let q := if conj then -b.2 else b.2
  (a.1 * b.1 - a.2 * q, a.1 * q + a.2 * b.1)

/-- An addition or an RDA saturated: OV and the invalid condition; the overflow cue for a tick when OV_CUE asks for it and it
has not fired for this accumulation (R184). -/
def State.overflow (s : State) (e tick : Nat) (fired : Bool) : State :=
  let s1 := (s.modEng e (fun g => g.setLsr lsrOv)).meInvalid e
  if (s.eng e).ovCue && !fired then s1.raiseAt 908 (tick + 1) else s1

/-- Add one product at a tick to ACC (sat48, R97, R184). -/
def State.addProduct (s : State) (e tick : Nat) (p : Int × Int) (fired : Bool) : State × Bool :=
  let m := (s.eng e).me
  let sat := clampsS 48 (m.accI + p.1) || clampsS 48 (m.accQ + p.2)
  let s1 := s.modMe e (fun m => { m with accI := satS 48 (m.accI + p.1), accQ := satS 48 (m.accQ + p.2) })
  if sat then (s1.overflow e tick fired, true) else (s1, fired)

/-- The accumulation goes on after a product at a tick: one product less; after the last it completes in the next tick. -/
def AccRun.after (r : AccRun) (tick : Nat) (fired : Bool) : AccRun :=
  { r with left := r.left - 1, next := tick + 1, satSeen := fired }

/-- Tick t lies in the present run, or in the last one (R175). -/
def State.inRun (s : State) (t : Nat) : Bool := decide (s.ts ≤ t) && (s.mode == .run || decide (t < s.runEnd))

/-- A register of an RF input in force in tick t: in a run as it stood at T_s, otherwise a write governs from the next tick
(R175). -/
def State.rfiReg (s : State) (k : RegK) (i c t : Nat) : Word := if s.inRun t then s.heldReg k i c else s.regIn ⟨k, i, c⟩ t

/-- INV_TAG of an RF input in force (R175, R178). -/
def State.invTag (s : State) (i t : Nat) : Bool := (s.rfiReg .rfiCtrl i 0 t).bit 0

/-- RF input and channel of an ME (R12). -/
def inputOf (e : Nat) : Nat := (e - 768) / 16
def chanOf (e : Nat) : Nat := (e - 768) % 16

/-- An accumulation meets a word with more than one wrong bit (R58): it ends there, and its engine raises ECC when it next looks
for faults (DESIGN CHOICE, log 103). -/
def State.accEcc (s : State) (e tick : Nat) (r : AccRun) : State :=
  s.modEng e (fun g => { g with eccBad := some r.pc, me := { g.me with run := none, lastDone := tick + 1 } })

/-- One product of memory operands (MACX with WIN = 0). -/
def State.memProduct (s : State) (e : Nat) (r : AccRun) : State :=
  let ux := s.useAg e r.x r.next
  let uy := ux.2.useAg e r.y r.next
  match (uy.2.eccData e false ux.1).bind (fun t => t.eccData e true uy.1) with
  | none => s.accEcc e r.next r
  | some t =>
    let a := iqOf (t.fetchWord e false ux.1 r.next)
    let b := iqOf (t.fetchWord e true uy.1 r.next)
    let q := t.addProduct e r.next (product a b r.conj) r.satSeen
    q.1.modMe e (fun m => { m with run := some (r.after r.next q.2) })

/-- Windows are kept while their samples still arrive or wait (R97). -/
def Me.keepWins (m : Me) : Me := { m with wins := m.wins.filter (fun w => winPending w || decide (w.arrived < w.len)) }

/-- One product of a window sample, added at a tick; a tagged sample sets the invalid condition under INV_TAG (R178). -/
def State.winProduct (s : State) (e : Nat) (r : AccRun) (b : BufSample) (tick : Nat) : State :=
  let ux := s.useAg e r.x tick
  match ux.2.eccData e false ux.1 with
  | none => s.accEcc e tick r
  | some t =>
    let a := iqOf (t.fetchWord e false ux.1 tick)
    let q := t.addProduct e tick (product a (b.i, b.q) r.conj) r.satSeen
    let s1 := if b.tag && s.invTag (inputOf e) tick then q.1.meInvalid e else q.1
    s1.modMe e (fun m => Me.keepWins { m with
      run := some (r.after tick q.2),
      buf := m.buf.eraseP (fun x => x.win == b.win),
      wins := m.wins.map (fun w => if w.id = b.win then { w with consumed := w.consumed + 1 } else w) })

/-- The oldest capture still to be made is made through AG3 (R97, R187). -/
def State.makeCapture (s : State) (e : Nat) (c : Nat × Word) : State :=
  let u := s.useAg e 3 c.1
  (u.2.portWrite e true u.1 c.1 c.2).modMe e (fun m => { m with caps := m.caps.drop 1 })

/-- The next product of an accumulation: its tick and, for a window, its sample (R182). -/
def Me.nextProduct (m : Me) : Option (Nat × Option BufSample) :=
  match m.run with
  | some r =>
    if r.left = 0 then none
    else match r.win with
    | none => some (r.next, none)
    | some w => (m.buf.find? (fun x => x.win == w)).map (fun b => (max r.next b.avail, some b))
  | none => none

/-- Bring ME e up to the end of tick t (R180 to R182, R187): captures and products in the order of their ticks, a capture first in
a tick of both; an accumulation that completes in the tick after releases the interlock. -/
def State.catchUp (e t : Nat) : Nat → State → State
  | 0, s => s
  | fuel + 1, s =>
    let m := (s.eng e).me
    let prod := m.nextProduct.filter (fun p => decide (p.1 ≤ t))
    match m.caps.head?.filter (fun c => decide (c.1 ≤ t) && !prod.any (fun p => decide (p.1 < c.1))), prod, m.run with
    | some c, _, _ => State.catchUp e t fuel (s.makeCapture e c)
    | none, some (p, some b), some r => State.catchUp e t fuel (s.winProduct e r b p)
    | none, some (_, none), some r => State.catchUp e t fuel (s.memProduct e r)
    | none, none, some r =>
      if r.left = 0 ∧ r.next ≤ t + 1 then s.modMe e (fun m => { m with run := none, lastDone := r.next }) else s
    | none, _, none => s

/-- Bring ME e up to the end of tick t. Words written before that tick stand for every later fetch. -/
def State.meTo (s : State) (e t : Nat) : State :=
  (State.catchUp e t (s.eng e).accFuel s).modMe e (fun m => { m with wrote := m.wrote.filter (fun w => decide (t < w.1)) })

/-- An ME as the present tick finds it: everything of earlier ticks is done, and an accumulation that completes in this tick is
complete. -/
def State.meSeen (s : State) (e : Nat) : State := if (s.eng e).accFuel = 0 then s else s.meTo e (s.now - 1)

/-- The first overflow cue that accumulations in flight raise with the samples that are here (R184). -/
def State.accCue (s : State) : Option Nat :=
  (s.engs.filter (fun x => x.2.me.run.isSome && x.2.ovCue)).foldl (fun m x =>
    let e := s.logical x.1
    (((State.catchUp e (s.now + 2 ^ 20) x.2.accFuel s).due.drop s.due.length).map (·.tick)).foldl (fun a d => minOpt a (some d)) m) none

/-- The fabric's next tick with something to do. -/
def State.fabricNext (s : State) : Option Nat := minOpt s.cueTick s.accCue

/-- Bring every ME up to the end of tick t. -/
def State.mesTo (s : State) (t : Nat) : State :=
  (s.engs.filter (fun x => x.2.accFuel != 0)).foldl (fun st x => st.meTo (st.logical x.1) t) s

/-- The ticks of the products that an accumulation has still to add, in order, as the samples in the buffer and those still to
arrive give them (R97, R176, R182). -/
def productTicks : List Nat → Nat → Nat → List Nat
  | _, 0, _ => []
  | [], _ + 1, _ => []
  | a :: as, n + 1, next => max next a :: productTicks as n (max next a + 1)

/-- An accumulation uses the read port of X (`y` false) or Y in tick t (R180, R181), once the ME has been brought up to tick
t - 1. -/
def Me.reads (m : Me) (y : Bool) (t : Nat) : Bool :=
  match m.run with
  | none => false
  | some r => match r.win with
    | none => decide (r.next ≤ t) && decide (t < r.next + r.left)
    | some w =>
      let here := (m.buf.filter (fun x => x.win == w)).map (·.avail)
      let later := match m.wins.find? (fun x => x.id == w) with
        | some x => (List.range (x.len - x.arrived)).map (fun i => 2 * (x.m0 + x.arrived + i) + 28)
        | none => []
      !y && (productTicks (here ++ later) r.left r.next).contains t

/-- A capture uses the write port of Y in tick t (R181): one that waits, or one whose sample arrives in that tick. -/
def Me.captures (m : Me) (t : Nat) : Bool :=
  m.caps.any (fun c => c.1 == t)
    || m.wins.any (fun w => w.cap && !(w.skipped && w.arrived == 0) && decide (w.arrived < w.len) && 2 * (w.m0 + w.arrived) + 28 == t)

/-- The accumulator interlock holds an instruction of ME e in the present tick (R97). -/
def State.interlocked (s : State) (e : Nat) : Bool := (s.meSeen e).eng e |>.me.run.isSome

end Sys2Proof.Machine
end

