-- ==== Sys2Proof/Machine/Control.lean ====
section
/-! DEFINITION. The control instructions of J-ISA (R83 to R85). -/
namespace Sys2Proof.Machine

/-- NOP (R83). -/
def execNop (e : Fin 1024) (f : JWord) (s : State) : Res := s.issuePlain e f {} (fun _ => true) 1 (fun t _ => t)

/-- JMP (R83): a register target of which bits [31:14] are not 0 raises IADDR. -/
def execJmp (e : Fin 1024) (f : JWord) (s : State) : Res :=
  s.issue e f { am := 31, em := 1, im := 0x3FFF, ra := true } (fun _ => true) true false (fun t _ => t.fin e 2)
    (fun t g =>
      let v := (g.reg f.a.toNat).toNat
      if f.r then (if 2 ^ 14 ≤ v then some (t.engFault e fIaddr) else some (t.finAt e v 2))
      else some (t.finAt e (f.im 13 0) 2))

/-- The fabric has judged the present tick: every cue that appears in it has reached the listeners. -/
def State.cuesHere (s : State) : Bool := !(s.fabricOn && s.fabricNext.any (fun c => decide (c ≤ s.now)))

/-- A WAITC or JMPC on channel ch issues in the present tick (R85, R202): whether it consumes a cue, and the engine's listener
afterwards. A cue of this tick that found PEND = 1 becomes the pending one; on the channel that is left it is not counted; on
the channel that is named now it is consumed. -/
def State.consume (s : State) (g : Eng) (ch : Nat) : Bool × Eng :=
  let lost := g.lostAt.filter (fun x => x.1 == s.now)
  let g1 := match lost with | some x => { g with ovr := x.2, lostAt := none } | none => g
  if g.listen = some ch then (g.pend, if g.pend then { g1 with pend := lost.isSome } else g)
  else (tabGet s.lastCue ch (-1) == (s.now : Int), { g1 with listen := some ch, pend := false })

/-- JMPC (R83, R202): a pending cue is consumed and the jump taken. It does not occur before the cues of its tick. -/
def execJmpc (e : Fin 1024) (f : JWord) (s : State) : Res :=
  s.issue e f { bm := 31, em := 31, im := 0x3FFF } (fun _ => true) true false (fun t _ => t.fin e 1)
    (fun t g =>
      let c := t.consume g f.chan
      if !t.cuesHere then none
      else if c.1 then some ((t.setEng e c.2).finAt e (f.im 13 0) 2)
      else if g.pc = 16383 then some (t.engFault e fIaddr)
      else some ((t.setEng e c.2).fin e 1))

/-- CALL (R83): eight stacked addresses raise STACK. -/
def execCall (e : Fin 1024) (f : JWord) (s : State) : Res :=
  s.issue e f { im := 0x3FFF } (fun _ => true) true false (fun t _ => t.fin e 2)
    (fun t g =>
      if 8 ≤ g.stack.length then some (t.engFault e fStack)
      else some ((t.setEng e { g with stack := (g.pc + 1) :: g.stack }).finAt e (f.im 13 0) 2))

/-- RET (R83): an empty stack raises STACK, a return beyond index 16,383 IADDR (R56). -/
def execRet (e : Fin 1024) (f : JWord) (s : State) : Res :=
  s.issue e f {} (fun _ => true) true false (fun t _ => t.fin e 2)
    (fun t g => match g.stack with
      | [] => some (t.engFault e fStack)
      | a :: rest => if 16383 < a then some (t.engFault e fIaddr) else some ((t.setEng e { g with stack := rest }).finAt e a 2))

/-- Loop counters a level has (R75). -/
def loopCap (lvl : Nat) : Nat := if lvl = 1 then 2 else 4

/-- LOOP (R83): count 0 skips the body and its ENDL; a body field of 0 is illegal. -/
def execLoop (e : Fin 1024) (f : JWord) (s : State) : Res :=
  s.issue e f { am := 31, bm := 31, em := 31, im := 0x80FFFFFF, ra := true } (fun _ => f.chan != 0) true false
    (fun t _ => t.fin e 1)
    (fun t g =>
      let n := if f.imm.bit 31 then (g.reg f.a.toNat).bits 23 0 else f.im 23 0
      if loopCap g.level ≤ g.loops.length then some (t.engFault e fLoopDepth)
      else if n = 0 then
        if 16383 < g.pc + f.chan + 1 then some (t.engFault e fIaddr) else some (t.finAt e (g.pc + f.chan + 1) 2)
      else if g.pc = 16383 then some (t.engFault e fIaddr)
      else some ((t.setEng e { g with loops := ⟨n, g.pc + 1, g.pc + f.chan⟩ :: g.loops }).fin e 1))

/-- ENDL (R83, R84): it acts on the innermost active counter; with none it is ILLEGAL. -/
def execEndl (e : Fin 1024) (f : JWord) (s : State) : Res :=
  s.issue e f {} (fun g => !g.loops.isEmpty) true false (fun t _ => t.fin e 1)
    (fun t g => match g.loops with
      | [] => some t
      | c :: rest =>
        if c.count - 1 ≠ 0 then some ((t.setEng e { g with loops := { c with count := c.count - 1 } :: rest }).finAt e c.start 1)
        else if g.pc = 16383 then some (t.engFault e fIaddr)
        else some ((t.setEng e { g with loops := rest }).fin e 1))

/-- HALT (R71): issue stops, queued effects land. PC stays at the HALT. -/
def execHalt (e : Fin 1024) (f : JWord) (s : State) : Res :=
  s.issue e f {} (fun _ => true) true false (fun t _ => t.fin e 1) (fun t g => some (t.setEng e (g.stop .halted)))

/-- SYNCW (R83, R85): the next instruction issues in tick max(t + 1, tc - m). -/
def execSyncw (e : Fin 1024) (f : JWord) (s : State) : Res :=
  s.issue e f { im := 0xFFFFFF } (fun _ => true) false false (fun t _ => t.fin e 1)
    (fun t g =>
      let target := g.tc.toNat - f.im 23 0
      if target ≤ t.now then some (t.fin e 1)
      else some (t.setEng e { g with pc := g.pc + 1, state := .waiting, wait := some (.syncw (max (t.now + 1) target)) }))

/-- WAITC (R85, R202): a pending cue ends it at once, otherwise the engine waits for a cue or the timeout. It does not occur before
the cues of its tick. -/
def execWaitc (e : Fin 1024) (f : JWord) (s : State) : Res :=
  s.issue e f { dm := 7, bm := 31, em := 31, im := 0xFFFFFF, pd := true } (fun _ => true) false false (fun t _ => t.fin e 1)
    (fun t g =>
      let c := t.consume g f.chan
      let pd := f.d.toNat % 8
      if !t.cuesHere then none
      else if c.1 then some ((t.setEng e (c.2.setPred pd true)).fin e 1)
      else
        let d := if f.im 23 0 = 0 then none else some (t.now + f.im 23 0)
        some (t.setEng e { c.2 with pc := g.pc + 1, state := .waiting, wait := some (.waitc pd d g.listen g.pend) }))

/-- FIRE (R83, R192): the cue appears in the next tick. -/
def execFire (e : Fin 1024) (f : JWord) (s : State) : Res :=
  s.issuePlain e f { im := 0xFF } (fun _ => true) 1 (fun t _ => t.raiseAt (256 + f.im 7 0) (t.now + 1))

/-- TRAP (R69, R83). -/
def execTrap (e : Fin 1024) (f : JWord) (s : State) : Res :=
  s.issue e f { im := 0xFF } (fun _ => true) true false (fun t _ => t.fin e 1)
    (fun t _ => some (t.engFault e fTrap (f.im 7 0)))

/-! The events that end a wait. -/

/-- SYNCW_END (R83): the tick is reached and the engine runs on. -/
def execSyncwEnd (e : Fin 1024) (s : State) : Res :=
  match s.power, (s.eng e).state, (s.eng e).wait with
  | true, .waiting, some (.syncw k) =>
    let s1 := s.advanceTo k
    .next (s1.modEng e (fun g => { g with state := .running, wait := none, ready := s1.now }))
  | _, _, _ => .next s

/-- WAITC_TIMEOUT (R85): the predicate becomes 0 and the engine runs on in the next tick. It does not occur while the fabric has
not yet judged the timeout's tick: a cue in that tick counts. -/
def execWaitcTimeout (e : Fin 1024) (s : State) : Res :=
  match s.power, (s.eng e).state, (s.eng e).wait with
  | true, .waiting, some (.waitc pd (some k) ..) =>
    let s1 := s.advanceTo k
    if s.fabricOn && s.fabricNext.any (fun c => c ≤ k) then .next s
    else .next (s1.modEng e (fun g => { (g.setPred pd false) with state := .running, wait := none, ready := s1.now + 1 }))
  | _, _, _ => .next s

end Sys2Proof.Machine
end

