-- ==== Sys2Proof/Machine/EngMem.lean ====
section
/-! DEFINITION. The memory instructions of J-ISA (R61, R87 to R89) and the end of a BDMA transfer. -/
namespace Sys2Proof.Machine

/-- The address of an LD or ST (R87). -/
def Eng.lsAddr (g : Eng) (f : JWord) : Nat := (g.reg f.a.toNat + BitVec.ofInt 32 (sext 16 (f.im 15 0))).toNat

/-- A word access touches the local range of the outstanding transfer (R89). -/
def Eng.bdmaTouches (g : Eng) (y : Bool) (a : Nat) : Bool :=
  g.bdma.any (fun b => b.y == y && decide (a < b.loc + 4 * b.n) && decide (b.loc < a + 4))

/-- LD and ST: DADDR outside 0x0000 to 0x3FFC, ALIGN (R57); a word in the range of an outstanding BDMA waits (R89). An address that
is both outside and not aligned raises DADDR (DESIGN CHOICE, log 132: R57 gives no order). The word is read with its check bits,
for a store too, which replaces half of it (R58). -/
def State.lsIssue (s : State) (e : Fin 1024) (f : JWord) (cost : Nat) (act : State → Eng → Bool → Nat → Option State) : Res :=
  s.issue e f { dm := 31, am := 31, em := mField (clsOf e), im := 0xFFFF, rd := true, ra := true } (fun _ => true) false false
    (fun t _ => t.fin e cost)
    (fun t g =>
      let a := g.lsAddr f
      let y := f.e.toNat % 2 == 1
      if 0x3FFC < a then some (t.engFault e fDaddr)
      else if a % 4 ≠ 0 then some (t.engFault e fAlign)
      else if g.bdmaTouches y a then none
      else match t.eccData e y a with
        | some v => act v (v.eng e) y a
        | none => some (t.engFault e fEcc))

/-- LD (R87): while an accumulation has the read port it waits (R181). -/
def execLd (e : Fin 1024) (f : JWord) (s : State) : Res :=
  s.lsIssue e f 2 (fun t _ y a =>
    let u := t.meSeen e
    if (u.eng e).me.reads y u.now then none
    else some ((u.modEng e (fun g => g.setReg f.d.toNat (u.dataWord e y a))).fin e 2))

/-- ST (R87): while a capture has the write port it waits; a fetch of the tick reads the word before (R181). -/
def execSt (e : Fin 1024) (f : JWord) (s : State) : Res :=
  s.lsIssue e f 1 (fun t g y a =>
    let u := t.meSeen e
    if y && (u.eng e).me.captures u.now then none
    else some ((u.portWrite e y a u.now (g.reg f.d.toNat)).fin e 1))

/-- LDV (R88): the entry as it stands before the writes of the issue tick. -/
def execLdv (e : Fin 1024) (f : JWord) (s : State) : Res :=
  s.issuePlain e f { dm := 31, bm := 31, em := 1, im := 0x1FF, rd := true, rb := true } (fun _ => true) 2
    (fun t g => t.setEng e (g.setReg f.d.toNat (verdictWord (t.verdictAt ((g.opB f).bits 8 0) (t.now - 1)))))

/-- LDF (R88). -/
def execLdf (e : Fin 1024) (f : JWord) (s : State) : Res :=
  s.issuePlain e f { dm := 31, bm := 31, em := 1, im := 0xFF, rd := true, rb := true, l1 := false } (fun _ => true) 2
    (fun t g => t.setEng e (g.setReg f.d.toNat (BitVec.ofNat 32 (t.pauliAt ((g.opB f).bits 7 0) t.now).toNat)))

/-- BDMA (R89): the checks at issue, then the transfer proceeds while the engine runs. -/
def execBdma (e : Fin 1024) (f : JWord) (s : State) : Res :=
  s.issue e f { dm := 7, am := 31, bm := 31, em := mField (clsOf e), im := 0x80001FFF, ra := true, rb := true, pd := true,
                l1 := false }
    (fun _ => f.b.toNat % 2 == 0 && 1 ≤ f.im 12 0 && f.im 12 0 ≤ 4096) false false
    (fun t _ => t.fin e 1)
    (fun t g =>
      let n := f.im 12 0
      let a := (g.reg f.a.toNat).toNat
      let off := (g.reg f.b.toNat).toNat + 2 ^ 32 * (g.reg (f.b.toNat + 1)).bits 3 0
      let win := match g.img with | some i => (i.winOff, i.winLen) | none => (0, 0)
      if g.bdma.isSome then none
      else if 0x4000 < a + 4 * n then some (t.engFault e fDaddr)
      else if a % 4 ≠ 0 || off % 4 ≠ 0 then some (t.engFault e fAlign)
      else if win.2 < off + 4 * n then some (t.engFault e fBdma)
      else
        let pd := f.d.toNat % 8
        let b : Bdma := ⟨pd, f.e.toNat % 2 == 1, a, win.1 + off, n, f.imm.bit 31, g.pc⟩
        some ((t.setEng e { (g.setPred pd false) with bdma := some b }).fin e 1))

/-- CSRR (R61): any word of the engine's window. ENG_PC shows the next instruction. -/
def execCsrr (e : Fin 1024) (f : JWord) (s : State) : Res :=
  s.issuePlain e f { dm := 31, im := 0x3F, rd := true } (fun _ => true) 2
    (fun t g =>
      let u := (t.meSeen e).modEng e (fun x => { x with pc := x.pc + 1 })
      t.setEng e (g.setReg f.d.toNat (u.windowWord e (4 * f.im 5 0))))

/-- CSRW (R61): ENG_LSR, where a 1 clears, and the general registers; any other index is ignored. -/
def execCsrw (e : Fin 1024) (f : JWord) (s : State) : Res :=
  s.issuePlain e f { am := 31, im := 0x3F, ra := true } (fun _ => true) 1
    (fun t g =>
      let v := g.reg f.a.toNat
      if f.im 5 0 = 9 then (t.meSeen e).modEng e (fun x => x.clrLsr v)
      else if 32 ≤ f.im 5 0 then t.setEng e (g.setReg (f.im 5 0 - 32) v)
      else t)

/-- RDTT (R87): TT at the issue tick, or tc. -/
def execRdtt (e : Fin 1024) (f : JWord) (s : State) : Res :=
  s.issuePlain e f { dm := 31, em := 1, rd := true } (fun _ => f.d.toNat % 2 == 0) 1
    (fun t g =>
      let v := if f.r then g.tc.toNat else t.now
      t.setEng e ((g.setReg f.d.toNat (BitVec.ofNat 32 v)).setReg (f.d.toNat + 1) (BitVec.ofNat 32 (v >>> 32))))

end Sys2Proof.Machine
end

