-- ==== Sys2Proof/Machine/Measure.lean ====
section
/-! DEFINITION. The measurement instructions of J-ISA (R96 to R102, R188, R189) and the end of an accumulation. -/
namespace Sys2Proof.Machine

/-- An ME instruction acts at issue once the accumulator interlock releases (R97): until then it waits. -/
def State.issueAcc (s : State) (e : Fin 1024) (f : JWord) (F : Form) (more : Eng → Bool) (cost : Nat)
    (act : State → Eng → State) : Res :=
  s.issue e f { F with te := false, fe := false } more false false (fun t _ => t.fin e cost)
    (fun t _ => if t.interlocked e then none else
      let u := t.meSeen e
      some ((act u (u.eng e)).fin e cost))

/-- An ME instruction acts at issue, without the interlock. -/
def State.issueMe (s : State) (e : Fin 1024) (f : JWord) (F : Form) (more : Eng → Bool) (cost : Nat)
    (act : State → Eng → State) : Res :=
  s.issue e f { F with te := false, fe := false } more false false (fun t _ => t.fin e cost)
    (fun t _ =>
      let u := t.meSeen e
      some ((act u (u.eng e)).fin e cost))

/-- A window is consumed as skipped: SKIPWIN and the invalid condition are set (R97). Samples that still arrive for one that was
skipped on a full buffer are still captured. -/
def State.skipWindow (s : State) (e : Nat) (id : Option Nat) : State :=
  (s.modEng e (fun g => (g.setLsr lsrSkipwin))).modMe e (fun m => Me.keepWins { m with
    inv := true
    wins := (m.wins.filter (fun w => !(id.any (· == w.id) && w.arrived == 0))).map
      (fun w => if id.any (· == w.id) then { w with consumed := w.len } else w)
    buf := m.buf.filter (fun b => !id.any (· == b.win)) })

/-- An accumulation of window samples begins on the oldest window not yet fully consumed (R97, R182). -/
def State.startWindow (s : State) (e x n : Nat) (conj : Bool) : State :=
  match (s.eng e).me.wins.find? winPending with
  | none => s.skipWindow e none
  | some w =>
    if w.skipped then s.skipWindow e (some w.id)
    else
      let rest := w.len - w.consumed
      let left := if n = 0 then rest else min n rest
      s.modMe e (fun m => { m with run := some ⟨x, 0, conj, some w.id, left, s.now + 1, false, (s.eng e).pc⟩ })

/-- MAC (R97): kernel AG0 or AG1. -/
def execMac (e : Fin 1024) (f : JWord) (s : State) : Res :=
  s.issueAcc e f { em := 1, im := 0xFFF } (fun _ => true) 1 (fun t _ => t.startWindow e (f.e.toNat % 2) (f.im 11 0) false)

/-- MACX (R97): n above 4,096, or 0 with memory operands, is illegal. -/
def execMacx (e : Fin 1024) (f : JWord) (s : State) : Res :=
  s.issueAcc e f { em := 0x17, im := 0x1FFF, l1 := false }
    (fun _ => f.im 12 0 ≤ 4096 && (f.e.getLsbD 4 || f.im 12 0 != 0)) 1
    (fun t _ =>
      let x := f.e.toNat % 2
      if f.e.getLsbD 4 then t.startWindow e x (f.im 12 0) (f.e.getLsbD 2)
      else t.modMe e (fun m => { m with
        run := some ⟨x, 2 + (if f.e.getLsbD 1 then 1 else 0), f.e.getLsbD 2, none, f.im 12 0, t.now + 1, false, (t.eng e).pc⟩ }))

/-- CLRA (R96, R185). -/
def execClra (e : Fin 1024) (f : JWord) (s : State) : Res :=
  s.issueAcc e f {} (fun _ => true) 1 (fun t _ => t.modMe e (fun m => { m with accI := 0, accQ := 0, inv := false }))

/-- floor(ACC.part / 2^sh) before the clamp of R98. -/
def rdaRaw (m : Me) (q : Bool) (sh : Nat) : Int := (if q then m.accQ else m.accI) / 2 ^ sh

/-- RDA (R98): a result out of range is clamped, with OV and the invalid condition. -/
def execRda (e : Fin 1024) (f : JWord) (s : State) : Res :=
  s.issueAcc e f { dm := 31, em := 1, im := 0x3F, rd := true } (fun _ => f.im 5 0 ≤ 47) 2
    (fun t g =>
      let raw := rdaRaw g.me f.r (f.im 5 0)
      let u := t.setEng e (g.setReg f.d.toNat (BitVec.ofInt 32 (satS 32 raw)))
      if clampsS 32 raw then u.overflow e t.now false else u)

/-- CBSET (R99, R186): the settings of the AG change, or DADDR or ALIGN is raised and it keeps them. -/
def execCbset (e : Fin 1024) (f : JWord) (s : State) : Res :=
  s.issue e f { am := 31, bm := 31, em := 3, im := 1, ra := true, rb := true, te := false, fe := false } (fun _ => true) false
    false (fun t _ => t.fin e 1)
    (fun t _ =>
      let u := t.meSeen e
      let g := u.eng e
      let base := (g.reg f.a.toNat).toNat
      let len := (g.reg f.b.toNat).toNat
      if len = 0 ∨ 4096 < len ∨ 0x4000 < base + 4 * len then some (u.engFault e fDaddr)
      else if base % 4 ≠ 0 then some (u.engFault e fAlign)
      else
        let k := f.e.toNat % 4
        some ((u.modMe e (fun m => { m with cbs := m.cbs ++ [⟨u.now, k, base, len, f.imm.bit 0⟩] })).fin e 1))

/-- DISC mode 0 (R100): state and confidence of a linear table, given by its eight words. -/
def discLinear (tbl : List Word) (a b : Int) : Nat × Bool :=
  let d := (List.range 3).map (fun k =>
    sext 16 ((tbl.getD (2 * k) 0).bits 15 0) * a + sext 16 ((tbl.getD (2 * k) 0).bits 31 16) * b + (tbl.getD (2 * k + 1) 0).toInt)
  let ge (k : Nat) : Nat := b2n (decide (0 ≤ d.getD k 0))
  let idx := 4 * ge 2 + 2 * ge 1 + ge 0
  let m := (tbl.getD 6 0).toNat
  ((tbl.getD 7 0).toNat >>> (2 * idx) % 4, d.all (fun x => decide (m ≤ x.natAbs)))

/-- The cell of a map (R100, R188): its index, and whether the point was clamped to the edge. -/
def discCell (cI cQ : Int) (sh : Nat) (a b : Int) : Nat × Bool :=
  let ix := (a - cI) / 2 ^ sh + 32
  let iy := (b - cQ) / 2 ^ sh + 32
  ((clampInt 0 63 iy).toNat * 64 + (clampInt 0 63 ix).toNat, clampInt 0 63 ix != ix || clampInt 0 63 iy != iy)

/-- The word DISC writes (R100): state, confidence, the invalid condition. -/
def discWord (r : Nat × Bool) (inv : Bool) : Word := BitVec.ofNat 32 (r.1 % 4 + bw (r.2 && !inv) 2 + bw inv 3)

/-- Read the table of a DISC and judge the point. -/
def State.discriminate (s : State) (e : Nat) (map : Bool) (a : Nat) (x y : Int) : Nat × Bool :=
  let w (off : Nat) : Word := s.dataWord e map (a + off)
  if map then
    let c := discCell (w 0).toInt (w 4).toInt ((w 8).bits 4 0) x y
    let nib := (memByte s.sram (dataBase (s.phys e) true + a + 12 + c.1 / 2)).toNat / (if c.1 % 2 = 0 then 1 else 16) % 16
    (nib % 4, nib.testBit 2 && !c.2)
  else discLinear ((List.range 8).map (fun i => w (4 * i))) x y

/-- The words of a DISC's table that it reads carry no error beyond correction (R58): a linear table whole, of a map its head and the
word of the cell. -/
def State.eccDisc (s : State) (e : Nat) (map : Bool) (a : Nat) (x y : Int) : Option State :=
  let w (off : Nat) : Word := s.dataWord e map (a + off)
  if map then (s.eccRange e map a 12).bind (fun t =>
    t.eccData e map (a + 12 + (discCell (w 0).toInt (w 4).toInt ((w 8).bits 4 0) x y).1 / 2))
  else s.eccRange e map a 32

/-- DISC (R100, R180, R181): while an accumulation has the read port it waits. -/
def execDisc (e : Fin 1024) (f : JWord) (s : State) : Res :=
  s.issue e f { dm := 31, am := 31, bm := 31, em := 1, im := 0x3FFF, rd := true, ra := true, rb := true, te := false, fe := false }
    (fun _ => true) false false (fun t _ => t.fin e 3)
    (fun t _ =>
      let map := f.r
      let a := f.im 13 0
      if 0x4000 < a + (if map then 2060 else 32) then some (t.engFault e fDaddr)
      else if a % 4 ≠ 0 then some (t.engFault e fAlign)
      else
        let u := t.meSeen e
        let g := u.eng e
        let x := (g.reg f.a.toNat).toInt
        let y := (g.reg f.b.toNat).toInt
        if g.me.reads map u.now then none
        else match u.eccDisc e map a x y with
          | some v => some ((v.setEng e ((v.eng e).setReg f.d.toNat (discWord (v.discriminate e map a x y) (v.meInv g)))).fin e 3)
          | none => some (t.engFault e fEcc))

/-- PUBV (R101, R189, R203): the entry and the cue appear in the next tick. -/
def execPubv (e : Fin 1024) (f : JWord) (s : State) : Res :=
  s.issueMe e f { am := 31, bm := 31, ra := true, rb := true } (fun _ => true) 1
    (fun t g =>
      let a := g.reg f.a.toNat
      let v : Verdict := { seq := (g.reg f.b.toNat).bits 7 0, conf := a.bit 2 && !t.meInv g, state := a.bits 1 0 }
      (t.writeVerdict (e - 768) (t.now + 1) (some v)).raiseAt (e - 768) (t.now + 1))

/-- PUBS (R101, R208): the outcome reaches the Quarry in the next tick. -/
def execPubs (e : Fin 1024) (f : JWord) (s : State) : Res :=
  s.issueMe e f { am := 31, bm := 31, ra := true, rb := true, l1 := false } (fun _ => true) 1
    (fun t g =>
      let a := g.reg f.a.toNat
      let b := g.reg f.b.toNat
      { t with pubs := t.pubs ++ [⟨t.now + 1, b.bits 10 0, b.bits 27 12, a.bit 0, a.bit 2 && !t.meInv g⟩] })

/-- HIST (R246). -/
def execHist (e : Fin 1024) (f : JWord) (s : State) : Res :=
  s.issueMe e f { am := 31, bm := 31, ra := true, rb := true } (fun _ => true) 1
    (fun t g => t.histAdd (inputOf e) (chanOf e) (g.reg f.a.toNat) (g.reg f.b.toNat))

/-- The record that a REC forms (R102). -/
def State.recOf (s : State) (e a n : Nat) (withAcc : Bool) (g : Eng) : Rec :=
  { me := e, tt := s.tt, inv := s.meInv g, regs := (List.range n).map (fun i => g.reg (a + i)),
    acc := if withAcc then some (g.me.accI, g.me.accQ) else none }

/-- REC (R102): with 4 records held it waits; carrying ACC it also takes the interlock. -/
def execRecd (e : Fin 1024) (f : JWord) (s : State) : Res :=
  s.issue e f { am := 31, em := 1, im := 7, ra := true, te := false, fe := false }
    (fun g => f.a.toNat + f.im 2 0 ≤ (if g.level = 1 then 15 else 31)) false false (fun t _ => t.fin e 1)
    (fun t g =>
      if 4 ≤ g.me.recs.length ∨ (f.r ∧ t.interlocked e) then none
      else
        let u := t.meSeen e
        let r := u.recOf e f.a.toNat (f.im 2 0 + 1) f.r (u.eng e)
        some ((u.modMe e (fun m => { m with recs := m.recs ++ [r] })).fin e 1))

/-! The end of an accumulation. -/

/-- The tick in which the products of the samples in the buffer, at one per tick, are all added; `none` while one is missing. -/
def windowEnd : List BufSample → Nat → Nat → Option Nat
  | _, 0, next => some next
  | [], _ + 1, _ => none
  | b :: bs, n + 1, next => windowEnd bs n (max next b.avail + 1)

/-- The completion tick of the accumulation in flight (R182), once every operand is there. -/
def Eng.accEnd (g : Eng) : Option Nat :=
  match g.me.run with
  | none => none
  | some r => match r.win with
    | none => some (r.next + r.left)
    | some w => windowEnd (g.me.buf.filter (fun x => x.win == w)) r.left r.next

/-- ACCUMULATION_COMPLETE (R182): the interlock releases in the tick after the last product. -/
def execAccumulationComplete (e : Fin 1024) (s : State) : Res :=
  match s.power, (s.eng e).accEnd with
  | true, some k =>
    let s1 := s.advanceTo k
    .next (s1.meTo e (s1.now - 1))
  | _, _ => .next s

/-! The end of a BDMA transfer (R89). -/

/-- Words of a transfer that move: those before the first block out of service or poisoned line. -/
def State.bdmaWords (s : State) (b : Bdma) : Nat :=
  ((List.range b.n).takeWhile (fun i => s.bulkServed (b.bulk + 4 * i) && s.notPoisoned (b.bulk + 4 * i) (if b.out then 0 else 4))).length

/-- Move the words of a transfer. -/
def State.bdmaMove (s : State) (e : Nat) (b : Bdma) (n : Nat) : State :=
  let base := dataBase (s.phys e) b.y + b.loc
  let v := s.meSeen e
  if b.out then v.bulkWrite b.bulk (wordsBytes (memWords v.sram base n))
  else (s.bulkWords b.bulk n).zipIdx.foldl (fun st w => st.portWrite e b.y (b.loc + 4 * w.2) st.now w.1) v

/-- BDMA_COMPLETE: the words move, the predicate is set; an error makes the engine raise BDMA at its next boundary, at which an
engine that waits or whose last instruction has run its cost already is. -/
def execBdmaComplete (e : Fin 1024) (s : State) : Res :=
  match s.power, (s.eng e).bdma with
  | true, some b =>
    let n := s.bdmaWords b
    let s1 := if n < b.n then s.countLost (b.bulk + 4 * n) 4 else s
    let s2 := (s1.bdmaMove e b n).modEng e (fun g => { (if n < b.n then g else g.setPred b.pd true) with bdma := none })
    let g := s2.eng e
    .next (if b.n ≤ n then s2
      else if liveState g.state && g.routine.isNone && (g.state != .running || decide (g.ready ≤ s2.now)) then
        s2.engFault e fBdma 0 (some b.pc)
      else s2.modEng e (fun g => { g with bdmaBad := some b.pc }))
  | _, _ => .next s

end Sys2Proof.Machine
end

