-- ==== Sys2Proof/Machine/Timeline.lean ====
section
/-! DEFINITION. The timeline instructions of J-ISA (R90 to R96, R105), the landing of what they deposit (R66, R92), fork
deadlines (R93, R142) and jumps taken (R140, R141). -/
namespace Sys2Proof.Machine

/-- AT (R90): T_s + [41:0], or the register pair. -/
def execAtc (e : Fin 1024) (f : JWord) (s : State) : Res :=
  s.issuePlain e f { dm := 1, am := 31, bm := 31, em := 31, im := 0xFFFFFFFF, ra := true }
    (fun _ => f.d.toNat % 2 == 0 || (f.a.toNat % 2 == 0 && f.imm42 == 0)) 1
    (fun t g => t.setEng e { g with tc := BitVec.ofNat 64 (if f.d.toNat % 2 = 1 then g.pairA f else t.ts + f.imm42) })

/-- ADV (R90). -/
def execAdv (e : Fin 1024) (f : JWord) (s : State) : Res :=
  s.issuePlain e f { bm := 31, em := 1, im := 0xFFFFFFFF, rb := true } (fun _ => true) 1
    (fun t g => t.setEng e { g with tc := g.tc + (g.opB f).setWidth 64 })

/-- A PLAY, PLAYF, HOLD or FLEV: as any timeline instruction, the segments it names become active (R137), and an FE has now
played (R95). A full queue or a fault leaves the segments as they were. -/
def State.issuePlay (s : State) (e : Nat) (f : JWord) (F : Form) (cost : Nat) (adv : State → Eng → Nat)
    (eff : State → Eng → Option Eff) (segs : Eng → List Nat := fun _ => []) : Res :=
  s.issue e f F (fun _ => true) false true (fun t g => (t.advTc e (adv t g)).fin e cost)
    (fun a g =>
      let t := a.activate (ownerOf e) (segs g)
      let put (b : State) : State := match eff t g with
        | some x => b.deposit e x (adv t g) cost
        | none => (b.advTc e (adv t g)).fin e cost
      some (if ((put t).eng e).state = .running then (put t).modEng e (fun x => { x with played := true }) else put a))

/-- The segment a PLAY names. -/
def Eng.playSeg (g : Eng) (f : JWord) : Nat := if f.r then (g.reg f.b.toNat).bits 10 0 else f.im 10 0

/-- Repetitions of a PLAY. -/
def playReps (f : JWord) : Nat := f.im 18 11 + 1

/-- What a PLAY deposits and how far it moves tc: an invalid descriptor only marks (R134). -/
def State.playEff (s : State) (e seg reps : Nat) : Eff × Nat :=
  let d := s.dur (ownerOf e) seg
  (if d = 0 then .noseg else .play seg reps d, reps * d)

/-- What a PLAYF deposits and how far it moves tc (R93, R134). -/
def State.playfEff (s : State) (e : Nat) (imm : Word) (ef : BitVec 5) (seq : Nat) : Eff × Nat :=
  let da := s.dur (ownerOf e) (imm.bits 10 0)
  let db := s.dur (ownerOf e) (imm.bits 21 11)
  (if da = 0 ∧ db = 0 then .noseg
   else .playf (imm.bits 10 0) (imm.bits 21 11) da db (imm.bits 30 22) (imm.bit 31) (ef.setWidth 4) (ef.getLsbD 4) seq none,
   max da db)

/-- PLAY (R91, R134). -/
def execPlay (e : Fin 1024) (f : JWord) (s : State) : Res :=
  s.issuePlay e f { bm := 31, em := 1, im := 0x7FFFF, rb := true, me := false } 1
    (fun t g => (t.playEff e (g.playSeg f) (playReps f)).2) (fun t g => some (t.playEff e (g.playSeg f) (playReps f)).1)
    (fun g => [g.playSeg f])

/-- PLAYF (R93, R134). -/
def execPlayf (e : Fin 1024) (f : JWord) (s : State) : Res :=
  let sq (g : Eng) : Nat := (g.reg f.a.toNat).bits 7 0
  s.issuePlay e f { am := 31, em := 31, im := 0xFFFFFFFF, ra := true, me := false } 2
    (fun t g => (t.playfEff e f.imm f.e (sq g)).2) (fun t g => some (t.playfEff e f.imm f.e (sq g)).1)
    (fun _ => [f.im 10 0, f.im 21 11])

/-- Ticks of a HOLD. -/
def Eng.holdTicks (g : Eng) (f : JWord) : Nat := (g.opB f).bits 23 0

/-- HOLD (R91, R404): h = 0 deposits nothing and is not checked for lead. -/
def execHold (e : Fin 1024) (f : JWord) (s : State) : Res :=
  s.issuePlay e f { bm := 31, em := 1, im := 0xFFFFFF, rb := true, me := false } 1 (fun _ g => g.holdTicks f)
    (fun _ g => if g.holdTicks f = 0 then none else some (.hold (g.holdTicks f)))

/-- SETF (R91, R105). -/
def execSetf (e : Fin 1024) (f : JWord) (s : State) : Res :=
  if (s.eng e).level = 1 then
    s.issueTimeline e f { im := 0xFFFFFFFF, fe := false, me := false } (fun _ => true) 1 (fun _ _ => 0)
      (fun _ g => .setf (twos 48 ((match g.img with | some i => i.base1.toNat | none => 0) + f.imm.toInt * 2 ^ 14)))
  else
    s.issueTimeline e f { am := 30, fe := false, me := false } (fun _ => true) 1 (fun _ _ => 0)
      (fun _ g => .setf (g.pairA f % 2 ^ 48))

/-- A 32-bit phase operand (R91), or its level 1 form (R105). -/
def State.issuePhase (s : State) (e : Nat) (f : JWord) (eff : Nat → Eff) : Res :=
  if (s.eng e).level = 1 then
    s.issueTimeline e f { im := 0xFFFF, fe := false, me := false } (fun _ => true) 1 (fun _ _ => 0)
      (fun _ _ => eff (f.im 15 0 * 2 ^ 16))
  else
    s.issueTimeline e f { bm := 31, em := 1, im := 0xFFFFFFFF, rb := true, fe := false, me := false } (fun _ => true) 1
      (fun _ _ => 0) (fun _ g => eff (g.opB f).toNat)

/-- SHPH (R91, R105): it deposits the increment (R92). -/
def execShph (e : Fin 1024) (f : JWord) (s : State) : Res := s.issuePhase e f .shph

/-- SETPH (R91, R105). -/
def execSetph (e : Fin 1024) (f : JWord) (s : State) : Res := s.issuePhase e f .setph

/-- SETA (R91). -/
def execSeta (e : Fin 1024) (f : JWord) (s : State) : Res :=
  s.issueTimeline e f { bm := 31, em := 1, im := 0xFFFF, rb := true, me := false } (fun _ => true) 1 (fun _ _ => 0)
    (fun _ g => .seta ((g.opB f).bits 15 0))

/-- TSET (R91). -/
def execTset (e : Fin 1024) (f : JWord) (s : State) : Res :=
  s.issueTimeline e f { im := 7, fe := false, me := false } (fun _ => true) 1 (fun _ _ => 0) (fun _ _ => .tset (f.im 2 0))

/-- The assigned bits of a MARK's IMM (R94). -/
def markMask : Nat := 0xFFFF0007

/-- A pulse of width 0 is illegal (R94). -/
def markOk (imm : Word) : Bool := imm.bits 2 1 != 3 || imm.bits 31 16 != 0

/-- The action of a MARK (R94). -/
def markEff (imm : Word) : Eff :=
  match imm.bits 2 1 with
  | 0 => .mark (imm.bits 0 0) none none
  | 1 => .mark (imm.bits 0 0) (some false) none
  | 2 => .mark (imm.bits 0 0) (some true) none
  | _ => .mark (imm.bits 0 0) (some true) (some (imm.bits 31 16))

/-- MARK (R94). -/
def execMark (e : Fin 1024) (f : JWord) (s : State) : Res :=
  s.issueTimeline e f { im := markMask, me := false } (fun _ => markOk f.imm) 1 (fun _ _ => 0) (fun _ _ => markEff f.imm)

/-- The assigned bits of a PART's IMM (R95). -/
def partMask (e : Nat) : Nat := if e < 512 then 0xFFF else 0xFF

/-- A PART is legal by class (R95). -/
def partOk (e : Nat) (imm : Word) (g : Eng) : Bool :=
  match clsOf e with
  | .te => imm.bits 10 9 != 3
      && (!imm.bit 11 || (imm.bits 8 0 != e && dieOf (rfOf (imm.bits 8 0)) == dieOf (rfOf e)))
  | _ => imm.bits 7 0 ≤ 83 && !g.played

/-- What a PART deposits. -/
def partEff (e : Nat) (imm v : Word) : Eff :=
  if e < 512 then .term (imm.bits 10 9) (if imm.bit 11 then some (imm.bits 8 0, v) else none) else .coef (imm.bits 7 0) v

/-- PART (R95). -/
def execPart (e : Fin 1024) (f : JWord) (s : State) : Res :=
  s.issueTimeline e f { am := 31, im := partMask e, ra := true, me := false, l1 := false }
    (partOk e f.imm) 1 (fun _ _ => 0) (fun _ g => partEff e f.imm (g.reg f.a.toNat))

/-- FLEV (R91). -/
def execFlev (e : Fin 1024) (f : JWord) (s : State) : Res :=
  s.issuePlay e f { bm := 31, em := 1, im := 0x3FFFF, rb := true, te := false, me := false } 1 (fun _ _ => 0)
    (fun _ g => some (.flev (sext 18 ((g.opB f).bits 17 0))))

/-- WOPEN (R96): L of 1 to 4,000; tc advances by 2 L. -/
def execWopen (e : Fin 1024) (f : JWord) (s : State) : Res :=
  s.issueTimeline e f { im := 0x1FFF, te := false, fe := false } (fun _ => 1 ≤ f.im 11 0 && f.im 11 0 ≤ 4000) 1
    (fun _ _ => 2 * f.im 11 0) (fun _ _ => .wopen (f.im 11 0) (f.imm.bit 12) false)
    (some (.wopen (f.im 11 0) (f.imm.bit 12) true))

/-! Landing. -/

/-- An effect of engine e lands at tick tc (R66, R91 to R96). -/
def State.land (s : State) (e tc : Nat) (eff : Eff) : State :=
  match eff with
  | .wopen len cap skipped => s.modMe e (fun m => { m with
      wins := m.wins ++ [⟨m.nextWin, (tc + 1) / 2, len, cap, 0, 0, skipped⟩], nextWin := m.nextWin + 1 })
  | _ => s.landOut e tc eff

/-- A fork that has no branch yet. -/
def unchosen (q : QEff) : Bool :=
  match q.eff with
  | .playf _ _ _ _ _ _ _ _ _ none => true
  | _ => false

/-- A stalled engine issues again in the tick after an effect has left the queue (R64). -/
def Eng.unstall (g : Eng) (t : Nat) (c : EngClass) : Eng :=
  if g.state = .stalled ∧ g.depth < queueCap c then
    match g.routine with
    | some r => { g with routine := some { r with resume := some (t + 1) } }
    | none => { g with state := .running, ready := max g.ready (t + 1) }
  else g

/-- EFFECT_LAND (R64, R66): the earliest effect in the engine's queue lands in the tick equal to its tc. A fork whose deadline
event has not come is selected as at its deadline. -/
def execEffectLand (e : Fin 1024) (s : State) : Res :=
  if !s.power then .next s
  else match popQueue (s.eng e).queue with
  | none => .next s
  | some (q, rest) =>
    let s1 := s.advanceTo q.tc
    let r := s1.selectFork e q
    let s2 := s1.modEng e (fun g => { (if r.2 then g.setLsr lsrForkLate else g) with queue := rest }.unstall s1.now (clsOf e))
    let s3 := if r.2 then s2.sysCue 909 else s2
    .next (s3.land e q.tc r.1.eff)

/-- Replace the first fork without a branch. -/
def chooseFirst (f : QEff → QEff) : List QEff → List QEff
  | [] => []
  | q :: qs => if unchosen q then f q :: qs else q :: chooseFirst f qs

/-- FORK_DEADLINE (R142, R143): the selection is made at the end of the deadline's tick. -/
def execForkDeadline (e : Fin 1024) (s : State) : Res :=
  match s.power, (s.eng e).queue.find? unchosen with
  | true, some q =>
    let s1 := s.advanceTo (forkDeadline e q.tc)
    let r := s1.selectFork e q
    let s2 := s1.modEng e (fun g =>
      { (if r.2 then g.setLsr lsrForkLate else g) with queue := chooseFirst (fun _ => r.1) g.queue })
    .next (if r.2 then s2.sysCue 909 else s2)
  | _, _ => .next s

/-- JUMP_TAKEN (R140, R141): a jump request is taken at a commit point of an instance with JEN = 1. -/
def execJumpTaken (t : JumpTarget) (s : State) : Res :=
  let o := match t with | .slot o _ => o.val | .flx i => 80 + i.val
  let k := match t with | .slot _ k => k.val | .flx _ => 0
  match s.power, s.nextJump o k with
  | true, some (c, cut) => .next ((s.advanceTo c).takeJump o k cut)
  | _, _ => .next s

end Sys2Proof.Machine
end

