-- ==== Sys2Proof/Machine/Micro.lean ====
section
/-! DEFINITION. Micro-routines of the open store (R261 to R270): microwords, their operations, groups of up to four per tick,
holds at safe points, roll-forward; the UOP instruction and the resumption of a held routine. -/
namespace Sys2Proof.Machine

/-- Byte offsets in BAR2 of the open store and directory of a class (R382). -/
def ucsStore (c : EngClass) : Nat := 0x0C400000 + clsCode c * 0x2000
def ucsDir (c : EngClass) : Nat := 0x0C480000 + clsCode c * 0x400

/-- Fields of a microword (R263). -/
def uMop (w : Word) : Nat := w.bits 31 26
def uX (w : Word) : Nat := w.bits 25 20
def uY (w : Word) : Nat := w.bits 19 14
def uZ (w : Word) (hi lo : Nat) : Nat := w.bits hi lo

/-- What a micro-operation did. -/
inductive Micro where
  /-- The next microword follows. -/
  | go (s : State) (r : Routine)
  /-- A jump to a routine offset. -/
  | jump (s : State) (r : Routine) (off : Nat)
  /-- UEND. -/
  | stop (s : State)
  /-- A fault, without effect on visible state. -/
  | bad (s : State) (code : Nat)
  /-- A memory port or transfer holds the micro-operation: the group ends, and it comes first in the next (R89, R181). -/
  | stay
  /-- A wait that cannot proceed: the engine's state meanwhile and, when known, the tick the condition is met. -/
  | hold (s : State) (r : Routine) (st : EngState) (met : Option Nat)

/-- The general register a specifier names, if it names one (R264). -/
def specReg (r : Routine) (x : Nat) : Option Nat :=
  if x < 32 then some x else if x = 40 then some r.d else if x = 41 then some r.a else if x = 42 then some r.b else none

/-- Read a register specifier. -/
def specRead (g : Eng) (r : Routine) (x : Nat) : Word :=
  match specReg r x with
  | some i => g.reg i
  | none => if 32 ≤ x ∧ x < 40 then tabGet r.temps (x - 32) 0 else 0

/-- A visible write of a kind (bit of ENG_ABORT_STATE.CHG): 0 general registers, 1 predicates, 2 tc, 3 data memory, 4 effects, cues
and publications, 5 ACC and AG. -/
def Routine.saw (r : Routine) (k : Nat) : Routine := { r with visible := true, chg := r.chg ||| 2 ^ k }

/-- tc moved on, or not. -/
def Routine.sawTc (r : Routine) (adv : Nat) : Routine := if adv = 0 then r else r.saw 2

/-- Write a register specifier: a general register is a visible write and is marked in UCS_ENG_GMASK. -/
def State.specWrite (s : State) (e : Nat) (r : Routine) (x : Nat) (v : Word) : State × Routine :=
  match specReg r x with
  | some i => (s.modEng e (fun g => { g.setReg i v with gmask := g.gmask ||| BitVec.ofNat 32 (2 ^ i) }), r.saw 0)
  | none => if 32 ≤ x ∧ x < 40 then (s, { r with temps := tabPut r.temps (x - 32) v }) else (s, r)

/-- Deposit an effect for a micro-operation (R63 to R68): without a place it waits. `was`: the state before it, which a wait or a
fault leaves. -/
def State.microDeposit (s : State) (e : Nat) (r : Routine) (eff : Eff) (adv : Nat) (mark : Option Eff) (drop : Bool)
    (was : State := s) : Micro :=
  let g := s.eng e
  let tc := g.tc.toNat
  let put (q : List QEff) (late : Bool) (r1 : Routine) : Micro :=
    .go ((if late && g.lateCue then s.sysCue 904 else s).modEng e (fun g =>
      let g1 := if late then { g.setLsr lsrLate with lateCnt := satAdd 32 g.lateCnt 1 } else g
      { g1 with queue := g1.queue ++ q, lastTc := some tc, tc := g1.tc + BitVec.ofNat 64 adv })) (r1.sawTc adv)
  if queueCap (clsOf e) ≤ g.depth then .hold was r .stalled none
  else match judgeLead (clsOf e) tc s.now g.lastTc with
  | .far => .bad was fTcFar
  | .back => .bad was fTcBack
  | .late =>
    if g.latePol then .bad (if g.lateCue then was.sysCue 904 else was) fLate
    else put (match mark with | some m => [⟨tc, m⟩] | none => []) true { r with visible := true }
  | .onTime => if drop then put [] false r else put [⟨tc, eff⟩] false (r.saw 4)

/-- UDEP (R265): the kinds, by Z[3:0]. PLAY and PLAYF make their segments active (R137). -/
def State.microDep (s : State) (e : Nat) (r : Routine) (w : Word) (drop : Bool) : Micro :=
  let g := s.eng e
  let x := specRead g r (uX w)
  let y := specRead g r (uY w)
  let te := e < 512
  let act (segs : List Nat) : State := if drop then s else s.activate (ownerOf e) segs
  let plays (m : Micro) : Micro := match m with
    | .go t q => .go (t.modEng e (fun g => { g with played := true })) q
    | m => m
  match uZ w 3 0 with
  | 0 =>
    let a := act [x.bits 10 0]
    let p := a.playEff e (x.bits 10 0) (uZ w 11 4 + 1)
    plays (a.microDeposit e r p.1 p.2 none drop s)
  | 1 => if x.bits 23 0 = 0 then plays (.go s r) else plays (s.microDeposit e r (.hold (x.bits 23 0)) (x.bits 23 0) none drop)
  | 2 => if te then s.microDeposit e r (.setf (x.toNat + 2 ^ 32 * y.bits 15 0)) 0 none drop else .bad s fIllegal
  | 3 => if te then s.microDeposit e r (.shph x.toNat) 0 none drop else .bad s fIllegal
  | 4 => if te then s.microDeposit e r (.setph x.toNat) 0 none drop else .bad s fIllegal
  | 5 => s.microDeposit e r (.seta (x.bits 15 0)) 0 none drop
  | 6 => if te then s.microDeposit e r (.tset (uZ w 6 4)) 0 none drop else .bad s fIllegal
  | 7 => if within x.toNat markMask && markOk x then s.microDeposit e r (markEff x) 0 none drop else .bad s fIllegal
  | 8 => if within y.toNat (partMask e) && partOk e y g then s.microDeposit e r (partEff e y x) 0 none drop else .bad s fIllegal
  | 9 => if te then .bad s fIllegal else plays (s.microDeposit e r (.flev (sext 18 (x.bits 17 0))) 0 none drop)
  | _ =>
    let a := act [y.bits 10 0, y.bits 21 11]
    let p := a.playfEff e y (BitVec.ofNat 5 (uZ w 8 4)) (x.bits 7 0)
    plays (a.microDeposit e r p.1 p.2 none drop s)

/-- The ALU micro-operations (R265), by MOP. -/
def microAlu (mop : Nat) (a b : Word) : Word :=
  match mop with
  | 0x08 => a + b
  | 0x09 => a - b
  | 0x0A => a &&& b
  | 0x0B => a ||| b
  | 0x0C => a ^^^ b
  | 0x0D => a <<< b.bits 4 0
  | 0x0E => a >>> b.bits 4 0
  | 0x0F => a.sshiftRight (b.bits 4 0)
  | 0x10 => a * b
  | 0x11 => BitVec.ofInt 32 (a.toInt * b.toInt / 2 ^ 32)
  | 0x12 => if a.slt b then 1 else 0
  | _ => if a.ult b then 1 else 0

/-- Address of a ULD or UST. -/
def microAddr (w y : Word) : Nat := (y + BitVec.ofInt 32 (sext 12 (uZ w 11 0))).toNat

/-- The interlock of a micro-operation that reads or writes ACC: a wait until the accumulation completes. -/
def State.microAcc (s : State) (e : Nat) (r : Routine) (act : State → Micro) : Micro :=
  if s.interlocked e then .hold s r .stalled none else act (s.meSeen e)

/-- The memory access of a ULD or UST, as an LD or ST (R57, R58, R89). -/
def State.microMem (s : State) (e : Nat) (y : Bool) (a : Nat) (held : Bool) (act : State → Micro) : Micro :=
  if 0x3FFC < a then .bad s fDaddr
  else if a % 4 ≠ 0 then .bad s fAlign
  else if held || (s.eng e).bdmaTouches y a then .stay
  else match s.eccData e y a with
    | some t => act t
    | none => .bad s fEcc

/-- One micro-operation in the present tick (R265). `drop`: STOP has passed, and deposits, cues, publications and changes of
ACC and AG are discarded (R269). -/
def State.micro (s : State) (e : Nat) (r : Routine) (w : Word) (drop : Bool) : Micro :=
  let g := s.eng e
  let x := specRead g r (uX w)
  let y := specRead g r (uY w)
  let wr (t : State) (q : Routine) (k : Nat) (v : Word) : Micro := let z := t.specWrite e q k v; .go z.1 z.2
  let fx (t : State) : Micro := if drop then .go s r else .go t (r.saw 4)
  let me := clsOf e == .me
  match uMop w with
  | 0x00 | 0x01 => .go s r
  | 0x02 => .jump s r (uZ w 10 0)
  | 0x03 => if x = 0 then .jump s r (uZ w 10 0) else .go s r
  | 0x04 => if x ≠ 0 then .jump s r (uZ w 10 0) else .go s r
  | 0x05 => .stop s
  | 0x06 =>
    let c := s.consume g (uZ w 9 0)
    let r1 := if c.1 || g.listen != c.2.listen then { r with visible := true } else r
    let t0 := tabGet r.uwc r.pc s.now
    let r2 := { r1 with uwc := tabPut r1.uwc r.pc t0 }
    let u := s.setEng e c.2
    if c.1 then wr u r2 (uY w) 1
    else if x.bits 23 0 ≠ 0 ∧ t0 + x.bits 23 0 ≤ s.now then wr u r2 (uY w) 0
    else .hold u r2 .waiting (if x.bits 23 0 = 0 then none else some (t0 + x.bits 23 0))
  | 0x07 =>
    let target := g.tc.toNat - x.bits 23 0
    if target ≤ s.now then .go s r else .hold s r .waiting (some target)
  | 0x14 => wr s r (uX w) (if g.pred (uZ w 2 0) then 1 else 0)
  | 0x15 => if uZ w 2 0 = 0 then .go s r else .go (s.setEng e (g.setPred (uZ w 2 0) (x ≠ 0))) (r.saw 1)
  | 0x16 =>
    let m := me && uZ w 12 12 == 1
    let u := s.meSeen e
    let a := microAddr w y
    u.microMem e m a ((u.eng e).me.reads m u.now) (fun t => wr t r (uX w) (t.dataWord e m a))
  | 0x17 =>
    let u := s.meSeen e
    let a := microAddr w y
    u.microMem e false a false (fun t => .go (t.portWrite e false a t.now x) (r.saw 3))
  | 0x18 => wr s r (uX w) (verdictWord (s.verdictAt (y.bits 8 0) (s.now - 1)))
  | 0x19 => wr s r (uX w) (BitVec.ofNat 32 (s.pauliAt (y.bits 7 0) s.now).toNat)
  | 0x1A => let z := s.specWrite e r (uX w) (BitVec.ofNat 32 s.now); wr z.1 z.2 (uY w) (BitVec.ofNat 32 (s.now >>> 32))
  | 0x1B =>
    let z := s.specWrite e r (uX w) (BitVec.ofNat 32 g.tc.toNat)
    wr z.1 z.2 (uY w) (BitVec.ofNat 32 (g.tc.toNat >>> 32))
  | 0x1C => .go (s.setEng e { g with tc := BitVec.ofNat 64 (x.toNat + 2 ^ 32 * y.toNat) }) (r.saw 2)
  | 0x1D => .go (s.setEng e { g with tc := g.tc + x.setWidth 64 }) (r.saw 2)
  | 0x1E => fx (s.raiseAt (256 + uZ w 7 0) (s.now + 1))
  | 0x20 => s.microDep e r w drop
  | 0x28 =>
    let n := x.bits 11 0
    if n = 0 ∨ 4000 < n then .bad s fIllegal
    else s.microDeposit e r (.wopen n (uZ w 0 0 == 1) false) (2 * n) (some (.wopen n (uZ w 0 0 == 1) true)) drop
  | 0x29 => s.microAcc e r (fun t =>
      let ef := uZ w 4 0
      let mx := uZ w 5 5 == 1
      let n := x.toNat
      let ok := if mx then ef &&& 8 == 0 && n ≤ 4096 && (ef &&& 16 != 0 || n != 0) else ef ≤ 1 && n ≤ 4095
      let win := !mx || ef &&& 16 != 0
      if !ok then .bad t fIllegal
      else if drop then .go t r
      else if win then .go (t.startWindow e (ef % 2) n (mx && ef &&& 4 != 0)) (r.saw 5)
      else .go (t.modMe e (fun m => { m with
        run := some ⟨ef % 2, 2 + ef / 2 % 2, ef &&& 4 != 0, none, n, t.now + 1, false, (t.eng e).pc⟩ })) (r.saw 5))
  | 0x2A => s.microAcc e r (fun t =>
      if drop then .go t r
      else .go (t.modMe e (fun m => { m with accI := 0, accQ := 0, inv := false })) (r.saw 5))
  | 0x2B => s.microAcc e r (fun t =>
      let sh := uZ w 6 1
      if 47 < sh then .bad t fIllegal
      else
        let raw := rdaRaw (t.eng e).me (uZ w 0 0 == 1) sh
        let u := if clampsS 32 raw ∧ !drop then t.overflow e t.now false else t
        wr u (if clampsS 32 raw then { r with visible := true } else r) (uX w) (BitVec.ofInt 32 (satS 32 raw)))
  | 0x2C =>
    let t := s.meSeen e
    if y.toNat = 0 ∨ 4096 < y.toNat ∨ 0x4000 < x.toNat + 4 * y.toNat then .bad t fDaddr
    else if x.toNat % 4 ≠ 0 then .bad t fAlign
    else if drop then .go t r
    else .go (t.modMe e (fun m => { m with cbs := m.cbs ++ [⟨t.now, uZ w 1 0, x.toNat, y.toNat, uZ w 2 2 == 1⟩] })) (r.saw 5)
  | 0x2D =>
    let map := uZ w 12 12 == 1
    let a := 4 * uZ w 11 0
    if 0x4000 < a + (if map then 2060 else 32) then .bad s fDaddr
    else
      let u := s.meSeen e
      if (u.eng e).me.reads map u.now then .stay
      else match u.eccDisc e map a x.toInt y.toInt with
        | some t => wr t r (uX w) (discWord (t.discriminate e map a x.toInt y.toInt) (t.meInv (t.eng e)))
        | none => .bad s fEcc
  | 0x2E =>
    let t := s.meSeen e
    let v : Verdict := { seq := y.bits 7 0, conf := x.bit 2 && !t.meInv (t.eng e), state := x.bits 1 0 }
    fx ((t.writeVerdict (e - 768) (t.now + 1) (some v)).raiseAt (e - 768) (t.now + 1))
  | 0x2F =>
    let t := s.meSeen e
    fx { t with pubs := t.pubs ++ [⟨t.now + 1, y.bits 10 0, y.bits 27 12, x.bit 0, x.bit 2 && !t.meInv (t.eng e)⟩] }
  | 0x30 =>
    let t := s.meSeen e
    if (t.acq (inputOf e)).state = .hist then fx (t.histAdd (inputOf e) (chanOf e) x y) else .go t r
  | 0x31 =>
    let a := (specReg r (uX w)).getD 0
    let n := uZ w 2 0 + 1
    let acc := uZ w 3 3 == 1
    if 31 < a + n - 1 then .bad s fIllegal
    else if 4 ≤ g.me.recs.length ∨ (acc ∧ s.interlocked e) then .hold s r .stalled none
    else
      let t := s.meSeen e
      fx (t.modMe e (fun m => { m with recs := m.recs ++ [t.recOf e a n acc (t.eng e)] }))
  | m => if 0x08 ≤ m ∧ m ≤ 0x13 then
      let b := if uZ w 13 13 = 1 then BitVec.ofInt 32 (sext 13 (uZ w 12 0)) else specRead g r (uZ w 5 0)
      wr s r (uX w) (microAlu m y b)
    else .go s r

/-- UCS_ENG_CONT of a routine (R268). -/
def contWord (r : Routine) (held : Bool) (mpc : Nat) : Word :=
  BitVec.ofNat 32 (b2n held * 2 ^ 31 + b2n r.visible * 2 ^ 30 + r.num % 256 * 2 ^ 16 + mpc % 2048)

/-- UCS_ENG_CONT while the routine is not held: MPC keeps the last safe point held (15 Registers). -/
def Eng.contOn (g : Eng) (r : Routine) : Word := contWord r false (g.cont.bits 10 0)

/-- The routine is held at a safe point, offset `mpc` (R268, R269). -/
def State.holdRoutine (s : State) (e : Nat) (r : Routine) (st : EngState) (mpc : Nat) : State :=
  s.modEng e (fun g => { g with routine := some { r with pc := mpc }, state := st, cont := contWord r true mpc })

/-- The routine goes on in the next tick. -/
def State.nextGroup (s : State) (e : Nat) (r : Routine) : State :=
  s.modEng e (fun g => { g with routine := some { r with resume := some (s.now + 1) }, cont := g.contOn r })

/-- The routine has ended: PC moves on to the next instruction, which issues in the next tick (R266). -/
def State.endRoutine (s : State) (e : Nat) (r : Routine) : State :=
  s.modEng e (fun g => { g with routine := none, state := .running, pc := g.pc + 1, ready := s.now + 1, cont := g.contOn r })

/-- ABORT at the SAFE or UEND that ends a roll-forward (R270). -/
def State.abortRoutine (s : State) (e : Nat) (r : Routine) (code mpc : Nat) : State :=
  let w := BitVec.ofNat 32 (2 ^ 31 + b2n r.multi * 2 ^ 30 + r.chg * 2 ^ 24 + code * 2 ^ 16 + mpc)
  (s.modEng e (fun g => { g with abortState := if g.fltValid then g.abortState else w, cont := g.contOn r })).engFault e fAbort

/-- A halt has reached the routine at a safe point (R269): the continuation stays readable. -/
def State.haltRoutine (s : State) (e : Nat) (r : Routine) : State :=
  s.modEng e (fun g => { g.stop .halted with routine := none, cont := contWord r true r.pc })

/-- A microword of the open store is fetched (R273): none where it is beyond correction, which raises ECC. -/
def State.fetchMicro (s : State) (e : Nat) (off : Nat) : State × Option Word :=
  let x := ucsStore (clsOf e) + 4 * off
  let r := s.microEcc x
  (r.1, if r.2 then some (memWord s.sram x) else none)

/-- Run the routine for the rest of the group of the present tick, at most `k` microwords (R266). A halt, and a STOP or SAFE, take
effect at a safe point (R267, R269); a fault after a visible write rolls the routine forward (R270). -/
def State.runGroup (e : Nat) : Nat → State → Routine → State
  | 0, s, r => s.nextGroup e r
  | k + 1, s, r =>
    let f := s.fetchMicro e r.pc
    let w := f.2.getD 0
    let drop := r.drop.any (fun x => decide (x < s.now)) || s.stopAt.any (fun x => decide (x < s.now))
    let stopped := (s.eng e).haltReq || s.stopAt.any (fun x => decide (x ≤ s.now))
    if r.rolling.isNone && stopped && (!r.visible || uMop w == 1) then s.haltRoutine e r
    else match r.rolling, (uMop w == 1 || uMop w == 5) with
    | some (code, mpc), true => f.1.abortRoutine e r code mpc
    | _, _ =>
      match (if f.2.isSome then f.1.micro e r w drop else .bad f.1 fEcc) with
      | .go t q => State.runGroup e k t { q with pc := r.pc + 1 }
      | .jump t q off => State.runGroup e k t { q with pc := r.start + off }
      | .stop t => t.endRoutine e r
      | .stay => f.1.nextGroup e r
      | .bad t code =>
        if r.rolling.isSome then State.runGroup e k t { r with pc := r.pc + 1, multi := true }
        else if r.visible then State.runGroup e k t { r with pc := r.pc + 1, rolling := some (code, r.pc) }
        else (t.modEng e (fun g => { g with cont := g.contOn r })).engFault e code
      | .hold t q st met => t.holdRoutine e { q with resume := met.map (· + 1) } st (r.pc - 1)

/-- UOP (R83, R266): UOP_ABSENT without a valid directory entry, otherwise the routine's first group runs in the next tick. -/
def execUop (e : Fin 1024) (f : JWord) (s : State) : Res :=
  s.issue e f { dm := 31, am := 31, bm := 31, im := 0xFF, rd := true, ra := true, rb := true, l1 := false } (fun _ => true) false
    false (fun t _ => t.fin e 1)
    (fun t _ =>
      let n := f.im 7 0
      let d := memWord t.sram (ucsDir (clsOf e) + 4 * n)
      if !d.bit 31 then some (t.engFault e fUopAbsent)
      else
        let r : Routine := { num := n, start := d.bits 10 0, len := d.bits 27 16, d := f.d.toNat, a := f.a.toNat, b := f.b.toNat,
                             pc := d.bits 10 0, resume := some (t.now + 1) }
        some (t.modEng e (fun g => { g with gmask := 0, cont := contWord r false 0, routine := some r })))

/-- The tick of a routine's next group: the next tick while it runs; held, the tick after its wait condition is met (R268). -/
def State.groupTick (s : State) (e : Nat) (r : Routine) : Option Nat :=
  let g := s.eng e
  match r.resume with
  | some k => some k
  | none =>
    if g.state = .waiting then none
    else match g.accEnd with
    | some k => some (k + 1)
    | none => if g.me.run.isNone ∧ g.me.recs.length < 4 ∧ g.depth < queueCap (clsOf e) then some (max s.now (g.me.lastDone + 1))
              else none

/-- One group of engine e's routine, in its tick. A wait for a cue is not resumed by its timeout before the cues of that tick. -/
def State.stepRoutine (s : State) (e : Nat) : State :=
  match (s.eng e).routine with
  | none => s
  | some r =>
    match s.groupTick e r with
    | none => s
    | some k =>
      let s1 := s.advanceTo k
      if !liveState (s.eng e).state || !s1.cuesHere then s
      else
        let r1 := { r with resume := none }
        State.runGroup e 4 (s1.modEng e (fun g => { g with state := .running, cont := g.contOn r1 })) r1

/-- ROUTINE_RESUME (R266, R268): the routine runs on from its safe point in the tick after its condition is met. A routine that is
not held runs its next group (DESIGN CHOICE, log 135: the table has no row for it; an idle step runs it too). -/
def execRoutineResume (e : Fin 1024) (s : State) : Res := .next (if s.power then s.stepRoutine e else s)

end Sys2Proof.Machine
end

