-- ==== Sys2Proof/Machine/Acquire.lean ====
section
/-! DEFINITION. Rows of the acquisition units (13): arming (R234, R242), triggers (R231, R233, R237), samples (R230, R239),
lines that leave (R243), ME records (R247) and the miss FIFO (R240). -/
namespace Sys2Proof.Machine

/-- The units named by a mask. -/
def unitsOf (m : Nat) : List Nat := (List.range 16).filter (fun u => m.testBit u)

/-- A stream whose record opens at T_a (R241). -/
def State.acqEndless (s : State) (u : Nat) : Bool := s.flag (acqCfgStream u) && s.rdn .acqPost u == 0

/-- FORMAT conditions of R234 and R245. -/
def State.acqBadForm (s : State) (u : Nat) : Bool :=
  let raw := s.acqRaw u
  let mask := s.fld (acqCfgChmask u)
  let dest := s.fld (acqCfgDest u)
  (!raw && mask == 0) || decide (8 < s.fld (acqCfgDec u)) || (s.flag (acqCfgStream u) && dest == 0) || dest == 3
    || decide (2 ≤ s.fld (acqCfgMode u)) || (s.flag (acqCfgMeas u) && !raw && !mask.testBit (s.fld (acqCfgMch u)))

/-- The capacity rules of R238 fail; a unit that takes histograms records nothing. -/
def State.acqOverCap (s : State) (u : Nat) : Bool :=
  let pre := s.rdn .acqPre u
  let lines := s.acqLines u pre (s.rdn .acqPost u)
  let nrec := s.fld (acqNrecNrec u)
  if s.fld (acqCfgMode u) != 0 then false
  else if s.flag (acqCfgStream u) then decide (32768 < ceilDiv (s.acqB u * pre) 60)
  else s.rdn .acqPost u == 0 || (if s.fld (acqCfgDest u) = 0 then nrec == 0 || decide (65536 < nrec * lines) else decide (65536 < lines))

/-- The bandwidth that a unit would reserve, in 1/256 GB/s (R242). -/
def State.acqWants (s : State) (u : Nat) : Nat :=
  if !s.flag (acqCfgStream u) || s.fld (acqCfgMode u) != 0 then 0
  else (if s.acqRaw u then 16384 else 512 * popCount 16 (s.fld (acqCfgChmask u))) / 2 ^ s.fld (acqCfgDec u)

/-- A unit is armed: it holds its reservation (R242). -/
def State.acqArmed (s : State) (u : Nat) : Bool := (s.acq u).state != .idle || (s.acq u).armAt.isSome

/-- Reservations of a set of units for a destination: 1 bulk memory, 2 the host link. -/
def State.acqReserved (s : State) (us : List Nat) (dest : Nat) : Nat :=
  ((us.filter (fun u => s.fld (acqCfgDest u) == dest)).map s.acqWants).sum

/-- The limit of a destination (R242). -/
def State.acqLimit (s : State) (dest : Nat) : Nat := if dest = 1 then 4096 * s.groupsUp else 4096

/-- ACQ_BW_STAT (R242): reservations in GB/s rounded up, limits, OVERSUB. -/
def State.acqBwWord (s : State) : Word :=
  let armed := (List.range 16).filter s.acqArmed
  let res (d : Nat) : Nat := ceilDiv (s.acqReserved armed d) 256
  BitVec.ofNat 32 (bw (decide (s.acqLimit 1 < s.acqReserved armed 1)) 31 + res 2 % 128 * 2 ^ 24 + s.acqLimit 2 / 256 * 2 ^ 16
    + res 1 % 256 * 2 ^ 8 + s.acqLimit 1 / 256)

/-- The checks of ACQ_ARM in the order of R234's table: the first code found. -/
def State.acqArmStatus (s : State) (us : List Nat) (ta : Nat) : Status :=
  let held := (List.range 16).filter s.acqArmed
  let tooMany (d : Nat) : Bool := decide (s.acqLimit d < s.acqReserved (held ++ us) d) && us.any (fun u => s.fld (acqCfgDest u) == d && s.acqWants u != 0)
  if us.any s.acqBadForm then .format
  else if us.any s.acqArmed then .busy
  else if ta ≠ 0 ∧ ta < s.now + 1000 then .late
  else if (s.mode == .armed || s.mode == .run) && us.any (fun u => !s.flag (rfiStatOn u)) then .absent
  else if us.any (fun u => s.acqOverCap u || (s.acqWants u != 0 && decide (s.acqLimit (s.fld (acqCfgDest u)) < s.acqWants u))) then .range
  else if tooMany 1 || tooMany 2 then .busy
  else .ok

/-- ACQ_ARM (R234): T_a = 0 arms 8 ticks later, within 1 µs, so that no line trigger is on its way that met the unit unarmed
(DESIGN CHOICE, log 70). -/
def execAcqArm (c : Cmd) (s : State) : Res :=
  s.admin 0x30 c (Cmd.only c [(1, 0xFFFF), (2, wordMask), (3, wordMask)]) (fun t =>
    let us := unitsOf (c.w 1).toNat
    let ta := c.w64 2
    match t.acqArmStatus us ta with
    | .ok =>
      let at_ := if ta = 0 then t.now + 8 else ta
      (us.foldl (fun st u => st.modAcq u (fun a => { a with armAt := some at_ })) t).complete c.tag 0x30 .ok
    | st => t.complete c.tag 0x30 st)

/-- ACQ_DISARM (R236). -/
def execAcqDisarm (c : Cmd) (s : State) : Res :=
  s.admin 0x31 c (Cmd.only c [(1, 0xFFFF)]) (fun t =>
    ((unitsOf (c.w 1).toNat).foldl (fun st u => st.acqDisarm u) t).complete c.tag 0x31 .ok)

/-! The arm tick. -/

/-- Counters since arm, and BULK_WR, return to 0. -/
def State.acqClear (s : State) (u : Nat) : State :=
  ((((s.wr .acqRecCnt 0 u).wr .acqMissCnt 0 u).wr .acqHistEdgeCnt 0 u).wr .acqRecDiscCnt 0 u).wr .acqBulkWr 0 u

/-- The first TT trigger at or after a tick (R231), by its index. -/
def State.ttFirst (s : State) (u : Nat) : Nat :=
  let t0 := s.rd64 .acqTtTrigLo .acqTtTrigHi u
  let per := s.rdn .acqTtPer u
  if s.now ≤ t0 then 0 else if per = 0 then 1 else ceilDiv (s.now - t0) per

/-- A record opens for an instant in 1/256 tick (R233). -/
def State.acqBegin (s : State) (u t : Nat) (wt : List Word) : State :=
  let r : AcqRec := { num := (s.acq u).opened, t := t, wt := wt, first := s.acqFirst u t }
  s.modAcq u (fun a => { a with state := .capture, rcd := some r, opened := a.opened + 1 })

/-- ACQ_ARM_TICK (R236): T_a of an accepted ACQ_ARM. Lines of an earlier arm that still wait to leave keep their places when
a record fits beside them. -/
def execAcqArmTick (u : Fin 16) (s : State) : Res :=
  let k := u.val
  match s.alive, (s.acq k).armAt with
  | true, some ta =>
    let s1 := (s.advanceTo ta).acqClear k
    if s1.fld (acqCfgMode k) = 1 then
      let s2 := { s1 with sram := memClear s1.sram (acqBase k) (acqBase k + 0x400000) }
      .next (s2.modAcq k (fun a => { state := .hist, rr := a.rr, recAt := a.recAt }))
    else
      let keep := s1.acqLeaves k && s1.acqHasRoom k
      let s2 := s1.modAcq k (fun a => {
        state := .fill
        fillAt := s1.now
        rr := a.rr
        recAt := a.recAt
        trigs := a.trigs
        wpos := if keep then a.wpos else 0
        held := if keep then a.held else 0
        done := if keep then a.held else 0
        ttNext := s1.ttFirst k })
      if s1.acqEndless k then
        let s3 := s2.acqBegin k (256 * s2.now) s2.wtStamp
        match (s3.acq k).rcd with
        | some r =>
          let q := s3.acqOpen k r
          .next (q.1.modAcq k (fun a => { a with rcd := some q.2 }))
        | none => .next s3
      else .next s2
  | _, _ => .next s

/-! Triggers. -/

/-- A mark line (R241): the instant, the first sample at or after it, the WT stamp. -/
def State.acqMark (s : State) (u t : Nat) (wt : List Word) (r : AcqRec) : List Word :=
  [BitVec.ofNat 32 r.num, BitVec.ofNat 32 (s.fld (acqTrigTsrc u) + s.fld (acqTrigTsel u) * 2 ^ 4)] ++ w64 (t / 256)
    ++ [BitVec.ofNat 32 (t % 256)] ++ w64 (s.acqFirst u t) ++ wt

/-- A stream's trigger in CAPTURE becomes a mark line after the data line being filled (R241). -/
def State.acqMarkNow (s : State) (u t : Nat) (wt : List Word) : State :=
  match (s.acq u).rcd with
  | none => s
  | some r =>
    let m := s.acqMark u t wt r
    if r.opened && r.buf.isEmpty then
      let q := s.acqLine u 3 r m
      q.1.modAcq u (fun a => { a with rcd := some q.2 })
    else s.modAcq u (fun a => { a with rcd := some { r with marks := r.marks ++ [m] } })

/-- The open record has its last sample (R237). -/
def State.acqFull (s : State) (u : Nat) : State :=
  match (s.acq u).rcd with
  | none => s
  | some r => if s.rdn .acqPost u ≠ 0 ∧ s.rdn .acqPost u ≤ r.post then (s.acqClose u .full).acqAfter u else s

/-- An accepted trigger opens a record; post-trigger samples that are already written go into it. -/
def State.acqAccept (s : State) (u t : Nat) (wt : List Word) : State :=
  let s1 := s.acqBegin u t wt
  match (s1.acq u).rcd with
  | none => s1
  | some r =>
    if (s1.acq u).past.any (fun x => r.first ≤ x.index) then
      let q := s1.acqOpen u r
      (q.1.modAcq u (fun a => { a with rcd := some q.2, past := [] })).acqFull u
    else s1

/-- A trigger of instant t (1/256 tick) reaches unit u in the present tick and is judged by its state (R237, R236). -/
def State.acqJudge (s : State) (u t : Nat) (wt : List Word) : State :=
  match (s.acq u).state with
  | .idle | .hist => s
  | .held => s.acqMissed u t 4
  | st =>
    if s.resettling then s.acqMissed u t 5
    else match st with
    | .fill => if s.acqWriteTick u (s.acqFirst u t) < (s.acq u).fillAt then s.acqMissed u t 1 else s.acqAccept u t wt
    | .capture => if s.flag (acqCfgStream u) then s.acqMarkNow u t wt else s.acqMissed u t 3
    | .noSpace => s.acqMissed u t 2
    | _ => s.acqMissed u t 1

/-- ACQ_TRIGGER (R231, R237): the earliest trigger on its way reaches the unit. -/
def execAcqTrigger (u : Fin 16) (s : State) : Res :=
  let k := u.val
  match s.alive, (s.acq k).trigs with
  | true, x :: xs =>
    let e := xs.foldl (fun (m : Trig) y => if y.reach < m.reach then y else m) x
    let s1 := s.advanceTo e.reach
    .next ((s1.modAcq k (fun a => { a with trigs := (x :: xs).erase e })).acqJudge k e.t e.wt)
  | _, _ => .next s

/-- ACQ_TT_TRIGGER (R231, R403): TT reaches the next of the unit's TT triggers, or has moved past it. -/
def execAcqTtTrigger (u : Fin 16) (s : State) : Res :=
  let k := u.val
  let a := s.acq k
  let per := s.rdn .acqTtPer k
  let t0 := s.rd64 .acqTtTrigLo .acqTtTrigHi k
  let v := t0 + a.ttNext * per
  if !s.alive || s.fld (acqTrigTsrc k) ≠ 3 || a.state = .idle || a.state = .hist || (per == 0 && a.ttNext != 0) then .next s
  else
    let s1 := s.advanceTo v
    let next := if per = 0 then 1 else (s1.now - t0) / per + 1
    .next ((s1.modAcq k (fun a => { a with ttNext := next })).acqJudge k (256 * s1.now) s1.wtStamp)

/-! Samples. -/

/-- Sample times kept before a trigger: PRE, and those that a trigger still on its way can make post-trigger samples. -/
def State.acqKeep (s : State) (u : Nat) : Nat := s.rdn .acqPre u + 16384

/-- Sample time k of the raw source from the converter codes of its group (R228, R229): the floor of their mean, and a tag for a
code of -2,048 or +2,047. -/
def rawSample (dec k : Nat) (codes : List (BitVec 12)) : AcqSample :=
  let g := (List.range (2 ^ dec)).map (fun i => (codes.getD i 0).toInt)
  { index := k, values := [(g.foldl (· + ·) 0 / 2 ^ dec, 0)], tagged := g.any (fun x => x == -2048 || x == 2047) }

/-- Sample time k of the demodulated source, once its 2^DEC source samples have come (R228, R229): the enabled channels in
ascending order, each component the floor of its mean. -/
def State.demodTime (s : State) (u k : Nat) : Option AcqSample :=
  let n := 2 ^ s.fld (acqCfgDec u)
  let src := (List.range n).filterMap (fun i => (tabGet s.streams u []).find? (fun x => x.m == k * n + i))
  let chans := (List.range 16).filter (fun c => (s.fld (acqCfgChmask u)).testBit c)
  let mean (f : Int × Int → Int) (c : Nat) : Int := (src.map (fun x => f (x.d.getD c (0, 0)))).foldl (· + ·) 0 / n
  if src.length = n then
    some { index := k, values := chans.map (fun c => (mean Prod.fst c, mean Prod.snd c)),
           tagged := src.any (fun x => chans.any (fun c => x.tags.getD c false)) }
  else none

/-- Sample time k as it reaches the unit (R228). -/
def State.acqTime (s : State) (u k : Nat) (codes : List (BitVec 12)) : Option AcqSample :=
  if s.acqRaw u then some (rawSample (s.fld (acqCfgDec u)) k codes) else s.demodTime u k

/-- ACQ_SAMPLE_WRITE (R230, R237, R239): a sample time is written in its tick; the record closes with its POST-th. Without power
at the input's converter there is none. -/
def execAcqSampleWrite (u : Fin 16) (n : Nat) (codes : List (BitVec 12)) (s : State) : Res :=
  let k := u.val
  match !s.alive || s.resettling || !s.flag (rfiStatOn k), s.acqTime k n codes with
  | true, _ | _, none => .next s
  | false, some x =>
    let s1 := s.advanceTo (s.acqWriteTick k x.index)
    let a := s1.acq k
    match a.state, a.rcd with
    | .fill, _ =>
      if s1.acqWriteTick k x.index < a.fillAt then .next s1
      else .next (s1.modAcq k (fun a => { a with past := (x :: a.past).take (s1.acqKeep k) }))
    | .capture, some r =>
      if x.index < r.first then .next (s1.modAcq k (fun a => { a with past := (x :: a.past).take (s1.acqKeep k) }))
      else
        let q := if r.opened then (s1, r) else s1.acqOpen k r
        let w := q.1.acqStore k q.2 x true
        .next ((w.1.modAcq k (fun a => { a with rcd := some w.2, past := [] })).acqFull k)
    | _, _ => .next s1

/-- REARM_END (R237): 16 ticks after the close. -/
def execRearmEnd (u : Fin 16) (s : State) : Res :=
  let a := s.acq u.val
  if s.alive && a.state == .rearm && !s.resettling then .next ((s.advanceTo (a.closeAt + 17)).acqRefill u.val) else .next s

/-- ACQ_ROOM (R237): a unit in NOSPACE whose memory can take a record enters FILL. -/
def execAcqRoom (u : Fin 16) (s : State) : Res :=
  if s.alive && (s.acq u.val).state == .noSpace && s.acqHasRoom u.val && !s.resettling then .next (s.acqRefill u.val) else .next s

/-! Lines leave. -/

/-- The unit's bulk region has room (R243). -/
def State.acqBulkRoom (s : State) (u : Nat) : Bool :=
  let len := s.rdn .acqBulkLen u
  len != 0 && decide (((s.rdn .acqBulkWr u : Int) - s.rdn .acqBulkRd u) % len < len - 64)

/-- A line can leave for destination 1, the bulk region, or 2, the host result ring of the unit. -/
def State.acqDestRoom (s : State) (u dest : Nat) : Bool := if dest = 1 then s.acqBulkRoom u else !s.ringFull u

/-- A line leaves (R243, R309). -/
def State.acqSend (s : State) (u dest : Nat) (ws : List Word) : State :=
  if dest = 1 then
    let wr := s.rdn .acqBulkWr u
    let len := s.rdn .acqBulkLen u
    let base := s.rd64 .acqBulkBaseLo .acqBulkBaseHi u
    (s.bulkWrite (base + wr) (wordsBytes (pad16 ws))).wr .acqBulkWr (if len ≤ wr + 64 then 0 else wr + 64) u
  else s.ringPush u ws (fun _ => (pad16 ws).getD 15 0)

/-- ACQ_LINE_OUT (R243): the oldest line that waits leaves; without STREAM only lines of closed records do. -/
def execAcqLineOut (u : Fin 16) (s : State) : Res :=
  let k := u.val
  let a := s.acq k
  let dest := s.fld (acqCfgDest k)
  let n := if s.flag (acqCfgStream k) then a.held else a.done
  if !s.alive || !s.acqLeaves k || n = 0 || !s.acqDestRoom k dest then .next s
  else
    let ws := memWords s.sram (acqBase k + 64 * ((a.wpos - a.held) % 65536)) 16
    .next ((s.acqSend k dest ws).modAcq k (fun a => { a with held := a.held - 1, done := a.done - 1 }))

/-! ME records. -/

/-- The line of an ME record (R247). -/
def Rec.line (r : Rec) : List Word :=
  let w0 := r.me + (r.regs.length - 1) * 2 ^ 16 + bw r.acc.isSome 20 + bw r.inv 31
  let acc := match r.acc with
    | some (i, q) => w64 (twos 64 i) ++ w64 (twos 64 q)
    | none => [0, 0, 0, 0]
  BitVec.ofNat 32 w0 :: (w64 r.tt.toNat ++ (r.regs ++ List.replicate 8 0).take 8 ++ acc ++ [BitVec.ofNat 32 (5 * 2 ^ 28)])

/-- A routine that waits in UREC goes on in the tick after a place is free (R268). -/
def Eng.urecResume (g : Eng) (word : Word) (t : Nat) : Eng :=
  match g.routine with
  | some r => if g.state == .stalled && uMop word == 0x31 && g.me.run.isNone then
      { g with routine := some { r with resume := some (t + 1) } } else g
  | none => g

/-- REC_TAKE (R247): the unit takes the next ME record of its rotation, if its line can be placed. -/
def execRecTake (u : Fin 16) (s : State) : Res :=
  let k := u.val
  let a := s.acq k
  let order := (List.range 16).map (fun i => 768 + 16 * k + (a.rr + i) % 16)
  match order.find? (fun e => !(s.eng e).me.recs.isEmpty) with
  | none => .next s
  | some e =>
    match (s.eng e).me.recs with
    | [] => .next s
    | r :: rs =>
      let dest := match s.fld (acqRecDestDest k) with | 1 => 2 | 2 => 1 | _ => 0
      if !s.alive || (dest != 0 && !s.acqDestRoom k dest) then .next s
      else
        let s1 := s.advanceTo (max a.recAt (r.tt.toNat + 1))
        let pc := match (s1.eng e).routine with | some q => q.pc + 1 | none => 0
        let w := memWord s1.sram (ucsStore .me + 4 * pc)
        let s2 := s1.modEng e (fun g => { g.urecResume w s1.now with me := { g.me with recs := rs } })
        let s3 := s2.modAcq k (fun a => { a with rr := (e + 1) % 16, recAt := s1.now + 1 })
        .next (if dest = 0 then s3.countReg .acqRecDiscCnt k else s3.acqSend k dest r.line)

/-! Host writes accepted in every state. -/

/-- ACQ_MISS_POP (R240). -/
def execAcqMissPop (u : Fin 16) (s : State) : Res :=
  if s.alive then .next (s.modAcq u.val (fun a => { a with miss := a.miss.drop 1 })) else .next s

/-- ACQ_BULK_RD (R243): bits [5:0] read 0. -/
def execAcqBulkRd (u : Fin 16) (v : Word) (s : State) : Res :=
  if s.alive then .next (s.put (acqBulkRdRd u.val) (v.bits 31 6)) else .next s

end Sys2Proof.Machine
end

