-- ==== Sys2Proof/Machine/Crypto.lean ====
section
/-! DEFINITION. AES-CMAC with a 256-bit key (R281) and SHA-384 (R271), as their standards define them: FIPS 197, SP 800-38B, FIPS
180-4. Byte strings are lists of numbers below 256. -/
namespace Sys2Proof.Machine

/-- A number as `n` bytes, the most significant first. -/
def bytesBE : Nat → Nat → List Nat
  | 0, _ => []
  | n + 1, v => (v / 256 ^ n % 256) :: bytesBE n v

/-- The number that bytes spell, the most significant first. -/
def natBE (bs : List Nat) : Nat := bs.foldl (fun a b => 256 * a + b) 0

/-- Bytewise exclusive or. -/
def xorBytes (a b : List Nat) : List Nat := List.zipWith (· ^^^ ·) a b

/-! AES. -/

/-- Multiplication by x in GF(2^8). -/
def xtime (a : Nat) : Nat := if 128 ≤ a then 2 * a ^^^ 0x11B else 2 * a

/-- Multiplication in GF(2^8). -/
def gfMul (a b : Nat) : Nat :=
  ((List.range 8).foldl (fun (p : Nat × Nat) i => (if b.testBit i then p.1 ^^^ p.2 else p.1, xtime p.2)) (0, a)).1

/-- The S-box: the inverse, a^254, and the affine map. -/
def sbox (a : Nat) : Nat :=
  let inv := ((List.range 7).foldl (fun (p : Nat × Nat) _ => (gfMul p.1 (gfMul p.2 p.2), gfMul p.2 p.2)) (1, a)).1
  let rot (k : Nat) : Nat := (inv * 2 ^ k) % 256 ^^^ inv / 2 ^ (8 - k)
  inv ^^^ rot 1 ^^^ rot 2 ^^^ rot 3 ^^^ rot 4 ^^^ 0x63

/-- One more word of the key schedule, the newest first. -/
def keyStep (ws : List (List Nat)) (i : Nat) : List (List Nat) :=
  let t := ws.headD []
  let rcon := (List.range (i / 8 - 1)).foldl (fun r _ => xtime r) 1
  let u := if i % 8 = 0 then xorBytes ((t.drop 1 ++ t.take 1).map sbox) [rcon, 0, 0, 0]
    else if i % 8 = 4 then t.map sbox
    else t
  xorBytes (ws.getD 7 []) u :: ws

/-- The 15 round keys of a 256-bit key. -/
def roundKeys (key : List Nat) : List (List Nat) :=
  let first := (List.range 8).map (fun i => (key.drop (4 * i)).take 4)
  let ws := ((List.range 52).foldl (fun ws i => keyStep ws (i + 8)) first.reverse).reverse
  (List.range 15).map (fun r => ((ws.drop (4 * r)).take 4).flatten)

/-- MixColumns of one column. -/
def mixColumn (c : List Nat) : List Nat :=
  let at_ (i : Nat) : Nat := c.getD (i % 4) 0
  (List.range 4).map (fun i => xtime (at_ i) ^^^ (xtime (at_ (i + 1)) ^^^ at_ (i + 1)) ^^^ at_ (i + 2) ^^^ at_ (i + 3))

/-- AES on one block of 16 bytes under its round keys. -/
def aesBlock (keys : List (List Nat)) (b : List Nat) : List Nat :=
  let subShift (s : List Nat) : List Nat := (List.range 16).map (fun i => sbox (s.getD ((i + 4 * (i % 4)) % 16) 0))
  let mix (s : List Nat) : List Nat := (List.range 4).flatMap (fun c => mixColumn ((s.drop (4 * c)).take 4))
  let s := ((keys.drop 1).take 13).foldl (fun s k => xorBytes (mix (subShift s)) k) (xorBytes b (keys.headD []))
  xorBytes (subShift s) (keys.getD 14 [])

/-- Doubling in GF(2^128) of a block. -/
def cmacDouble (b : List Nat) : List Nat :=
  let v := natBE b
  bytesBE 16 (if 2 ^ 127 ≤ v then (2 * v % 2 ^ 128) ^^^ 0x87 else 2 * v)

/-- AES-CMAC: the full tag. -/
def aesCmac (key msg : List Nat) : List Nat :=
  let keys := roundKeys key
  let k1 := cmacDouble (aesBlock keys (List.replicate 16 0))
  let n := max 1 ((msg.length + 15) / 16)
  let last := msg.drop (16 * (n - 1))
  let fin := if last.length = 16 then xorBytes last k1
    else xorBytes ((last ++ [128] ++ List.replicate 16 0).take 16) (cmacDouble k1)
  let s := (List.range (n - 1)).foldl (fun s i => aesBlock keys (xorBytes s ((msg.drop (16 * i)).take 16))) (List.replicate 16 0)
  aesBlock keys (xorBytes s fin)

/-! SHA-384. -/

/-- The integer k-th root of n below 2^68. -/
def intRoot (k n : Nat) : Nat := (List.range 68).reverse.foldl (fun r i => if (r + 2 ^ i) ^ k ≤ n then r + 2 ^ i else r) 0

/-- The first 80 primes. -/
def primes80 : List Nat := (List.range 410).filter (fun n => decide (2 ≤ n) && (List.range 19).all (fun d => d + 2 == n || n % (d + 2) != 0))

/-- The round constants: the fractions of the cube roots of the first 80 primes. -/
def shaK : List Nat := primes80.map (fun p => intRoot 3 (p * 2 ^ 192) % 2 ^ 64)

/-- The initial value of SHA-384: the fractions of the square roots of the ninth to sixteenth primes. -/
def shaInit : List Nat := ((primes80.drop 8).take 8).map (fun p => intRoot 2 (p * 2 ^ 128) % 2 ^ 64)

/-- Rotation right of a 64-bit number. -/
def ror64 (x k : Nat) : Nat := (x / 2 ^ k) ^^^ (x * 2 ^ (64 - k) % 2 ^ 64)

/-- One more word of the message schedule, the newest first. -/
def shaWord (ws : List Nat) : List Nat :=
  let w (k : Nat) : Nat := ws.getD (k - 1) 0
  let s0 := ror64 (w 15) 1 ^^^ ror64 (w 15) 8 ^^^ w 15 / 2 ^ 7
  let s1 := ror64 (w 2) 19 ^^^ ror64 (w 2) 61 ^^^ w 2 / 2 ^ 6
  (w 16 + s0 + w 7 + s1) % 2 ^ 64 :: ws

/-- One round: the eight working variables, and a word with its constant. -/
def shaRound (v : List Nat) (kw : Nat) : List Nat :=
  match v with
  | [a, b, c, d, e, f, g, h] =>
    let s1 := ror64 e 14 ^^^ ror64 e 18 ^^^ ror64 e 41
    let ch := (e &&& f) ^^^ ((2 ^ 64 - 1 - e) &&& g)
    let t1 := h + s1 + ch + kw
    let s0 := ror64 a 28 ^^^ ror64 a 34 ^^^ ror64 a 39
    let maj := (a &&& b) ^^^ (a &&& c) ^^^ (b &&& c)
    [(t1 + s0 + maj) % 2 ^ 64, a, b, c, (d + t1) % 2 ^ 64, e, f, g]
  | v => v

/-- The compression of one block of 128 bytes. -/
def shaBlock (h : List Nat) (b : List Nat) : List Nat :=
  let first := ((List.range 16).map (fun i => natBE ((b.drop (8 * i)).take 8))).reverse
  let ws := ((List.range 64).foldl (fun ws _ => shaWord ws) first).reverse
  let v := (List.zipWith (· + ·) shaK ws).foldl shaRound h
  List.zipWith (fun x y => (x + y) % 2 ^ 64) h v

/-- SHA-384 of a byte string, as 48 bytes. -/
def sha384 (msg : List Nat) : List Nat :=
  let pad := msg ++ [128] ++ List.replicate ((239 - msg.length % 128) % 128) 0 ++ bytesBE 16 (8 * msg.length)
  let h := (List.range (pad.length / 128)).foldl (fun h i => shaBlock h ((pad.drop (128 * i)).take 128)) shaInit
  (h.take 6).flatMap (bytesBE 8)

end Sys2Proof.Machine
end

