-- ==== Sys2Proof/Machine/CueCore.lean ====
section
/-! DEFINITION. The cue fabric (11): the configuration check (R200), cue cells (R196 to R199), coincidence and hold-off (R193,
R194), and what a cue that has appeared reaches: listeners, jump inputs, mutes, the shot cue, acquisition triggers, the
trigger bus, a waiting pattern and exports (R202, R205, R139, R123, R152, R231, R256, R260). -/
namespace Sys2Proof.Machine

/-- Fold over the registers of one name that have been written. -/
def State.eachReg (s : State) (k : RegK) (f : State → Nat → Nat → Word → State) : State :=
  s.regs.foldl (fun st e => if e.1.k = k then f st e.1.i e.1.j e.2 else st) s

/-- A field of every written register of one name becomes 0. -/
def State.clearFld (s : State) (k : RegK) (hi lo : Nat) : State :=
  { s with regs := s.regs.map (fun e => if e.1.k = k then (e.1, e.2.put hi lo 0) else e) }

/-- Indices of the written registers of one name. -/
def State.listed (s : State) (k : RegK) : List Nat := (s.regs.filter (fun e => e.1.k = k)).map (fun e => e.1.i)

/-! Cells. -/

/-- The channel an input j of cell k names, when it is enabled. -/
def State.cellIn (s : State) (k j : Nat) : Option Nat :=
  let w := if j < 2 then s.rd .cueCellIn01 k else s.rd .cueCellIn23 k
  let lo := 16 * (j % 2)
  if w.bit (lo + 15) then some (w.bits (lo + 9) lo) else none

/-- A cell's configuration word. -/
def State.cellCfg (s : State) (k : Nat) : Word := s.rd .cueCellCfg k
def cellLut (w : Word) : Nat := w.bits 31 16
def cellFf (w : Word) : Nat := w.bits 15 14
def cellInit (w : Word) : Bool := w.bit 13
def cellFilt (w : Word) : Nat := w.bits 9 8
def cellP (w : Word) : Nat := w.bits 7 0 + 1

/-- A cell. -/
def State.cell (s : State) (k : Nat) : Cell := tabGet s.cells k {}

/-- Cells whose configuration can give a level other than 0. -/
def State.liveCells (s : State) : List Nat :=
  (s.regs.filter (fun e => e.1.k = .cueCellCfg && e.2 != 0)).map (fun e => e.1.i)

/-- A cell is combinational (R200). -/
def State.comb (s : State) (k : Nat) : Bool := cellFf (s.cellCfg k) == 0

/-- Combinational cells that the inputs of cell k name. -/
def State.cellNext (s : State) (k : Nat) : List Nat :=
  ([0, 1, 2, 3].filterMap (s.cellIn k)).filterMap (fun c => if 512 ≤ c ∧ c < 768 ∧ s.comb (c - 512) then some (c - 512) else none)

/-- Cells reached from a set through inputs, in at most `n` steps. -/
def State.cellReach (s : State) : Nat → List Nat → List Nat → List Nat
  | 0, _, seen => seen
  | n + 1, todo, seen =>
    let nxt := ((todo.flatMap s.cellNext).eraseDups).filter (fun k => !seen.contains k)
    if nxt.isEmpty then seen else State.cellReach s n nxt (seen ++ nxt)

/-- Cells with a written input register, ascending: only these can stand in a loop or begin a chain. -/
def State.wiredCells (s : State) : List Nat :=
  (List.range 256).filter (fun k => (s.listed .cueCellIn01).contains k || (s.listed .cueCellIn23).contains k)

/-- A chain of more than `n` combinational cells, each naming the next, begins at cell k. -/
def State.chainOver (s : State) : Nat → Nat → Bool
  | 0, _ => true
  | n + 1, k => (s.cellNext k).any (State.chainOver s n)

/-- The check of R200 on the registers as they stand, `resv` being items whose image entry sets a reserved bit: REASON and ITEM
of the first failure. -/
def State.cueCheck (s : State) (resv : List Nat) : Option (Nat × Nat) :=
  let cs := s.wiredCells.filter s.comb
  match cs.find? (fun k => (s.cellReach 256 [k] []).contains k) with
  | some k => some (1, k)
  | none =>
    match cs.find? (fun k => s.chainOver 8 k) with
    | some k => some (2, k)
    | none =>
      match resv with
      | r :: rs => some (3, rs.foldl min r)
      | [] =>
        let names (k : RegK) (lo i : Nat) : Bool := (s.rd k i).bit 31 && (s.rd k i).bits (lo + 8) lo == s.ownId
        match (List.range 64).find? (fun e => names .cueExpA 0 e) with
        | some e => some (4, 0x100 + e)
        | none => ((List.range 64).find? (fun j => names .cueRmt 16 j)).map (fun j => (4, 0x140 + j))

/-- While PASSED is 0 every cell level reads 0 (R201). -/
def State.dropLevels (s : State) : State :=
  { s with cells := s.cells.map (fun e => (e.1, { e.2 with level := false })) }

/-- Cells take INIT and filter counts return to 0 (R197). For the two window filters ticks before count as o = 0 (R198); a divide
filter sees an edge only where its output rises. They are judged afresh from tick t. -/
def State.initCells (s : State) (t : Nat) : State :=
  { s with cells := s.liveCells.map (fun k =>
             (k, { st := cellInit (s.cellCfg k), o := cellFilt (s.cellCfg k) == 3 && (s.cell k).o, level := (s.cell k).level }))
           evalAt := if s.liveCells.isEmpty then s.evalAt else some t }

/-- Level of a cell's output o in tick t under its filter (R198). -/
def filterLevel (w : Word) (t : Nat) (c : Cell) (o : Bool) : Bool :=
  match cellFilt w with
  | 0 => o
  | 1 => o && decide ((cellP w : Int) ≤ t - (if c.o then c.oneSince.getD t else t) + 1)
  | 2 => o || (c.o && 2 ≤ cellP w) || c.lastOne.any (fun l => decide ((t : Int) < l + cellP w))
  | _ => o && !c.o && c.cnt + 1 == cellP w

/-- The look-up value of cell k (R196), from the levels of cells and the cues of the tick. -/
def State.cellLutIn (s : State) (levels : Tab Bool) (cues : List Nat) (k : Nat) : Bool :=
  let v (j : Nat) : Nat := match s.cellIn k j with
    | none => 0
    | some c => if 512 ≤ c ∧ c < 768 then b2n (tabGet levels (c - 512) false) else b2n (cues.contains c)
  (cellLut (s.cellCfg k)).testBit (8 * v 3 + 4 * v 2 + 2 * v 1 + v 0)

/-- One pass over the levels: flip-flop cells show s, combinational cells their look-up value. -/
def State.levelPass (s : State) (t : Nat) (cues : List Nat) (levels : Tab Bool) : Tab Bool :=
  s.liveCells.map (fun k =>
    let c := s.cell k
    let o := if s.comb k then s.cellLutIn levels cues k else c.st
    (k, filterLevel (s.cellCfg k) t c o))

/-- The levels of tick t: a chain holds at most 8 combinational cells (R200). -/
def State.cellLevels (s : State) (t : Nat) (cues : List Nat) : Tab Bool :=
  (List.range 9).foldl (fun lv _ => s.levelPass t cues lv) (s.levelPass t cues [])

/-- The cell after tick t (R197, R198). -/
def State.cellAfter (s : State) (levels : Tab Bool) (t : Nat) (cues all : List Nat) (k : Nat) : Cell :=
  let w := s.cellCfg k
  let c := s.cell k
  let lut := s.cellLutIn levels cues k
  let o := if s.comb k then lut else c.st
  let clrw := s.rd .cueCellClr k
  let clr := clrw.bit 15 && all.contains (clrw.bits 9 0)
  let rise := cellFilt w == 3 && o && !c.o
  { st := !clr && (match cellFf w with | 0 => c.st | 1 => lut | 2 => xor c.st lut | _ => c.st || lut)
    o := o
    level := tabGet levels k false
    oneSince := if o then (if c.o then c.oneSince else some (t : Int)) else none
    lastOne := if o then some (t : Int) else if c.o then some ((t : Int) - 1) else c.lastOne
    cnt := if clr then 0 else if rise then (if c.cnt + 1 = cellP w then 0 else c.cnt + 1) else c.cnt }

/-- A cell's later change without a cue: a window filter's end (R198). -/
def filterEnd (w : Word) (c : Cell) : Option Nat :=
  match cellFilt w with
  | 1 => if c.o && !c.level then c.oneSince.map (fun (a : Int) => (a + (cellP w : Nat) - 1).toNat) else none
  | 2 => if !c.o && c.level then c.lastOne.map (fun (a : Int) => (a + (cellP w : Nat)).toNat) else none
  | _ => none

/-- The tick of the next change that a window filter makes on its own. -/
def State.filterAt (s : State) : Option Nat :=
  s.cells.foldl (fun m e => match filterEnd (s.cellCfg e.1) e.2, m with
    | some a, some b => some (min a b)
    | some a, none => some a
    | none, m => m) none

/-! Exports (R205, R284, R285, R298). -/

/-- A DECISION flit with its CRC. -/
def mkDecision (src dst hops j : Nat) (v : Option (Nat × Verdict × Bool)) (alive tt : Nat) : BitVec 128 :=
  let vw := match v with
    | some (w, x, vv) => 2 ^ 94 + w * 2 ^ 86 + x.seq % 256 * 2 ^ 78 + b2n x.conf * 2 ^ 77 + x.state % 4 * 2 ^ 75 + b2n vv * 2 ^ 70
    | none => 0
  let h := 2 ^ 124 + src * 2 ^ 115 + dst * 2 ^ 106 + hops * 2 ^ 101 + j * 2 ^ 95 + vw + alive * 2 ^ 71 + tt % 2 ^ 48 * 2 ^ 16
  BitVec.ofNat 128 (h + crc16 (bitsDown (h / 2 ^ 16) 112))

/-- Own DECISION and SYNDROME frames leave in these modes (R295). -/
def State.sendsOwn (s : State) : Bool := s.mode == .standby || s.mode == .calibrate || s.mode == .armed || s.mode == .run

/-- Export entry e sends the frame of a cue that appeared in tick t: it reaches the outgoing queue in tick t + 5 (R291). -/
def State.exportFrame (s : State) (e ch t : Nat) : State :=
  let a := s.rd .cueExpA e
  let b := s.rd .cueExpB e
  let dst := a.bits 8 0
  let alive := tabGet s.aliveOut e 0
  let s1 := { s with aliveOut := tabPut s.aliveOut e ((alive + 1) % 16) }
  if s.unavailTo dst then s1.countReg .lnkNoroute
  else match s.route dst none with
  | none => s1.countReg .lnkNoroute
  | some l =>
    let v1 := s.fld (lnkStatVer l) == 1
    let v := if a.bit 30 && ch < 256 && !v1 then
        let x := (s.verdictAt ch t).getD { seq := 0, conf := false, state := 0, valid := false }
        some (b.bits 7 0, x, x.valid)
      else none
    s1.enqueueDec l (t + 5 - s.now) (mkDecision s.ownId dst 0 (b.bits 21 16) v alive t)

/-! What a cue reaches. -/

/-- A cue on the channel that an engine listens to (R202). A held micro-routine looks again in the next tick. -/
def Eng.takeCue (g : Eng) (t : Nat) : Eng :=
  match g.wait with
  | some (.waitc pd ..) => { g.setPred pd true with state := .running, wait := none, ready := max g.ready (t + 1) }
  | _ =>
    let g1 := if g.pend then { g with ovr := satAdd 8 g.ovr 1, lostAt := some (t, g.ovr) } else { g with pend := true }
    match g.state, g.routine with
    | .waiting, some r => { g1 with routine := some { r with resume := some (t + 1) } }
    | _, _ => g1

/-- A jump request on slot k of output o, or on flux output o - 80 (R139): registered in tick t, with its land tick (R140). -/
def State.jumpRequest (s : State) (o k t : Nat) : State :=
  if o < 80 then
    if (s.slot o k).jump.isSome then s.count (rfoSlotJmpOvr o k) else s.modSlot o k (fun x => { x with jump := some (t + 32) })
  else
    let x := s.flx (o - 80)
    if x.jump.isSome then s.count (flxSegJmpOvr (o - 80)) else s.setFlx (o - 80) { x with jump := some (t + 40) }

/-- SHOT_INVAL ends (R152): until its next CLRA each ME keeps the invalid condition. -/
def State.clearShot (s : State) : State :=
  if s.flag glbStreamStatShotInval then
    ((List.range 256).foldl (fun st q => st.modMe (768 + q) (fun m => { m with inv := true })) s).put glbStreamStatShotInval 0
  else s

/-- A trigger on its way to unit u, with the WT stamp of its tick. -/
def State.sendTrig (s : State) (u reach t : Nat) : State :=
  s.modAcq u (fun a => { a with trigs := a.trigs ++ [⟨reach, t, s.wtStampAt (t / 256)⟩] })

/-- A trigger-bus line is driven low from land tick `a` to `b` - 1 (R260); spans that are over are dropped. -/
def State.pullTbus (s : State) (k a b : Nat) : State :=
  let old := (tabGet s.mvp.tbus k []).filter (fun x => decide (s.now < x.2))
  { s with mvp := { s.mvp with tbus := tabPut s.mvp.tbus k (old ++ [(a, b)]) } }

/-- A pattern that waits for a channel starts 16 ticks after its cue (R256). -/
def State.goOnCue (s : State) (ch t : Nat) : State :=
  if s.mvp.goCue == some ch then { s with mvp := { s.mvp with goCue := none, next := some (t + 16) } } else s

/-- The cue mute of output o by a cue in tick t (R123): code 0 at the land from tick t + 8 on, if it is not muted so already. -/
def State.muteOnCue (s : State) (o t : Nat) : State :=
  if s.flag (rfoStatCueMuted o) then s
  else { s.raiseBit (rfoStatCueMuted o) with cueMuted := tabPut s.cueMuted o (t + 8) }

/-- A cue appears on channel ch in tick t and reaches every place that takes cues from it. -/
def State.deliver (s : State) (t : Nat) (ch : Nat) : State :=
  let s1 := { s with lastCue := tabPut s.lastCue ch (t : Int) }
  let s2 := s1.eachEng (fun g => if g.listen = some ch && liveState g.state then g.takeCue t else g)
  let s3 := s2.eachReg .rfoSlotJmp (fun st o k w => if w.bit 0 && w.bits 25 16 == ch then st.jumpRequest o k (t + 1) else st)
  let s4 := s3.eachReg .flxSegJmp (fun st i _ w => if w.bit 0 && w.bits 25 16 == ch then st.jumpRequest (80 + i) 0 (t + 1) else st)
  let s5 := s4.eachReg .rfoCtrl (fun st o _ w => if w.bit 9 && w.bits 25 16 == ch then st.muteOnCue o t else st)
  let sc := s5.rd .glbStreamCtrl
  let s6 := if sc.bit 0 && sc.bits 25 16 == ch then s5.clearShot else s5
  let s7 := (s6.acqs.map (·.1)).foldl (fun st u =>
    if ((st.acq u).state ≠ .idle ∨ (st.acq u).armAt.isSome) ∧ (st.acq u).state ≠ .hist ∧ st.fld (acqTrigTsrc u) = 0 ∧ st.fld (acqTrigTsel u) = ch
    then st.sendTrig u t (256 * t) else st) s6
  let s8 := s7.eachReg .mvpTbusCfg (fun st k _ w =>
    if w.bit 31 && w.bits 25 16 == ch then st.pullTbus k (t + 8) (t + 9 + w.bits 15 8) else st)
  let s9 := s8.goOnCue ch t
  if s9.sendsOwn && s9.flag cueStatPassed then
    s9.eachReg .cueExpA (fun st e _ w => if w.bit 31 && w.bits 25 16 == ch then st.exportFrame e ch t else st)
  else s9

/-- The system event channels are exempt from the coincidence rule (R193). -/
def sysChannel (ch : Nat) : Bool := 904 ≤ ch && ch ≤ 967

/-- Two or more sources raised a channel in one tick (R193). -/
def State.coincidence (s : State) (ch : Nat) : State :=
  let w := s.rd .cueCoinc (ch / 32)
  (s.setReg ⟨.cueCoinc, ch / 32, 0⟩ (w ||| BitVec.ofNat 32 (2 ^ (ch % 32)))).countReg .cueLostCnt

/-- `n` sources raise channel ch in tick t: the coincidence rule first, the hold-off second (R193, R194). The channels that
carry a cue are collected. -/
def State.appear (t : Nat) (r : State × List Nat) (e : Nat × Nat) : State × List Nat :=
  let s := r.1
  let again := tabFind s.lastCue e.1 == some (t : Int)
  let s1 := if (2 ≤ e.2 || again) && !sysChannel e.1 then s.coincidence e.1 else s
  if again then (s1, r.2)
  else if (tabFind s1.lastCue e.1).any (fun l => decide (l < (t : Int)) && decide ((t : Int) ≤ l + s1.fld (cueChHold e.1))) then
    (s1.count (cueChDropCnt e.1), r.2)
  else (s1, r.2 ++ [e.1])

/-- Sources by channel, ascending. -/
def tally (chs : List Nat) : List (Nat × Nat) :=
  (chs.foldl (fun (t : Tab Nat) c => tabPut t c (tabGet t c 0 + 1)) [])

/-- One tick of the fabric (R190 to R199). -/
def State.fabricTick (s : State) (t : Nat) : State :=
  let s0 := s.advanceTo t
  let here := (s0.due.filter (fun d => d.tick ≤ t)).map (·.ch)
  let s1 := { s0 with due := s0.due.filter (fun d => t < d.tick), evalAt := none }
  let isCell (c : Nat) : Bool := 512 ≤ c && c < 768
  let a := (tally (here.filter (fun c => !isCell c))).foldl (State.appear t) (s1, [])
  let passed := s1.flag cueStatPassed
  let levels := if passed then a.1.cellLevels t a.2 else []
  let rises := (levels.filter (fun e => e.2 && !(a.1.cell e.1).level)).map (fun e => 512 + e.1)
  let b := (tally (here.filter isCell ++ rises)).foldl (State.appear t) (a.1, [])
  let all := a.2 ++ b.2
  let s2 := if passed then { b.1 with cells := b.1.liveCells.map (fun k => (k, b.1.cellAfter levels t a.2 all k)) } else b.1
  let s3 := all.foldl (fun st ch => st.deliver t ch) s2
  let next := s3.cellLevels (t + 1) []
  let moves := passed && s3.cells.any (fun e =>
    let c := s3.cellAfter next (t + 1) [] [] e.1
    c.st != e.2.st || c.o != e.2.o || c.level != e.2.level || c.cnt != e.2.cnt)
  if moves then { s3 with evalAt := some (t + 1) } else s3

/-- A configuration has passed: no item fails, so ITEM is 0 (DEDUCED), and its cells are judged from the present tick. -/
def State.cuePass (s : State) : State :=
  { ((s.put cueStatPassed 1).put cueStatReason 0).put cueStatItem 0 with evalAt := some s.now }

end Sys2Proof.Machine
end

