-- ==== Sys2Proof/Machine/RegCore.lean ====
section
/-! DEFINITION. Host writes of register fields (R6, R7, R26): which blocks take writes, and how the fields of a register with a
row of its own take a written value. -/
namespace Sys2Proof.Machine

/-- A field takes its bits of a written word, unless that value is one the field's description ignores. -/
def State.writeField (s : State) (r : Reg) (f : FieldInfo) (v : Word) : State :=
  let x := v.bits f.hi f.lo
  if f.bad.contains x then s else s.setReg r ((s.reg r).put f.hi f.lo x)

/-- The fields of a register whose writes have a row of their own take their bits of a written word. -/
def State.writeOwn (s : State) (r : Reg) (v : Word) : State :=
  (r.k.fields.filter (fun f => f.acc == .own)).foldl (fun st f => st.writeField r f v) s

/-- A word sets a bit that no field of a register holds (R7). -/
def reservedSet (k : RegK) (v : Word) : Bool :=
  (List.range 32).any (fun i => v.bit i && !(k.fields.any (fun f => f.lo ≤ i && i ≤ f.hi)))

/-- Indices of a register name that give an address. -/
def regIndex (k : RegK) (a : Nat) : Option Reg :=
  let p := k.place
  let i := (a - p.base) / p.s1
  let r := (a - p.base) % p.s1
  if p.base ≤ a ∧ i < p.n1 ∧ r % p.s2 = 0 ∧ r / p.s2 < p.n2 then some ⟨k, i, r / p.s2⟩ else none

/-- The register of BAR0 at an address. -/
def regAt (a : Nat) : Option Reg := RegK.all.findSome? (fun k => regIndex k a)

/-- STANDBY or CALIBRATE: the write window of most configuration. -/
def State.stbyCal (s : State) : Bool := s.alive && (s.mode == .standby || s.mode == .calibrate)

end Sys2Proof.Machine
end

