-- ==== Sys2Proof/Machine/Cues.lean ====
section
/-! DEFINITION. Rows of the cue fabric (11): cues appear, software cues, the configuration and its check, and edges at the
inputs (R231, R232, R259). -/
namespace Sys2Proof.Machine

/-- CUE_APPEAR (R190 to R199): the fabric's next tick with something to do. -/
def execCueAppear (s : State) : Res :=
  match s.fabricOn, s.fabricNext with
  | true, some t => let u := max t s.now; .next ((s.mesTo (u - 1)).fabricTick u)
  | _, _ => .next s

/-- CUE_FILTER_ELAPSE (R198): a window filter ends on its own. -/
def execCueFilterElapse (s : State) : Res :=
  match s.fabricOn, s.filterAt with
  | true, some t =>
    let u := max t s.now
    if s.fabricNext.any (fun c => c < t) then .next s else .next ((s.mesTo (u - 1)).fabricTick u)
  | _, _ => .next s

/-- CUE_FIRE (R195): raised at once, which lies within the 64 ticks. -/
def execCueFire (c : BitVec 10) (s : State) : Res :=
  if s.fabricOn then .next (s.raiseAt c.toNat (s.now + 1)) else .next s

/-- Registers whose writes R201 governs. -/
def cueConfigReg (k : RegK) : Bool :=
  k == .cueCh || k == .cueCellIn01 || k == .cueCellIn23 || k == .cueCellCfg || k == .cueCellClr || k == .cueExpA || k == .cueExpB
    || k == .cueRmt

/-- The configuration register at an offset of the CUE block. -/
def cueReg (off : Nat) : Option Reg :=
  if off < 0x10000 then (regAt (0x30000 + off)).filter (fun r => cueConfigReg r.k) else none

/-- The item that R200 names a register by. -/
def cueItem (r : Reg) : Nat :=
  match r.k with
  | .cueCh => 0x400 + r.i
  | .cueExpA | .cueExpB => 0x100 + r.i
  | .cueRmt => 0x140 + r.i
  | _ => r.i

/-- CUE_CONFIG_WRITE (R201): it clears PASSED and abandons a check. -/
def execCueConfigWrite (off : BitVec 16) (v : Word) (s : State) : Res :=
  match s.stbyCal, cueReg off.toNat with
  | true, some r => .next { (((s.writeOwn r v).put cueStatPassed 0).put cueStatChecking 0).dropLevels with cueChk := false }
  | _, _ => .next s

/-- CUE_CHECK (R201): a write of 1 to CHECK. -/
def execCueCheck (s : State) : Res := if s.fabricOn then .next { s.put cueStatChecking 1 with cueChk := true } else .next s

/-- CUE_CHECK_DONE (R200, R201): no write has come since the check began. -/
def execCueCheckDone (s : State) : Res :=
  if !s.cueChk then .next s
  else
    let s1 := { s.put cueStatChecking 0 with cueChk := false }
    match s1.cueCheck [] with
    | none => .next s1.cuePass
    | some (why, item) => .next ((((s1.put cueStatPassed 0).put cueStatReason why).put cueStatItem item).dropLevels)

/-- The detail of a FORMAT from a configuration or image check (R307). -/
def checkDetail (why item : Nat) : Nat := why * 2 ^ 24 + item

/-- CONFIG_CUE (R200, R201): entries not listed keep their content. -/
def execConfigCue (c : Cmd) (img : CfgImage) (s : State) : Res :=
  s.admin 0x22 c (Cmd.only c [(1, wordMask), (2, wordMask)]) (fun t =>
    let regs := img.regs.map (fun e => (cueReg e.1, e.2))
    if !(t.bulkUsable (c.w64 1) 64 && t.notPoisoned (c.w64 1) 64) then (t.countLost (c.w64 1) 64).complete c.tag 0x22 .fault
    else if !img.wellFormed || !img.seams.isEmpty || regs.any (fun e => e.1.isNone) then
      t.complete c.tag 0x22 .format (checkDetail 5 0)
    else
      let rs := regs.filterMap (fun e => e.1.map (fun r => (r, e.2)))
      let resv := (rs.filter (fun e => reservedSet e.1.k e.2)).map (fun e => cueItem e.1)
      let t1 := rs.foldl (fun st e => st.writeOwn e.1 e.2) t
      match t1.cueCheck resv with
      | some (why, item) => t.complete c.tag 0x22 .format (checkDetail why item)
      | none => ({ t1.put cueStatChecking 0 with cueChk := false }.cuePass).complete c.tag 0x22 .ok)

/-! Edges at the inputs. -/

/-- A line's edge selection takes an edge (R259): 00 rising, 01 falling, 10 both, 11 none. -/
def edgeTaken (sel : Nat) (rising : Bool) : Bool := (sel == 0 && rising) || (sel == 1 && !rising) || sel == 2

/-- An edge on an input of channel ch with glitch filter gf: a level that has not held its gf ticks loses its cue, and a taken
edge raises one (R192, R259). -/
def State.inputEdge (s : State) (ch sel gf : Nat) (rising : Bool) : State :=
  let s1 := { s with due := s.due.filter (fun d => d.ch != ch || d.tick ≤ s.now + 8) }
  if edgeTaken sel rising then s1.raiseAt ch (s.now + 8 + gf) else s1

/-- PIN_EDGE (R192, R259). -/
def execPinEdge (p : Fin 64) (rising : Bool) (s : State) : Res :=
  if s.fabricOn then .next (s.inputEdge (768 + p.val) (s.fld (mvpPinCfgEdge p.val)) (s.fld (mvpPinCfgGf p.val)) rising)
  else .next s

/-- Units that take their triggers from a line: TRIG 0-3, TBUS 4-7 (R231). One that is to be armed may be so when the trigger
reaches it, and is judged then (R237). -/
def State.lineUnits (s : State) (line : Nat) : List Nat :=
  (s.acqs.map (·.1)).filter (fun u =>
    ((s.acq u).state != .idle || (s.acq u).armAt.isSome) && (s.acq u).state != .hist && s.fld (acqTrigTsrc u) == 1 + line / 4
      && s.fld (acqTrigTsel u) % 4 == line % 4)

/-- TRIG_EDGE (R192, R231, R232, R248, R259): `fine` is the edge's place in the present tick, in 1/256 tick. -/
def execTrigEdge (line : Fin 8) (rising : Bool) (fine : BitVec 8) (s : State) : Res :=
  let k := line.val % 4
  let sel := if line.val < 4 then s.fld (mvpTrigCfgEdge k) else s.fld (mvpTbusCfgEdge k)
  let gf := if line.val < 4 then s.fld (mvpTrigCfgGf k) else s.fld (mvpTbusCfgGf k)
  if !s.fabricOn then .next s
  else
    let s1 := s.inputEdge (832 + line.val) sel gf rising
    if !edgeTaken sel rising then .next s1
    else
      let stamp := 256 * s.now + fine.toNat
      let inst := if line.val < 4 then stamp else stamp - s.fld (acqTbusCompComp k)
      let us := s1.lineUnits line.val
      if (tabFind s.tdc line.val).any (fun p => stamp < p + 512) then
        .next ((us.filter (fun u => (s1.acq u).state != .idle)).foldl (fun st u => st.acqMissed u inst 6) s1)
      else
        .next (us.foldl (fun st u => st.sendTrig u (s.now + 6) inst) { s1 with tdc := tabPut s1.tdc line.val stamp })

end Sys2Proof.Machine
end

