-- ==== Sys2Proof/Machine/QryCore.lean ====
section
/-! DEFINITION. The Quarry (12): benches and the node store (R208 to R210, R213, R227), the seam table (R211), the reference
procedure of a decode (R212, R215), faces (R217, R218), commits (R216), handoff (R222), reset (R225) and the check (R226). -/
namespace Sys2Proof.Machine

/-- Where the seam table and the node store lie in BAR2 (R382). -/
def seamBase : Nat := 0x0C000000
def nodeBase : Nat := 0x0C100000

/-- A = 2^ABITS ancillas in a slot, S slots, the depth W and LAG. -/
def State.qA (s : State) : Nat := 2 ^ s.fld qryCfgAbits
def State.qS (s : State) : Nat := 32768 / s.qA
def State.qW (s : State) : Nat := s.fld qryCfgW

/-- The oldest bench of the window and the newest closed bench. -/
def State.qLo (s : State) : Nat := s.fld qryWinLo
def State.qClosed (s : State) : Nat := s.fld qryWinClosed

/-- off(b): bench arithmetic is modulo 2^16 (R208). -/
def State.qOff (s : State) (b : Nat) : Nat := (b + 65536 - s.qLo) % 65536

/-- A bench is closed: it lies from lo to CLOSED. -/
def State.qIsClosed (s : State) (b : Nat) : Bool := s.qOff b < (s.qClosed + 1 + 65536 - s.qLo) % 65536

/-- STATE codes of QRY_STAT. -/
def qOffSt : Nat := 0
def qReady : Nat := 1
def qDecoding : Nat := 2
def qHandoff : Nat := 3
def qFrozen : Nat := 4

/-- Enabled ancillas, ascending. -/
def State.qAncs (s : State) : List Nat :=
  let l := (s.regs.filter (fun e => e.1.k = .qryAnc && e.2.bit 31)).map (fun e => e.1.i)
  (l.foldl (fun (t : Tab Unit) a => tabPut t a ()) []).map (·.1)

/-- The number under which a node is kept. -/
def nodeKey (b a : Nat) : Nat := b * 2048 + a

/-- A node of bench b and ancilla a. -/
def State.qNode (s : State) (b a : Nat) : QNode := tabGet s.qry.nodes (nodeKey b a) {}

/-- Change the Quarry's hidden state. -/
def State.modQry (s : State) (f : Qry → Qry) : State := { s with qry := f s.qry }

/-- Change a node. -/
def State.setNode (s : State) (b a : Nat) (x : QNode) : State := s.modQry (fun q => { q with nodes := tabPut q.nodes (nodeKey b a) x })

/-- Counters of QRY_CNT_ACC to QRY_CNT_BKLG, by place. -/
def qcAcc : Nat := 0
def qcIgn : Nat := 1
def qcStale : Nat := 2
def qcLate : Nat := 3
def qcDup : Nat := 4
def qcMiss : Nat := 5
def qcDrop : Nat := 6
def qcBklg : Nat := 7

/-- LAG_TICKS (R221). -/
def State.lagTicks (s : State) : Nat :=
  match s.qry.uncov with
  | [] => 0
  | (_, t) :: _ => s.now - t

/-! Faces (R217). -/

/-- A byte's bits, least significant first, as the reflected CRC-32C takes them (19). -/
def byteBits (b : Byte) : List Bool := (List.range 8).map b.getLsbD

/-- CRC-32C of words over their little-endian bytes. -/
def crcWords (ws : List Word) : Nat := crc32c ((ws.flatMap Word.bytes).flatMap byteBits)

/-- A seam entry (R211). -/
structure Seam where
  s : Nat
  w0 : Word
  w1 : Word
  deriving DecidableEq, Repr

/-- Fields of a seam entry. -/
def Seam.w (x : Seam) : Nat := x.w0.bits 31 28
def Seam.dt (x : Seam) : Bool := x.w0.bit 27
def Seam.v (x : Seam) : Nat := x.w0.bits 26 16
def Seam.u (x : Seam) : Nat := x.w0.bits 10 0
def Seam.bnd (x : Seam) : Bool := x.w1.bit 14
def Seam.face (x : Seam) : Bool := x.w1.bit 13
def Seam.fid (x : Seam) : Nat := x.w1.bits 12 10
def Seam.pauli (x : Seam) : Nat := x.w1.bits 9 8
def Seam.qubit (x : Seam) : Nat := x.w1.bits 7 0

/-- The VALID entries of the seam table, ascending: those whose highest byte has bit 7 set. -/
def State.seams (s : State) : List Seam :=
  (s.sram.filter (fun c => seamBase ≤ c.1 && c.1 < seamBase + 0x100000 && c.1 % 8 == 7 && c.2.getLsbD 7)).map (fun c =>
    let a := c.1 - 7
    ⟨(a - seamBase) / 8, memWord s.sram a, memWord s.sram (a + 4)⟩)

/-- Put a number into an ascending list. -/
def insertNat (x : Nat) : List Nat → List Nat
  | [] => [x]
  | y :: ys => if x ≤ y then x :: y :: ys else y :: insertNat x ys

/-- The digest of face f (R217). -/
def State.faceDigest (s : State) (f : Nat) : Nat :=
  let p := s.fld (qryFacePartner f)
  let word (x : Seam) : Nat :=
    let lo := if s.ownId < p then x.u else x.v
    let hi := if s.ownId < p then x.v else x.u
    lo + hi * 2 ^ 16 + x.w * 2 ^ 28
  let ws := ((s.seams.filter (fun x => x.face && x.fid == f)).map word).foldl (fun l w => insertNat w l) []
  let cfg := s.qW + s.fld qryCfgLag * 2 ^ 10 + s.xfld qryCtrlXen qryBudgetGrowMax 255 * 2 ^ 20 + s.fld qryCfgSoft * 2 ^ 28
  crcWords (([cfg, s.fld qryBench0Bench0] ++ ws).map (BitVec.ofNat 32))

/-- The faces a new decode may use: EN and not LOST. -/
def State.openFaces (s : State) : List Nat := (List.range 6).filter (fun f => s.flag (qryFaceEn f) && !s.flag (qryFaceLost f))

/-- Send a SYNDROME frame to the partner of face f (R286); none leaves from t0 of SAFE, and a JV1 takes none (R299). -/
def State.sendSyn (s : State) (f ty hc seq : Nat) (p : List (BitVec 128)) : State :=
  let dst := s.fld (qryFacePartner f)
  if s.sendsOwn then s.sendFrame dst none (.flits 2 (mkHeader 2 s.ownId dst 0 ty (hc * 2 ^ 40 + f * 2 ^ 37 + seq % 256 * 2 ^ 29) p) p)
  else s

/-- A face whose digest differs or is missing (R217). -/
def State.mismatch (s : State) (f : Nat) : State := (s.raiseBit (qryFaceMismatch f)).raiseBit (qryFaceLost f)

/-- Digests at T_s: each enabled face's is sent, and those that have arrived are compared (R217). -/
def State.faceStart (s : State) : State :=
  let s1 := (List.range 6).foldl (fun st f =>
    if st.flag (qryFaceEn f) then
      let st1 := st.sendSyn f 1 0 0 [BitVec.ofNat 128 (st.faceDigest f)]
      match tabFind st1.qry.digests f with
      | some d => if d = st1.faceDigest f then st1 else st1.mismatch f
      | none => st1
    else st) s
  s1.modQry (fun q => { q with judged := false })

/-- The first bench of a run closes: a face whose digest has not arrived is MISMATCH. -/
def State.judgeFaces (s : State) : State :=
  if s.qry.judged then s
  else
    let s1 := (List.range 6).foldl (fun st f =>
      if st.flag (qryFaceEn f) && (tabFind st.qry.digests f).isNone then st.mismatch f else st) s
    s1.modQry (fun q => { q with judged := true, digests := [] })

/-! Decodes. -/

/-- A decode starts for the newest closed bench if one is not covered (R214). -/
def State.startDecode (s : State) : State :=
  if s.fld qryStatState ≠ qReady then s
  else match s.qry.uncov.getLast? with
  | none => s
  | some (hc, t) =>
    let fs := s.openFaces
    let q := s.takeFree
    let seq := (Config.freeWord q.1).toNat % 256
    let s1 := (if fs.isEmpty then s else q.2).put qryStatState qDecoding
    let here := fs.filter (fun f => tabFind s1.qry.joins f == some hc)
    let s2 := s1.modQry (fun r => { r with
      dec := some { hc := hc, start := t, faces := fs, joined := here, seq := seq }
      wait := false })
    fs.foldl (fun st f => st.sendSyn f 2 hc seq []) s2

/-- A bench closes (R210). -/
def State.closeBench (s : State) (b : Nat) : State :=
  let first := b == s.fld qryBench0Bench0
  let s1 := s.qAncs.foldl (fun st a =>
    let x := st.qNode b a
    let prev := if first then st.flag (qryAncRef a) else tabGet st.qry.prev a false
    let y : QNode := if x.present then { x with d := xor x.m prev } else { m := prev, conf := false, present := false, d := false }
    let st1 := if x.present then st else st.countReg .qryCnt qcMiss
    (st1.setNode b a y).modQry (fun q => { q with prev := tabPut q.prev a y.m })) s
  let s2 := s1.modQry (fun q => { q with opened := tabDel q.opened b, uncov := q.uncov ++ [(b, s.now)] })
  let s3 := (s2.put qryWinClosed b).judgeFaces
  let n := s3.qry.uncov.length
  if s3.fld qryLagMaxBench < n then s3.put qryLagMaxBench (min 255 n) else s3

/-- The next bench to close may close now (R209): it is open and full, or timed out. -/
def State.benchReady (s : State) (b : Nat) : Bool :=
  match tabFind s.qry.opened b with
  | none => false
  | some t =>
    let tmo := s.fld qryTmoBenchTmo
    s.qAncs.all (fun a => (s.qNode b a).present) || (tmo != 0 && decide (t + tmo ≤ s.now))

/-- Close every bench that may close in this tick. -/
def State.closeAll : Nat → State → State
  | 0, s => s
  | n + 1, s =>
    let b := (s.qClosed + 1) % 65536
    if s.benchReady b then State.closeAll n (s.closeBench b) else s

/-- Benches close in this tick, and a decode starts or waits (R209, R214). -/
def State.closeNow (s : State) : State :=
  let s1 := State.closeAll 513 s
  if s1.qClosed = s.qClosed then s1
  else if s1.qry.dec.isSome then s1.modQry (fun q => { q with wait := true })
  else s1.startDecode

/-- The number of node (b, x, a) of a decode (R212), in the order of its key: `off` is off(b). -/
def jointKey (off x a : Nat) : Nat := off * 2 ^ 20 + x * 2 ^ 11 + a

/-- The device of a node. -/
def devOf (k : Nat) : Nat := k / 2 ^ 11 % 2 ^ 9

/-- The offset of a node's bench. -/
def offOf (k : Nat) : Nat := k / 2 ^ 20

/-- An instance of a seam (R212): offset of its bench, device and index of its entry, its ends, whether it runs to the boundary, its
weight and its effect. -/
structure QInst where
  off : Nat
  dev : Nat
  s : Nat
  u : Nat
  v : Nat
  bnd : Bool
  w : Nat
  pauli : Nat
  qubit : Nat
  deriving DecidableEq, Repr

/-- What a decode takes of one device of D (R212, R215): its ID, VALID seams, its defects and its outcomes of confidence 0 (bench,
ancilla), the partner of each face in use, and which faces that are not in use act as the boundary. -/
structure QSide where
  id : Nat
  seams : List Seam
  defects : List (Nat × Nat)
  weak : List (Nat × Nat)
  use : List (Option Nat)
  act : List Bool
  deriving DecidableEq, Repr

/-- The weight of an instance (R212). -/
def State.instWeight (s : State) (y : QSide) (x : Seam) (b : Nat) : Nat :=
  if x.dt && x.u == x.v && x.pauli == 0 && y.weak.contains (b, x.u) then
    match s.fld qryCfgSoft with
    | 1 => max 1 (x.w / 2)
    | 2 => 0
    | _ => x.w
  else x.w

/-- The instance of entry x of device y at the bench of offset o, if there is one (R212). -/
def State.instanceOf (s : State) (hc : Nat) (y : QSide) (o : Nat) (x : Seam) : Option QInst :=
  let w := s.instWeight y x ((s.qLo + o) % 65536)
  let u := jointKey o y.id x.u
  let edge (v : Nat) (bnd : Bool) : QInst := ⟨o, y.id, x.s, u, v, bnd, w, x.pauli, x.qubit⟩
  if x.face then
    match y.use.getD x.fid none with
    | some p => if y.id < p then some (edge (jointKey o p x.v) false) else none
    | none => if y.act.getD x.fid false then some (edge 0 true) else none
  else if x.bnd then some (edge 0 true)
  else if x.dt then if o < s.qOff hc then some (edge (jointKey (o + 1) y.id x.v) false) else none
  else some (edge (jointKey o y.id x.v) false)

/-- Instances of a decode in ascending key order (R212): `ys` are the devices of D in ascending order. -/
def State.instances (s : State) (hc : Nat) (ys : List QSide) : List QInst :=
  (List.range (s.qOff hc + 1)).flatMap (fun o => ys.flatMap (fun y => y.seams.filterMap (s.instanceOf hc y o)))

/-- An instance with its growth and whether it is full. -/
abbrev Grown := QInst × Nat × Bool

/-- Nodes joined to a set through full plain instances, in at most `n` rounds. -/
def joinNodes (es : List QInst) : Nat → List Nat → List Nat
  | 0, c => c
  | n + 1, c =>
    let new := (es.filterMap (fun e =>
      if c.contains e.u && !c.contains e.v then some e.v else if c.contains e.v && !c.contains e.u then some e.u else none)).eraseDups
    if new.isEmpty then c else joinNodes es n (c ++ new)

/-- The clusters that hold a defect. -/
def clustersOf (es : List QInst) (defects : List Nat) : List (List Nat) :=
  defects.foldl (fun cs d => if cs.any (·.contains d) then cs else cs ++ [joinNodes es es.length [d]]) []

/-- Full instances that are not BND. -/
def fullPlain (gs : List Grown) : List QInst := (gs.filter (fun g => g.2.2 && !g.1.bnd)).map (·.1)

/-- Full instances to the boundary with their U node in a cluster. -/
def fullBnd (gs : List Grown) (c : List Nat) : List QInst := (gs.filter (fun g => g.2.2 && g.1.bnd && c.contains g.1.u)).map (·.1)

/-- Clusters that are odd: an odd number of defects and no full boundary instance. -/
def oddClusters (gs : List Grown) (defects : List Nat) : List (List Nat) :=
  (clustersOf (fullPlain gs) defects).filter (fun c => (defects.filter c.contains).length % 2 == 1 && (fullBnd gs c).isEmpty)

/-- Some cluster holds nodes of more than 8 devices (R215, R219): such a cluster has a full instance across a face. -/
def overspans (gs : List Grown) : Bool :=
  let es := fullPlain gs
  (es.filter (fun e => devOf e.u != devOf e.v)).any (fun e =>
    decide (8 < ((joinNodes es es.length [e.u]).map devOf).eraseDups.length))

/-- One round of growth (R215). -/
def growRound (odd : List Nat) (g : Grown) : Grown :=
  if g.2.2 then g
  else
    let n := g.2.1 + b2n (odd.contains g.1.u) + (if g.1.bnd then 0 else b2n (odd.contains g.1.v))
    (g.1, n, decide (g.1.w ≤ n))

/-- How growth ends (R215). -/
inductive Growth where
  | done (gs : List Grown)
  | overspan
  | unresolved
  deriving DecidableEq, Repr

/-- Growth (R215) up to GROW_MAX = `limit`: its end, and the nodes in odd clusters of each round. -/
def growth (defects : List Nat) (limit : Nat) : Nat → List (List Nat) → List Grown → Growth × List (List Nat)
  | 0, tr, _ => (.unresolved, tr)
  | fuel + 1, tr, gs =>
    let odd := (oddClusters gs defects).flatten
    if overspans gs then (.overspan, tr)
    else if odd.isEmpty then (.done gs, tr)
    else if tr.length = limit then (.unresolved, tr)
    else growth defects limit fuel (tr ++ [odd]) (gs.map (growRound odd))

/-- The breadth-first order of a cluster from its root (R215), with each node's parent instance. -/
def peelOrder (es : List QInst) : Nat → Nat → List (Nat × Option QInst) → List (Nat × Option QInst)
  | 0, _, o => o
  | fuel + 1, i, o =>
    match o[i]? with
    | none => o
    | some (v, _) =>
      let o1 := es.foldl (fun acc e =>
        if e.u ≠ v ∧ e.v ≠ v then acc
        else
          let u := if e.u = v then e.v else e.u
          if acc.any (fun x => x.1 == u) then acc else acc ++ [(u, some e)]) o
      peelOrder es fuel (i + 1) o1

/-- Peeling of a cluster (R215): the instances of corr[C]. -/
def peel (gs : List Grown) (defects c : List Nat) : List QInst :=
  let e0 := (fullBnd gs c).head?
  let root := match e0 with
    | some e => e.u
    | none => c.foldl min (c.headD 0)
  let order := peelOrder (fullPlain gs) (c.length + 1) 0 [(root, none)]
  let r := (order.drop 1).reverse.foldl (fun (a : List Nat × List QInst) x =>
    if a.1.contains x.1 then
      match x.2 with
      | some e =>
        let p := if e.u = x.1 then e.v else e.u
        (if a.1.contains p then a.1.filter (fun y => y != x.1 && y != p) else (a.1.filter (· != x.1)) ++ [p], a.2 ++ [e])
      | none => a
    else a) (defects.filter c.contains, [])
  if r.1.contains root then r.2 ++ e0.toList else r.2

/-- What a decode gives this device: the frame toggles committed, its defects that are resolved (offset × 2,048 + ancilla), the
clusters committed and the rounds. -/
structure QResult where
  toggles : List (Nat × Nat)
  resolved : List Nat
  clusters : Nat
  rounds : Nat
  deriving DecidableEq, Repr

/-- How a decode ends: it commits, or hands off with a cause (R222). -/
inductive QEnd where
  | commit (r : QResult)
  | handoff (cause : Nat)
  deriving DecidableEq, Repr

/-- This device's side of a decode (R212) that uses some faces. -/
def State.ownSide (s : State) (hc : Nat) (used : List Nat) : QSide :=
  let nodes := s.qry.nodes.filter (fun e => decide (s.qOff (e.1 / 2048) ≤ s.qOff hc))
  let place (e : Nat × QNode) : Nat × Nat := (e.1 / 2048, e.1 % 2048)
  { id := s.ownId
    seams := s.seams
    defects := (nodes.filter (fun e => e.2.d && !e.2.resolved)).map place
    weak := (List.range (s.qOff hc + 1)).flatMap (fun o =>
      let b := (s.qLo + o) % 65536
      (s.qAncs.filter (fun a => !(s.qNode b a).conf)).map (fun a => (b, a)))
    use := (List.range 6).map (fun f => if used.contains f then some (s.fld (qryFacePartner f)) else none)
    act := (List.range 6).map (fun f => s.flag (qryFaceLostAct f)) }

/-- The defects of a side in the window, by node. -/
def State.sideDefects (s : State) (hc : Nat) (y : QSide) : List Nat :=
  (y.defects.filter (fun d => decide (s.qOff d.1 ≤ s.qOff hc))).map (fun d => jointKey (s.qOff d.1) y.id d.2)

/-- The toggles that an instance in a correction makes on this device (R216): its own entry's, or, across a face whose entry is the
partner's, those of the mirror entry, the lowest FACE entry on the face with U and V exchanged. -/
def State.ownToggles (s : State) (e : QInst) : List (Nat × Nat) :=
  if e.dev = s.ownId then (if e.pauli = 0 then [] else [(e.qubit, e.pauli)])
  else if e.bnd || devOf e.v != s.ownId then []
  else
    let mirror (x : Seam) : Bool := x.face && s.fld (qryFacePartner x.fid) == e.dev && x.u == e.v % 2 ^ 11 && x.v == e.u % 2 ^ 11
    match s.seams.find? mirror with
    | some x => if x.pauli = 0 then [] else [(x.qubit, x.pauli)]
    | none => []

/-- The reference procedure for the devices of D (R215): how it ends, and the nodes in odd clusters of each round. -/
def State.decode (s : State) (hc : Nat) (ys : List QSide) : QEnd × List (List Nat) :=
  let ds := ys.flatMap (s.sideDefects hc)
  let limit := max 1 (s.xfld qryCtrlXen qryBudgetGrowMax 255)
  let g := growth ds limit (limit + 1) [] ((s.instances hc ys).map (fun e => (e, 0, e.w == 0)))
  match g.1 with
  | .overspan => (.handoff 1, g.2)
  | .unresolved => (.handoff 2, g.2)
  | .done gs =>
    let oh := s.qOff hc
    let due := (clustersOf (fullPlain gs) ds).filter (fun c =>
      let offs := c.map offOf
      decide (offs.foldl min oh + s.qW < oh + 1) || decide (offs.foldl max 0 + s.fld qryCfgLag ≤ oh))
    let own := ds.filter (fun d => devOf d == s.ownId)
    (.commit { toggles := (due.flatMap (peel gs ds)).flatMap s.ownToggles
               resolved := due.flatMap (fun c => (own.filter c.contains).map (fun d => nodeKey (offOf d) (d % 2 ^ 11)))
               clusters := due.length
               rounds := g.2.length }, g.2)

/-- A decode of this device alone. -/
def State.decodeLocal (s : State) (hc : Nat) : QEnd := (s.decode hc [s.ownSide hc []]).1

/-! Joint decodes (R218, R219). -/

/-- A partner's side as the device knows it: what its surroundings give of it, with the defects its GROW frames named. -/
def State.peerSide (s : State) (hc : Nat) (p : QPeer) : QSide :=
  let told := (List.range 6).flatMap (fun f =>
    if s.fld (qryFacePartner f) == p.id.toNat && s.flag (qryFaceEn f) then
      match tabFind s.qry.grown f with
      | some (h, es) => if h = hc then (es.filter (fun w => w.bit 28)).map (fun w => (w.bits 26 11, w.bits 10 0)) else []
      | none => []
    else [])
  { id := p.id.toNat
    seams := p.seams.map (fun x => ⟨x.1, x.2.1, x.2.2⟩)
    defects := (p.defects ++ told).eraseDups
    weak := p.weak
    use := p.faces.map (fun f => f.map (fun (x : BitVec 9) => x.toNat))
    act := (List.range 6).map p.lostAct.getLsbD }

/-- The IDs of D: this device and those reached through faces in use (R218), in at most `n` rounds. -/
def reachDevices (ys : List QSide) : Nat → List Nat → List Nat
  | 0, d => d
  | n + 1, d =>
    let new := ((ys.filter (fun y => d.contains y.id)).flatMap (fun y => y.use.filterMap id)).eraseDups.filter (fun x => !d.contains x)
    if new.isEmpty then d else reachDevices ys n (d ++ new)

/-- The sides of a decode in ascending order of ID, and the IDs of D. -/
def State.sidesOf (s : State) (d : QDecode) (peers : List QPeer) : List QSide × List Nat :=
  let all := s.ownSide d.hc d.joined :: (peers.filter (fun p => p.id.toNat != s.ownId)).map (s.peerSide d.hc)
  let ids := reachDevices all 512 [s.ownId]
  let sorted := ids.foldl (fun l x => insertNat x l) []
  (sorted.filterMap (fun i => all.find? (fun y => y.id == i)), sorted)

/-- A handoff that a partner's RESULT has announced for a decode (R219, R222): OVERSPAN is 1, UNRESOLVED 2. -/
def State.toldHandoff (s : State) (d : QDecode) : Option Nat :=
  (d.joined.filterMap (fun f => (tabFind s.qry.results f).bind (fun r => if r.1 = d.hc ∧ r.2 ≠ 0 then some (min 2 r.2) else none))).head?

/-- The nodes of this device at face f (R286): every bench of the window with every ancilla that a FACE entry on the face names. -/
def State.faceNodes (s : State) (hc f : Nat) : List (Nat × Nat) :=
  let as := ((s.seams.filter (fun x => x.face && x.fid == f)).map (·.u)).eraseDups
  (List.range (s.qOff hc + 1)).flatMap (fun o => as.map (fun a => (o, a)))

/-- The GROW entry of a node (R286). -/
def State.growEntry (s : State) (odd : List Nat) (x : Nat × Nat) : Word :=
  let b := (s.qLo + x.1) % 65536
  let n := s.qNode b x.2
  BitVec.ofNat 32 (x.2 + b * 2 ^ 11 + b2n (odd.contains (jointKey x.1 s.ownId x.2)) * 2 ^ 27 + b2n (n.d && !n.resolved) * 2 ^ 28)

/-- Words as payload flits, four to a flit, the first in its lowest bits, with zeros after the last (R286 does not place them: DESIGN
CHOICE, log 143). -/
def wordFlits (ws : List Word) : List (BitVec 128) :=
  (List.range ((ws.length + 3) / 4)).map (fun i =>
    ws.getD (4 * i + 3) 0 ++ ws.getD (4 * i + 2) 0 ++ ws.getD (4 * i + 1) 0 ++ ws.getD (4 * i) 0)

/-- The words of payload flits. -/
def flitWords (p : List (BitVec 128)) : List Word := p.flatMap (fun (x : BitVec 128) => (List.range 4).map (fun i => (x >>> (32 * i)).setWidth 32))

/-- GROW frames of one round (R218, R286): to each partner of the decode at whose face an odd cluster stands, up to 1,020 entries a
frame. -/
def State.sendGrow (s : State) (d : QDecode) (odd : List Nat) : State :=
  d.joined.foldl (fun st f =>
    let nodes := st.faceNodes d.hc f
    if nodes.any (fun x => odd.contains (jointKey x.1 st.ownId x.2)) then
      (List.range ((nodes.length + 1019) / 1020)).foldl (fun x i =>
        x.sendSyn f 3 d.hc d.seq (wordFlits (((nodes.drop (1020 * i)).take 1020).map (st.growEntry odd)))) st
    else st) s

/-- The payload of a RESULT (R286): the handoff's cause, 0 for a commit, and the IDs of D (its layout is open: DESIGN CHOICE, log
143). -/
def resultWords (cause : Nat) (ids : List Nat) : List Word := ((cause + ids.length * 2 ^ 16) :: ids).map (BitVec.ofNat 32)

/-- A decode that ends forgets what its frames brought. -/
def State.forgetFrames (s : State) (hc : Nat) : State :=
  s.modQry (fun q => { q with
    grown := q.grown.filter (fun (e : Nat × Nat × List Word) => e.2.1 != hc)
    results := q.results.filter (fun (e : Nat × Nat × Nat) => e.2.1 != hc) })

/-- Handoff (R222). -/
def State.handoff (s : State) (cause hc devs : Nat) (used : List Nat) : State :=
  let s1 := ((s.modQry (fun q => { q with dec := none, wait := false })).put qryStatState qHandoff).put qryStatHcause cause
  let half (f : Nat) : Nat := s1.fld (qryFacePartner f) + b2n (used.contains f) * 2 ^ 15
  let ws := [s1.qLo + s1.qClosed * 2 ^ 16, cause + hc * 2 ^ 16, devs, half 0 + half 1 * 2 ^ 16, half 2 + half 3 * 2 ^ 16,
    half 4 + half 5 * 2 ^ 16]
  ((s1.sysCue 911).notice 1 (ws.map (BitVec.ofNat 32))).logEntry 0x0B 1 0 (s1.rd .qryStat)

/-- Benches leave the window at its old end: lo moves on by k, and their slots are free (R213, R215). -/
def State.dropBenches (s : State) (k : Nat) : State :=
  if k = 0 then s
  else (s.modQry (fun q => { q with
    nodes := q.nodes.filter (fun e => k ≤ s.qOff (e.1 / 2048))
    opened := q.opened.filter (fun e => k ≤ s.qOff e.1) })).put qryWinLo ((s.qLo + k) % 65536)

/-- Benches up to b are covered (R221); BACKLOG ends when LAG_TICKS returns to 0. -/
def State.cover (s : State) (b : Nat) : State :=
  let s1 := s.modQry (fun q => { q with uncov := q.uncov.filter (fun e => s.qOff b < s.qOff e.1) })
  if s1.lagTicks = 0 then s1.put qryStatBacklog 0 else s1

/-- A completed decode is committed in the present tick (R216, R220, R221). -/
def State.commitDecode (s : State) (d : QDecode) (r : QResult) : State :=
  let s1 := r.resolved.foldl (fun st k =>
    let b := (st.qLo + k / 2048) % 65536
    st.setNode b (k % 2048) { st.qNode b (k % 2048) with resolved := true }) s
  let s2 := r.toggles.foldl (fun st t => st.togglePauli t.1 (BitVec.ofNat 2 t.2)) s1
  let k := s2.qOff d.hc + 1 - s2.qW
  let s3 := ((s2.cover d.hc).dropBenches k).modQry (fun q => { q with dec := none })
  let s4 := s3.wr .qryLast0 (min 255 r.clusters * 2 ^ 24 + r.rounds % 256 * 2 ^ 16 + min 65535 (s.now - d.start))
  let mask (l : List Nat) : Nat := (l.map (2 ^ ·)).foldl (· + ·) 0
  let s5 := s4.wr .qryLast1 (d.hc * 2 ^ 16 + mask d.late * 2 ^ 8 + mask d.joined)
  ((s5.sysCue 912).put qryStatState qReady).startDecode

/-! Reset and the configuration check. -/

/-- ARM, or a CONFIG_QUARRY in ARMED that passes (R225). -/
def State.qryReset (s : State) : State :=
  let b0 := s.fld qryBench0Bench0
  let on := s.flag qryCtrlEn && s.flag qryCheckPassed
  let s1 := { s with qry := { s.qry with nodes := [], prev := [], opened := [], uncov := [], dec := none, wait := false,
                                         digests := [], judged := true, joins := [],
                                         grown := [], results := [] }, pauli := [], pauliOld := [] }
  let s2 := (List.range 8).foldl (fun st k => st.wr .qryCnt 0 k) s1
  let s3 := (List.range 6).foldl (fun st f => ((st.put (qryFaceLost f) 0).put (qryFaceMismatch f) 0).put (qryFaceLateCnt f) 0) s2
  let s4 := (((s3.wr .qryWin ((b0 + 65535) % 65536 * 2 ^ 16 + b0)).wr .qryLag 0).wr .qryLast0 0).wr .qryLast1 0
  ((s4.put qryStatHcause 0).put qryStatBacklog 0).put qryStatState (if on then qReady else qOffSt)

/-- The check of R226 on the contents as they stand: REASON and ITEM of the first failure. `resv`: a configuration register of
an image sets a reserved bit. -/
def State.qryCheck (s : State) (resv : Bool) : Option (Nat × Nat) :=
  let seams := s.seams
  let fs := (List.range 6).filter (fun f => s.flag (qryFaceEn f))
  let ancOn (a : Nat) : Bool := s.flag (qryAncEn a)
  let shape (x : Seam) : Bool := x.w0.bits 15 11 != 0 || x.w1.bits 30 15 != 0 || (x.fid != 0 && !x.face) || (x.bnd && x.face)
    || (x.bnd && (x.v != 0 || x.dt)) || (x.face && (x.dt || 5 < x.fid))
  let abits := s.fld qryCfgAbits
  match seams.find? shape with
  | some x => some (1, x.s)
  | none => match seams.find? (fun x => !ancOn x.u || (!x.bnd && !x.face && !ancOn x.v)) with
  | some x => some (2, x.s)
  | none =>
    if abits < 6 ∨ 11 < abits then some (3, 0)
    else match s.qAncs.find? (fun a => s.qA ≤ a) with
    | some a => some (3, a)
    | none =>
      if s.qW < 2 ∨ s.qS < s.qW ∨ s.qW ≤ s.fld qryCfgLag then some (4, 0)
      else match seams.find? (fun x => x.face && !s.flag (qryFaceEn x.fid)) with
      | some x => some (5, x.s)
      | none =>
        match fs.find? (fun f => s.fld (qryFacePartner f) == s.ownId
            || fs.any (fun g => g < f && s.fld (qryFacePartner g) == s.fld (qryFacePartner f))) with
        | some f => some (6, f)
        | none => if resv then some (7, 0) else none

/-- The Quarry's configuration is no longer in force (R226). -/
def State.qryUnpass (s : State) : State :=
  (((s.put qryCheckPassed 0).put qryCheckChecking 0).put qryStatState qOffSt).modQry (fun q => { q with
    chk := false
    dec := none
    wait := false })

/-- A check's outcome is written (R226). -/
def State.qryJudge (s : State) (r : Option (Nat × Nat)) : State :=
  match r with
  | none => ((s.put qryCheckPassed 1).put qryCheckReason 0).put qryCheckItem 0
  | some (why, item) => (s.put qryCheckReason why).put qryCheckItem item

end Sys2Proof.Machine
end

