-- ==== Sys2Proof/Machine/Tally.lean ====
section
/-! DEFINITION. The tally units (19): their algorithms (R331), transfers (R332 to R334), frames and mismatches (R335 to R337). -/
namespace Sys2Proof.Machine

/-- Check width in bytes, initial value and final XOR of an algorithm (R331). -/
def tallyWidth (alg : Nat) : Nat := match alg with | 0 => 4 | 1 => 8 | _ => 2
def tallyInit (alg : Nat) : Nat := match alg with | 0 => 0xFFFFFFFF | 1 => 0 | _ => 0xFFFF
def tallyOut (alg r : Nat) : Nat := match alg with | 0 => Nat.xor r 0xFFFFFFFF | _ => r

/-- One bit into a register that shifts left. -/
def shiftBit (w : Nat) (poly : BitVec w) (c : BitVec w) (b : Bool) : BitVec w := if xor c.msb b then (c <<< 1) ^^^ poly else c <<< 1

/-- One byte into the running register r (R331). -/
def tallyByte (alg r : Nat) (b : Byte) : Nat :=
  let up := byteBits b
  match alg with
  | 0 => (up.foldl crc32cBit (BitVec.ofNat 32 r)).toNat
  | 1 => (up.reverse.foldl (shiftBit 64 0x42F0E1EBA9EA3693) (BitVec.ofNat 64 r)).toNat
  | _ => (up.reverse.foldl (shiftBit 16 0x1021) (BitVec.ofNat 16 r)).toNat

/-- Bytes into the running register. -/
def tallyBytes (alg r : Nat) (bs : List Byte) : Nat := bs.foldl (tallyByte alg) r

/-- A unit's hidden conditions. -/
def State.tally (s : State) (u : Nat) : Tally := tabGet s.tallies u {}
def State.setTally (s : State) (u : Nat) (t : Tally) : State := { s with tallies := tabPut s.tallies u t }

/-- SRC, LEN and POS of a unit. -/
def State.talSrc (s : State) (u : Nat) : Nat := s.rd64 .talSrcLo .talSrcHi u
def State.talLenN (s : State) (u : Nat) : Nat := s.rdn .talLen u
def State.talPosN (s : State) (u : Nat) : Nat := s.rdn .talPos u

/-- Why a GO is refused (R333), with POS as the transfer would begin. -/
def State.tallyRefuse (s : State) (u pos : Nat) : Option Nat :=
  let alg := s.fld (talCfgAlg u)
  let len := s.talLenN u
  let flen := s.fld (talCfgFlen u)
  if alg = 3 ∨ len = 0 ∨ len ≤ pos
    ∨ (s.flag (talCfgFrame u) ∧ (flen < 8 ∨ 4096 < flen ∨ len % flen ≠ 0 ∨ pos % flen ≠ 0 ∨ flen - tallyWidth alg ≤ s.fld (talCfgAcoff u)))
  then some 1
  else if s.fld memStatInService = 0 ∨ s.fld memStatN * s.groupBytes < s.talSrc u + len then some 2
  else none

/-- TALLY_GO (R332, R333). -/
def execTallyGo (u : Fin 16) (cont : Bool) (s : State) : Res :=
  if !s.alive then .next s
  else if s.mode = .boot ∨ s.flag (talStatBusy u.val) then .next (s.raiseBit (talStatGoBad u.val))
  else match s.tallyRefuse u.val (if cont then s.talPosN u.val else 0) with
  | some e => .next ((s.raiseBit (talStatRefused u.val)).put (talStatErr u.val) e)
  | none =>
    let s1 := (s.setTally u.val {}).raiseBit (talStatBusy u.val)
    if cont then .next s1
    else
      let s2 := ((s1.wr64 .talRunLo .talRunHi (tallyInit (s1.fld (talCfgAlg u.val))) u.val).wr .talPos 0 u.val).wr .talMisCnt 0 u.val
      .next ((((s2.wr .talFrmCnt 0 u.val).raiseBit (talAliveEmpty u.val)).put (talAliveRepeatCnt u.val) 0).put (talAliveGapCnt u.val) 0)

/-- TALLY_STOP (R334): the transfer stops at its next boundary. -/
def execTallyStop (u : Fin 16) (s : State) : Res :=
  if s.alive && s.flag (talStatBusy u.val) then .next (s.setTally u.val { s.tally u.val with stop := true }) else .next s

/-- A mismatch or an alive fault (R337). -/
def State.tallyFault (s : State) (u : Nat) (bit : Fld) : State :=
  let s1 := ((s.raiseBit bit).countReg .talMisCnt u).sysCue 931
  if (s1.tally u).logged then s1
  else (s1.setTally u { s1.tally u with logged := true }).logEntry 0x07 1 u (s1.rd .talStat u)

/-- The alive counter of a frame whose check value matched (R336). -/
def State.tallyAlive (s : State) (u : Nat) (x : Byte) : State :=
  let w := if s.flag (talCfgAw u) then 8 else 4
  let a := x.toNat % 2 ^ w
  let last := s.fld (talAliveLast u)
  if s.flag (talAliveEmpty u) then (s.put (talAliveLast u) a).put (talAliveEmpty u) 0
  else if a = last then (s.count (talAliveRepeatCnt u)).tallyFault u (talStatAliveErr u)
  else
    let gap := (a + 2 * 2 ^ w - last % 2 ^ w - 1) % 2 ^ w
    let s1 := (s.put (talAliveLast u) a).count (talAliveGapCnt u) gap
    if gap = 0 then s1 else s1.tallyFault u (talStatAliveErr u)

/-- Whether HALT_MIS ends the transfer at a mismatch (R334). -/
def State.tallyMismatch (s : State) (u : Nat) : State :=
  let s1 := s.tallyFault u (talStatMismatch u)
  if s1.flag (talCfgHaltMis u) then s1.setTally u { s1.tally u with halt := true } else s1

/-- The bytes of a transfer from POS that can be consumed before a failing line (R334). -/
def State.tallyGood (s : State) (u : Nat) : Nat :=
  let a := s.talSrc u + s.talPosN u
  let left := s.talLenN u - s.talPosN u
  let bad (l : Nat) : Bool := !s.bulkServed (64 * l) || s.poison.contains l
  match (List.range ((a + left + 63) / 64 - a / 64)).find? (fun i => bad (a / 64 + i)) with
  | some i => 64 * (a / 64 + i) - a
  | none => left

/-- One frame, or the whole region, is consumed and judged (R335, R336). -/
def State.tallyStep (s : State) (u : Nat) : State :=
  let alg := s.fld (talCfgAlg u)
  let cw := tallyWidth alg
  let a := s.talSrc u + s.talPosN u
  if s.flag (talCfgFrame u) then
    let flen := s.fld (talCfgFlen u)
    let bs := s.bulkBytes a flen
    let r := tallyBytes alg (tallyInit alg) (bs.take (flen - cw))
    let stored := ((bs.drop (flen - cw)).zipIdx.map (fun e => e.1.toNat * 256 ^ e.2)).foldl (· + ·) 0
    let s1 := (((s.wr64 .talRunLo .talRunHi r u).wr64 .talResLo .talResHi (tallyOut alg r) u).countReg .talFrmCnt u).wr .talPos
      (s.talPosN u + flen) u
    if stored ≠ tallyOut alg r then s1.tallyMismatch u
    else if s1.flag (talCfgAliveEn u) then s1.tallyAlive u (bs.getD (s1.fld (talCfgAcoff u)) 0)
    else s1
  else
    let r := tallyBytes alg (s.rd64 .talRunLo .talRunHi u) (s.bulkBytes a (s.talLenN u - s.talPosN u))
    let s1 := ((s.wr64 .talRunLo .talRunHi r u).wr64 .talResLo .talResHi (tallyOut alg r) u).wr .talPos (s.talLenN u) u
    if s1.flag (talCfgCmp u) && s1.rd64 .talExpLo .talExpHi u % 256 ^ cw != tallyOut alg r then s1.tallyMismatch u else s1

/-- A frame or the region can be consumed now: bytes left, no stop or halt, and no failing line in it. -/
def State.tallyCan (s : State) (u : Nat) : Bool :=
  let need := if s.flag (talCfgFrame u) then s.fld (talCfgFlen u) else s.talLenN u - s.talPosN u
  s.alive && s.flag (talStatBusy u) && !(s.tally u).stop && !(s.tally u).halt && decide (s.talPosN u < s.talLenN u)
    && decide (need ≤ s.tallyGood u)

/-- TALLY_BLOCK (R336, R337): the last byte of a frame or of the region is consumed. -/
def execTallyBlock (u : Fin 16) (s : State) : Res := if s.tallyCan u.val then .next (s.tallyStep u.val) else .next s

/-- Every frame that can still be consumed. -/
def State.tallyAll (u : Nat) : Nat → State → State
  | 0, s => s
  | n + 1, s => if s.tallyCan u then State.tallyAll u n (s.tallyStep u) else s

/-- Some more bytes are consumed without a boundary: r and POS follow. -/
def State.tallyPart (s : State) (u n : Nat) : State :=
  let alg := s.fld (talCfgAlg u)
  let r0 := if s.flag (talCfgFrame u) then tallyInit alg else s.rd64 .talRunLo .talRunHi u
  let payload := if s.flag (talCfgFrame u) then min n (s.fld (talCfgFlen u) - tallyWidth alg) else n
  let r := tallyBytes alg r0 (s.bulkBytes (s.talSrc u + s.talPosN u) payload)
  if n = 0 then s else (s.wr64 .talRunLo .talRunHi r u).wr .talPos (s.talPosN u + n) u

/-- A transfer ends with a cause (R334). -/
def State.tallyDone (s : State) (u err : Nat) : State :=
  (((s.put (talStatBusy u) 0).raiseBit (talStatDone u)).put (talStatErr u) err).setTally u {}

/-- TALLY_END (R334): what can be consumed is consumed, and the transfer ends with its cause. Under STOP with FRAME = 0 the
multiple of 64 it has reached is left open. -/
def execTallyEnd (u : Fin 16) (s : State) : Res :=
  if !s.alive || !s.flag (talStatBusy u.val) then .next s
  else
    let s1 := State.tallyAll u.val (s.talLenN u.val + 1) s
    let t := s1.tally u.val
    let pos := s1.talPosN u.val
    let len := s1.talLenN u.val
    let good := s1.tallyGood u.val
    if t.halt && s1.flag (talCfgFrame u.val) then .next (s1.tallyDone u.val 6)
    else if pos = len then .next (s1.tallyDone u.val 0)
    else if t.stop then
      if s1.flag (talCfgFrame u.val) then .next (s1.tallyDone u.val 5)
      else
        let q := s1.takeFree
        let lo := (pos + 63) / 64
        let stop := 64 * (lo + (Config.freeWord q.1).toNat % (len / 64 - lo + 1))
        if len ≤ stop then
          let s2 := q.2.setTally u.val { t with stop := false }
          .next (if s2.tallyCan u.val then (s2.tallyStep u.val).tallyDone u.val 0 else (s2.tallyPart u.val good).tallyDone u.val 3)
        else if stop - pos ≤ good then .next ((q.2.tallyPart u.val (stop - pos)).tallyDone u.val 5)
        else .next ((q.2.tallyPart u.val good).tallyDone u.val 3)
    else .next (((s1.countLost (s1.talSrc u.val + pos + good) 1).tallyPart u.val good).tallyDone u.val 3)

/-- Transfers that the entry to DORMANT abandons (R334). -/
def State.tallyDormant (s : State) : State :=
  (List.range 16).foldl (fun st u => if st.flag (talStatBusy u) then st.tallyDone u 4 else st) s

/-- On wake a unit's registers are as after reset, its status apart (R334: its state is not kept). -/
def State.tallyWake (s : State) : State :=
  let lost (k : RegK) : Bool := k == .talCfg || k == .talSrcLo || k == .talSrcHi || k == .talLen || k == .talPos || k == .talRunLo
    || k == .talRunHi || k == .talExpLo || k == .talExpHi || k == .talResLo || k == .talResHi || k == .talAlive || k == .talMisCnt
    || k == .talFrmCnt
  { s with regs := s.regs.filter (fun e => !lost e.1.k), tallies := [] }

end Sys2Proof.Machine
end

