-- ==== Sys2Proof/Machine/ModeCore.lean ====
section
/-! DEFINITION. What mode transitions do (R29): converters and their ramps (R126 to R128, R161), engines held, released and
reset (R72, R406), units at entry to each mode, and leaving DORMANT and SERVICE (R34). -/
namespace Sys2Proof.Machine

/-- Converters: RF outputs, flux outputs, RF inputs. -/
structure Converters where
  rf : List Nat
  flx : List Nat
  rfi : List Nat
  deriving DecidableEq, Repr

/-- Every converter of the device. -/
def allConverters : Converters := ⟨List.range 80, List.range 256, List.range 16⟩

/-- Acquisition units that are armed: any but an IDLE one, and one whose arm tick has not come. -/
def State.armedUnits (s : State) : List Nat :=
  (List.range 16).filter (fun u => (s.acq u).state != .idle || (s.acq u).armAt.isSome)

/-- The converters that a start set and the armed units need (R29). -/
def State.needed (s : State) (set : List Nat) : Converters :=
  ⟨ascending ((set.filter (· < 512)).map rfOf), ascending ((set.filter (fun e => 512 ≤ e && e < 768)).map (· - 512)),
   ascending ((set.filter (768 ≤ ·)).map inputOf ++ s.armedUnits)⟩

/-- Converters that are on. -/
def State.convertersOn (s : State) : Converters :=
  ⟨ascending ((s.regs.filter (fun e => e.1.k = .rfoStat && e.2.bit 0)).map (fun e => e.1.i)),
   ascending ((s.regs.filter (fun e => e.1.k = .flxStat && e.2.bit 0)).map (fun e => e.1.i)),
   ascending ((s.regs.filter (fun e => e.1.k = .rfiStat && e.2.bit 0)).map (fun e => e.1.i))⟩

/-- A flux output at 0 mA: p and every history 0 (R161). -/
def State.fluxZero (s : State) (i : Nat) : State :=
  (s.setFlx i { settled := max s.now s.rfSettled, amp := (s.flx i).amp }).put (flxStatRamping i) 0

/-- An RF output is powered and aligned, or not (R126). -/
def State.rfOnOff (s : State) (on : Bool) (o : Nat) : State := (s.put (rfoStatOn o) (b2n on)).put (rfoStatAligned o) (b2n on)

/-- An RF input is powered and aligned, or not (R168). -/
def State.rfiOnOff (s : State) (on : Bool) (i : Nat) : State := (s.put (rfiStatOn i) (b2n on)).put (rfiStatAligned i) (b2n on)

/-- A flux output is powered and its queue centred, or not (R159, R161). -/
def State.flxOnOff (s : State) (on : Bool) (i : Nat) : State :=
  let s1 := if on && s.flag (flxStatOn i) then s else s.fluxZero i
  (s1.put (flxStatOn i) (b2n on)).put (flxStatAligned i) (b2n on)

/-- The converters named are on and every other one is off. -/
def State.setConverters (s : State) (c : Converters) : State :=
  let was := s.convertersOn
  let s1 := (was.rf.filter (fun o => !c.rf.contains o)).foldl (fun st o => st.rfOnOff false o) s
  let s2 := (was.flx.filter (fun i => !c.flx.contains i)).foldl (fun st i => st.flxOnOff false i) s1
  let s3 := (was.rfi.filter (fun i => !c.rfi.contains i)).foldl (fun st i => st.rfiOnOff false i) s2
  let s4 := c.rf.foldl (fun st o => st.rfOnOff true o) s3
  let s5 := c.flx.foldl (fun st i => st.flxOnOff true i) s4
  c.rfi.foldl (fun st i => st.rfiOnOff true i) s5

/-- Flux outputs that are on and that a transition powers off ramp to 0 mA first (R161). -/
def State.rampDown (s : State) (c : Converters) : State :=
  ((s.convertersOn.flx).filter (fun i => !c.flx.contains i)).foldl (fun st i => st.startRamp i 0 true) s

/-- The tick in which the last ramp of these outputs ends (R161). -/
def State.rampsEnd (s : State) (is : List Nat) : Nat :=
  is.foldl (fun m i => match (s.flx i).ramp with
    | some r => max m (rampEnds r)
    | none => m) s.now

/-- Units that fail to align set ALIGN_FAIL (R127, R159, R168). -/
def State.alignFail (s : State) (c : Converters) : State :=
  let s1 := c.rf.foldl (fun st o => st.raiseBit (rfoStatAlignFail o)) s
  let s2 := c.flx.foldl (fun st i => st.raiseBit (flxStatAlignFail i)) s1
  c.rfi.foldl (fun st i => st.raiseBit (rfiStatAlignFail i)) s2

/-- The units of a set that the surroundings say do not align. -/
def TransResult.failing (r : TransResult) (c : Converters) : Converters :=
  ⟨(r.failRf.map Fin.val).filter c.rf.contains, (r.failFlx.map Fin.val).filter c.flx.contains,
   (r.failRfi.map Fin.val).filter c.rfi.contains⟩

/-- No converter. -/
def Converters.isNone (c : Converters) : Bool := c.rf.isEmpty && c.flx.isEmpty && c.rfi.isEmpty

/-! Engines. -/

/-- Change every engine the state lists, by the logical number it serves. -/
def State.eachLogical (s : State) (f : Nat → Eng → Eng) : State :=
  { s with engs := s.engs.map (fun e => (e.1, f (s.logical e.1) e.2)) }

/-- The listener takes no channel (R202). -/
def Eng.deaf (g : Eng) : Eng := { g with listen := none, pend := false, ovr := 0, lostAt := none }

/-- ENTRY of the image. -/
def Eng.entry (g : Eng) : Nat := match g.img with | some i => i.entry | none => 0

/-- ARM holds an engine of the start set at its entry point (R72, R202, 15). -/
def Eng.armed (g : Eng) : Eng :=
  { g.deaf with state := .held, pc := g.entry, lsr := 0, lateCnt := 0, gmask := 0, cont := 0 }

/-- ARM with a start set (R72): its engines are HELD; a HELD engine it leaves out is IDLE. No listener takes a channel (R202). -/
def State.holdEngines (s : State) (set : List Nat) : State :=
  s.eachLogical (fun e g =>
    if g.state = .unloaded then g.deaf
    else if set.contains e then g.armed
    else if g.state = .held then { g.deaf with state := .idle } else g.deaf)

/-- The device returns from RUN to ARMED (R72): halted and faulted engines of the start set are HELD again. -/
def State.reholdEngines (s : State) : State :=
  s.eachLogical (fun e g => match g.state with
    | .halted | .faulted => if s.startSet.contains e then { g with state := .held, pc := g.entry } else g
    | _ => g)

/-- An ME at T_s keeps ACC and the invalid condition; windows, samples, generators and the accumulation do not survive (R97,
R99). -/
def Me.started (m : Me) : Me := { accI := m.accI, accQ := m.accQ, inv := m.inv, recs := m.recs }

/-- An engine leaves HELD at T_s (R72): the architectural state of 04, with ENG_LSR unchanged. -/
def Eng.started (g : Eng) (t : Nat) : Eng :=
  { g.deaf with
    state := .running
    g := []
    preds := 1
    tc := BitVec.ofNat 64 (t + 128)
    pc := g.entry
    loops := []
    stack := []
    ready := t
    queue := []
    lastTc := none
    wait := none
    bdma := none
    bdmaBad := none
    eccBad := none
    played := false
    me := g.me.started
    routine := none
    haltReq := false }

/-- Registers of an engine when SAFE is left (R406): ENG_CFG, ME_CFG and the image stay. -/
def Eng.afterSafe (g : Eng) : Eng :=
  { state := if g.state = .unloaded then .unloaded else .idle
    img := g.img
    pc := g.entry
    latePol := g.latePol
    faultAct := g.faultAct
    lateCue := g.lateCue
    ovCue := g.ovCue
    bdma := g.bdma }

/-! Units at entry to a mode. -/

/-- Every acquisition unit as by ACQ_DISARM (R236). -/
def State.disarmAll (s : State) : State := (s.acqs.map (·.1)).foldl (fun st u => st.acqDisarm u) s

/-- Rings at every entry to ARMED (R146): position 0, empty, not primed. -/
def State.resetRings (s : State) : State :=
  s.rings.foldl (fun st e => (st.setRing (e.1 / 4) (e.1 % 4) {}).put (rfoRingStatPrimed (e.1 / 4) (e.1 % 4)) 0) s

/-- Jump requests and OVR are cleared (R139). -/
def State.clearJumps (s : State) : State :=
  let offS (e : Nat × Slot) : Nat × Slot := (e.1, { e.2 with jump := none, used := none })
  let offF (e : Nat × Flux) : Nat × Flux := (e.1, { e.2 with jump := none })
  let s1 := { s with slots := s.slots.map offS, flux := s.flux.map offF }
  (s1.clearFld .rfoSlotJmp 15 8).clearFld .flxSegJmp 15 8

/-- Counters "since ARM". -/
def State.clearCounts (s : State) : State :=
  let since (k : RegK) : Bool := k == .rfoClipCnt || k == .rfiOvrCnt || k == .rfoRingUcnt || k == .glbStreamUcnt || k == .flxClipCnt
    || k == .cueLostCnt
  { s with regs := s.regs.filter (fun e => !since e.1.k) }.clearFld .cueCh 31 16

/-- PARKED clears, with p and every history at the park code (R163). -/
def State.unpark (s : State) : State :=
  (List.range 256).foldl (fun st i =>
    if st.flag (flxStatParked i) then
      let v := st.parkCode i
      let h := v * 2 ^ 8
      let st1 := st.setFlx i { settled := max st.now st.rfSettled, p := v, amp := (st.flx i).amp, code := v,
                               iir := List.replicate 4 ⟨h, h, h, h⟩, fir := List.replicate 63 h }
      (st1.put (flxStatParked i) 0).put (flxStatRamping i) 0
    else st) s

/-- Steady state of every stage at p (R158). -/
def Flux.steady (x : Flux) : Flux :=
  let h := x.p * 2 ^ 8
  { x with iir := List.replicate 4 ⟨h, h, h, h⟩, fir := List.replicate 63 h }

/-! Transitions. -/

/-- A transition begins (R25): a START that has not reached its T_s is cancelled (R29), and flux outputs it powers off ramp
down. -/
def State.beginTrans (s : State) (target : Mode) (cmd : Option (BitVec 16 × Nat)) (set : List Nat) (keep : Converters) : State :=
  { s with trans := some ⟨target, cmd, set, s.convertersOn.flx⟩, startAt := none }.rampDown keep

/-- The command of a transition completes. -/
def State.done (s : State) (cmd : Option (BitVec 16 × Nat)) (st : Status) : State :=
  match cmd with
  | some (tag, op) => s.complete tag op st
  | none => s

/-- DEGRADED in place of OK while a memory group is out of service (R29). -/
def State.okDegraded (s : State) : Status := if s.fld memStatInService = 0xF then .ok else .degraded

/-- A transition ends without a change of mode. -/
def State.abandon (s : State) (t : Trans) (st : Status) : State := { s with trans := none }.done t.cmd st

/-- Ghenov serves again: commands that a Caller restart interrupted complete with FAULT, and a CALLER_RESTART with OK (R342). -/
def State.finishCut (s : State) : State :=
  let s1 := s.caller.cut.foldl (fun st c => st.complete c.1 c.2 .fault) { s with caller := { s.caller with cut := [] } }
  (s1.bg.filter (fun b => b.job == .callerRestart)).foldl (fun st b => st.complete b.tag b.opcode .ok)
    { s1 with bg := s1.bg.filter (fun b => b.job != .callerRestart) }

/-- Entry to STANDBY from CALIBRATE, ARMED or SAFE: converters off, engines released, units disarmed, pins idle (R29, R72,
R236, R251); from SAFE also the reset of R406, PARKED and the Quarry (R165, R225). -/
def State.enterStandby (s : State) : State :=
  let safe := s.mode == .safe
  let s1 := ((s.setConverters ⟨[], [], []⟩).releaseEngs.disarmAll).mvpIdle
  let s2 := if safe then
      ((s1.eachEng Eng.afterSafe).clearFld .flxStat 2 2).put qryStatState qOffSt
    else s1
  { s2 with startSet := [], stopAt := none }.setMode .standby

/-- SAFE is entered on leaving DORMANT or SERVICE with a latched cause (R34). -/
def State.enterPending (s : State) : State :=
  let bit := match s.pendCause with | some (_, b) => b | none => 0
  ({ s with trans := none }).enterSafe bit (bit == 0)

/-- Links whose partners hear from the device again after SERVICE or DORMANT (R289). -/
def State.rejoin (s : State) : State := s.notifyNeighbours 3

/-- Every link that is UP or in KEEPALIVE takes another state. -/
def State.linksTo (s : State) (old new : Nat) : State :=
  (List.range 6).foldl (fun st l => if st.linkState l = old then st.setLink l new else st) s

/-- Entry to DORMANT (R29, R279, R289, R327, R334, R51): units end, memory is in self-refresh, links in keep-alive, the PLL and
the Caller off. -/
def State.enterDormant (s : State) : State :=
  let s0 := (List.range 6).foldl (fun st l => if st.linkState l = lsUp then st.modLink l Link.clear else st) s.mvpIdle.tallyDormant
  let s1 := (s0.notifyNeighbours 4).linksTo lsUp lsKeepalive
  let s2 := { s1 with mem := { s1.mem with selfRef := 0xF } }
  (((s2.put clkRefStatLocked 0).put clkRefStatHoldover 0).put glbCallerStatState 0).setMode .dormant

/-- The wake's work (R29, R15, R51, R323, R352): PLL relock with ACQ 0, full training, crossings checked, the Caller serving,
dwell counts of housekeeping restarted. -/
def State.wakeWork (s : State) (r : TransResult) : State :=
  let s1 := ((s.fullTrain r.sweeps true).put clkEpochAcq 0).relock
  let restart (e : Nat × Dwell) : Nat × Dwell := if 3 ≤ e.1 % 5 then e else (e.1, { e.2 with up := 0, down := 0 })
  let restartMon (e : Nat × Dwell) : Nat × Dwell := (e.1, { e.2 with up := 0, down := 0 })
  let s2 := { s1 with hkp := { s1.hkp with zones := s1.hkp.zones.map restart, mons := s1.hkp.mons.map restartMon } }
  let s3 := (s2.tallyWake.put glbCallerStatState 2).finishCut
  (r.xingOff.map Fin.val).foldl (fun st x =>
    let st1 := if x = 4 then st.raiseBit glbXingStatIoSlip else st.put glbXingStatCdSlip (st.fld glbXingStatCdSlip ||| 2 ^ x)
    (st1.logEntry 0x00 1 x (st1.rd .glbXingStat)).safeCause 4) s3

end Sys2Proof.Machine
end

