-- ==== Sys2Proof/Machine/Modes.lean ====
section
/-! DEFINITION. The mode commands and the events that change the mode (02): ENTER_*, ARM, START, STOP, SAFE requests, wake, the
start, stop and end of a run, halt requests, and the end of a transition. -/
namespace Sys2Proof.Machine

/-- A SAFE cause is still asserted, judged by its source (R29, R357, GLB_SAFE_CAUSE): THERM, RAIL, LOWCRIT of a zone that raised
it, HOLDOVER. FLUX has no asserted condition in R29: an output still at its limit does not count (DESIGN CHOICE, log 137). -/
def State.safeAsserted (s : State) : Bool :=
  s.flag hkpStatHotSafeAny || s.flag hkpStatRailAny || s.hkp.lowCause.any (fun z => s.zoneFlag z 0)
    || (s.flag clkRefStatHoldover && decide (64 ≤ s.fld clkHoldDriftEst))

/-- A slip bit is set (R15). -/
def State.slipped (s : State) : Bool := s.flag glbXingStatIoSlip || s.fld glbXingStatCdSlip != 0

/-- The guard that ENTER_CALIBRATE and ARM share (R29). -/
def State.powerGuard (s : State) : Bool := s.flag hkpStatLowCritAny || s.slipped || s.fld memStatInService == 0

/-- A background job that writes flash or repairs (R29). -/
def flashJob : Job → Bool
  | .flashWrite .. | .fwActivate .. | .memRepair .. => true
  | _ => false

/-- ENTER_STANDBY (R29). -/
def execEnterStandby (c : Cmd) (s : State) : Res :=
  s.admin 0x10 c (Cmd.only c []) (fun t =>
    let go (t : State) (m : Mode) : State := t.beginTrans m (some (c.tag, 0x10)) [] ⟨[], [], []⟩
    match t.mode with
    | .standby => t.complete c.tag 0x10 .ok
    | .dormant => (go t (if t.safePending then .safe else .standby)).linksTo lsKeepalive lsTrain
    | .service =>
      if t.bg.any (fun b => flashJob b.job) then t.complete c.tag 0x10 .busy
      else go t (if t.safePending then .safe else .standby)
    | .safe =>
      if (List.range 256).any (fun i => t.flag (flxStatRamping i)) then t.complete c.tag 0x10 .busy
      else if t.safeAsserted then t.complete c.tag 0x10 .fault
      else go t .standby
    | _ => go t .standby)

/-- ENTER_DORMANT (R29). -/
def execEnterDormant (c : Cmd) (s : State) : Res :=
  s.admin 0x11 c (Cmd.only c []) (fun t =>
    if !t.armedUnits.isEmpty || t.fld glbStreamStatOpenCnt != 0 then t.complete c.tag 0x11 .busy
    else t.beginTrans .dormant (some (c.tag, 0x11)) [] ⟨[], [], []⟩)

/-- ENTER_CALIBRATE (R29): from ARMED the guards have been met and the start set is released. -/
def execEnterCalibrate (c : Cmd) (s : State) : Res :=
  s.admin 0x12 c (Cmd.only c []) (fun t =>
    match t.mode with
    | .calibrate => t.complete c.tag 0x12 .ok
    | .armed => t.beginTrans .calibrate (some (c.tag, 0x12)) [] allConverters
    | _ =>
      if t.powerGuard then t.complete c.tag 0x12 .fault
      else t.beginTrans .calibrate (some (c.tag, 0x12)) [] allConverters)

/-- ENTER_SERVICE (R29). -/
def execEnterService (c : Cmd) (s : State) : Res :=
  s.admin 0x17 c (Cmd.only c []) (fun t =>
    if t.fld glbStreamStatOpenCnt ≠ 0 then t.complete c.tag 0x17 .busy
    else t.beginTrans .service (some (c.tag, 0x17)) [] ⟨[], [], []⟩)

/-- The start set of ARM's map (R305): engine n at bit n mod 8 of byte n div 8. -/
def State.startMap (s : State) (a : Nat) : List Nat :=
  (List.range 1024).filter (fun n => (memByte s.bulk (a + n / 8)).getLsbD (n % 8))

/-- An engine of a start set is loaded: it has an image and is not UNLOADED (R29). -/
def State.loaded (s : State) (e : Nat) : Bool := (s.eng e).img.isSome && (s.eng e).state != .unloaded

/-- The guards of ARM (R29), with the checks of the cue and Quarry configurations. -/
def State.armGuard (s : State) (set : List Nat) : Bool :=
  s.flag clkEpochAcq && set.all s.loaded && (s.cueCheck []).isNone && (!s.flag qryCtrlEn || (s.qryCheck false).isNone)
    && !s.flag hkpStatHotWarnAny && !s.powerGuard

/-- ARM (R29, R201, R226, R305). -/
def execArm (c : Cmd) (s : State) : Res :=
  s.admin 0x13 c (Cmd.only c [(1, wordMask), (2, wordMask)]) (fun t =>
    let a := c.w64 1
    if !(t.bulkUsable a 128 && t.notPoisoned a 128) then (t.countLost a 128).complete c.tag 0x13 .fault
    else
      let set := t.startMap a
      if !t.armGuard set then t.complete c.tag 0x13 .fault
      else
        let t1 := t.cuePass
        let t2 := if t1.flag qryCtrlEn then t1.qryJudge none else t1
        t2.beginTrans .armed (some (c.tag, 0x13)) set (t2.needed set))

/-- A LOAD_ENGINES in progress names an engine of a set. -/
def State.loadingAny (s : State) (set : List Nat) : Bool :=
  s.bg.any (fun b => match b.job with
    | .loadEngines imgs _ => imgs.any (fun i => set.contains i.engine.val)
    | _ => false)

/-- START (R29): it completes when accepted. -/
def execStart (c : Cmd) (s : State) : Res :=
  s.admin 0x14 c (Cmd.only c [(1, wordMask), (2, wordMask)]) (fun t =>
    let ts := c.w64 1
    if ts < t.now + 10000 then t.complete c.tag 0x14 .late
    else if t.now + 2 ^ 40 < ts then t.complete c.tag 0x14 .range
    else if t.loadingAny t.startSet || t.startAt.isSome then t.complete c.tag 0x14 .busy
    else if t.flag hkpStatLowCritAny then t.complete c.tag 0x14 .fault
    else { t with startAt := some ts }.complete c.tag 0x14 .ok)

/-- STOP (R29): it completes when the transition ends. TRANS is 1 from the tick it executes, not from T_stop (DESIGN CHOICE, log
138: R29 gives only the end). -/
def execStop (c : Cmd) (s : State) : Res :=
  s.admin 0x15 c (Cmd.only c [(1, wordMask), (2, wordMask)]) (fun t =>
    let ts := if c.w64 1 = 0 then t.now + 64 else c.w64 1
    if ts < t.now + 64 then t.complete c.tag 0x15 .late
    else { t with trans := some ⟨.armed, some (c.tag, 0x15), t.startSet, []⟩, stopAt := some ts })

/-- ENTER_SAFE (R33, R34): executed by the I/O die, outside the queue and the Caller. -/
def State.doEnterSafe (s : State) (c : Cmd) : State :=
  if !Cmd.only c [] then s.complete c.tag 0x16 .format
  else if s.mode = .boot then
    if s.bootFailed then s.complete c.tag 0x16 .fault else (s.countReg .svcStateRej).complete c.tag 0x16 .state
  else if s.mode = .safe && s.trans.isNone then s.complete c.tag 0x16 .ok
  else (s.safeCause 0 true).complete c.tag 0x16 .ok

/-- ENTER_SAFE (R33). -/
def execEnterSafe (c : Cmd) (s : State) : Res := if s.power then .next (s.doEnterSafe c) else .next s

/-- SAFE_REQ (R33): the host writes GLB_MODE_CTRL.SAFE_REQ. -/
def execSafeReq (s : State) : Res := if s.power && s.mode != .boot then .next (s.safeCause 1) else .next s

/-- WAKE (R29): the host writes GLB_MODE_CTRL.WAKE; it is ignored outside DORMANT. -/
def execWake (s : State) : Res :=
  if s.power && s.mode == .dormant && s.trans.isNone then
    .next ((s.beginTrans (if s.safePending then .safe else .standby) none [] ⟨[], [], []⟩).linksTo lsKeepalive lsTrain)
  else .next s

/-- ENG_HALT (R70, R71): the host writes ENG_CTRL.HALT of a window. -/
def execEngHalt (n : Fin 1088) (s : State) : Res :=
  if !s.alive then .next s
  else
    let p := s.windowPhys n.val
    let g := s.engP p
    if !liveState g.state then .next s
    else match g.routine with
    | some r =>
      let held := g.state != .running
      if held then .next { s with engs := tabPut s.engs p { g.stop .halted with
          routine := none
          cont := BitVec.ofNat 32 (2 ^ 31 + b2n r.visible * 2 ^ 30 + r.num % 256 * 2 ^ 16 + r.pc % 2048) } }
      else .next { s with engs := tabPut s.engs p { g with haltReq := true } }
    | none => .next { s with engs := tabPut s.engs p (if g.state = .running ∧ s.now < g.ready then { g with haltReq := true }
        else g.stop .halted) }

/-! A run. -/

/-- Registers that a run takes as they stand at T_s (R106, R175). -/
def runReg (k : RegK) : Bool :=
  k == .rfoSlotFtwLo || k == .rfoSlotFtwHi || k == .rfoSlotPh || k == .rfoSlotAmp || k == .rfiCtrl || k == .rfiChCfg || k == .rfiChRot
    || k == .rfiChFtwLo || k == .rfiChFtwHi

/-- RUN_START (R29, R72, R106, R139, R152, R158, R197, R217): TT reaches T_s. -/
def execRunStart (s : State) : Res :=
  match s.power, s.mode, s.trans, s.startAt with
  | true, .armed, none, some t =>
    let s0 := s.advanceTo t
    let s1 := s0.mesTo (s0.now - 1)
    let now := s1.now
    let s2 := { s1 with startAt := none, ts := now, held := s1.regs.filter (fun e => runReg e.1.k), satFrom := now, clipFrom := now,
                        stopMuted := false }
    let s3 := s2.eachLogical (fun e g => if s2.startSet.contains e && g.state == .held then g.started now else g)
    let s4 := (s3.startSet.filter (· < 512)).foldl (fun st e => st.setSlot (rfOf e) (slotOf e) (st.slotStart (rfOf e) (slotOf e)))
      { s3 with slots := [] }
    let s5 := s4.fluxOn.foldl (fun st i =>
      let x := st.flx i
      st.setFlx i { x.steady with amp := st.fld (flxAmpAmp i), mark0 := .free, mark1 := .free, commits := [] }) s4
    .next ((((s5.clearJumps.initCells now).clearShot).faceStart.sysCue 937).setMode .run)
  | _, _, _, _ => .next s

/-- STOP_TIME (R29, R92, R137): TT reaches T_stop, once every effect with an earlier tc has landed. -/
def execStopTime (s : State) : Res :=
  match s.power, s.mode, s.stopAt with
  | true, .run, some t =>
    if s.engs.any (fun e => e.2.queue.any (fun q => q.tc < t)) then .next s
    else
      let s1 := ((s.advanceTo t).judge.haltAll t).cutSlots.cutFlux
      .next { s1 with stopAt := none, actTail := [], stopMuted := true }
  | _, _, _ => .next s

/-- A run has ended (R29): its engines have halted, their effects have landed, and the windows have their last samples. -/
def State.runDone (s : State) : Bool :=
  s.startSet.all (fun e =>
    let g := s.eng e
    (g.state == .halted || g.state == .faulted) && g.queue.isEmpty && g.me.wins.all (fun w => (w.skipped && w.arrived == 0) || w.len ≤ w.arrived))

/-- The tick by which everything that plays has ended. -/
def State.lastEnd (s : State) : Nat :=
  let a := s.slots.foldl (fun m e => match e.2.play with | some p => max m (s.playEnd (e.1 / 16) p) | none => m) s.now
  let b := s.flux.foldl (fun m e => match e.2.play with | some p => max m (s.playEnd (80 + e.1) p) | none => m) a
  s.actTail.foldl (fun m e => max m e.2.2) b

/-- RUN_COMPLETE (R29): the return from RUN to ARMED begins. -/
def execRunComplete (s : State) : Res :=
  if s.power && s.mode == .run && s.trans.isNone && s.runDone then
    let s1 := s.advanceTo s.lastEnd
    .next { s1 with trans := some ⟨.armed, none, s1.startSet, []⟩ }
  else .next s

/-! The end of a transition. -/

/-- The return from RUN to ARMED ends (R29, R146): STOP completes; without a command a notice is due (R309). -/
def State.endRun (s : State) (t : Trans) : State :=
  let s1 := ((s.reholdEngines).resetRings).setMode .armed
  match t.cmd with
  | some _ => s1.done t.cmd .ok
  | none => s1.notice 3 [s1.modeWord, s1.rd .glbSafeCause]

/-- The checks that ARM runs have not been spoilt by a configuration write since it began (R201, R226, log 131). -/
def State.armChecked (s : State) : Bool := s.flag cueStatPassed && (!s.flag qryCtrlEn || s.flag qryCheckPassed)

/-- ARM ends (R29, R126, R127, R139, R146, R163, R197, R203, R225, R285). -/
def State.endArm (s : State) (t : Trans) (r : TransResult) : State :=
  let need := s.needed t.startSet
  let bad := TransResult.failing r need
  let dropped := t.flxOn.filter (fun i => !need.flx.contains i)
  if !bad.isNone || !s.armChecked then ((dropped.foldl (fun st i => (st.fluxZero i).flxOnOff true i) s).alignFail bad).abandon t .fault
  else
    let s1 := (((s.mesTo (s.now - 1)).setConverters need).unpark.holdEngines t.startSet).clearCounts
    let s2 := { s1 with startSet := t.startSet, slots := [], verdicts := [], newVerdicts := [], aliveOut := [], aliveIn := [],
                        actTail := [] }
    let s3 := (((s2.clearJumps.resetRings).initCells s2.now).qryReset).setMode .armed
    s3.done t.cmd s3.okDegraded

/-- ENTER_CALIBRATE ends (R29, R126): every converter is on; one that fails to align says so. -/
def State.endCalibrate (s : State) (t : Trans) (r : TransResult) : State :=
  let bad := TransResult.failing r allConverters
  let s1 := ((s.setConverters allConverters).alignFail bad).releaseEngs
  let s2 := bad.rf.foldl (fun st o => st.put (rfoStatAligned o) 0) s1
  let s3 := bad.flx.foldl (fun st i => st.put (flxStatAligned i) 0) s2
  let s4 := bad.rfi.foldl (fun st i => st.put (rfiStatAligned i) 0) s3
  let s5 := ({ s4 with startSet := [] }.setMode .calibrate).applyTrim
  s5.done t.cmd s5.okDegraded

/-- Leaving DORMANT or SERVICE ends (R29, R34): in SAFE when a cause is latched, in STANDBY otherwise; REJOIN is sent. -/
def State.endReturn (s : State) (t : Trans) : State :=
  if s.safePending then (s.enterPending.rejoin).done t.cmd .ok
  else (({ s with startSet := [] }.disarmAll).mvpIdle.setMode .standby).rejoin.done t.cmd .ok

/-- TRANSITION_END (R29): the transition's actions, its ramps among them, are done. -/
def execTransitionEnd (r : TransResult) (s : State) : Res :=
  match s.power, s.trans with
  | true, some t =>
    if s.stopAt.isSome then .next s
    else match s.mode, t.target with
    | .dormant, _ => .next ((s.wakeWork r).endReturn t)
    | .service, _ => .next (s.endReturn t)
    | .run, _ => .next (s.endRun t)
    | _, .dormant =>
      if r.refreshAbandoned then .next (s.abandon t .busy) else .next ((s.enterDormant).done t.cmd .ok)
    | _, .service =>
      let s1 := ((s.disarmAll).mvpIdle.notifyNeighbours 2).setMode .service
      .next (s1.done t.cmd .ok)
    | _, .calibrate => .next (s.endCalibrate t r)
    | _, .armed =>
      let need := s.needed t.startSet
      let dropped := (s.convertersOn.flx).filter (fun i => !need.flx.contains i)
      .next ((s.advanceTo (s.rampsEnd dropped)).endArm t r)
    | _, _ => .next (((s.advanceTo (s.rampsEnd s.convertersOn.flx)).enterStandby).done t.cmd .ok)
  | _, _ => .next s

end Sys2Proof.Machine
end

