-- ==== Sys2Proof/Machine/Quarry.lean ====
section
/-! DEFINITION. The Quarry's rows (12): outcomes, bench timeouts, decodes, face timeouts, backlog, and the host's writes. -/
namespace Sys2Proof.Machine

/-- One outcome reaches the Quarry (R208): the first case that applies. -/
def State.takeOutcome (s : State) (p : Pub) : State :=
  let b := p.bench
  let a := p.anc
  let st := s.fld qryStatState
  if st = qOffSt ∨ st = qFrozen then s
  else if !s.flag (qryAncEn a) then s.countReg .qryCnt qcIgn
  else if 32768 ≤ s.qOff b then s.countReg .qryCnt qcStale
  else if s.qIsClosed b then s.countReg .qryCnt qcLate
  else if s.qS ≤ s.qOff b then
    let s1 := s.countReg .qryCnt qcDrop
    if st = qHandoff then s1 else s1.handoff 3 0 1 []
  else if (s.qNode b a).present then s.countReg .qryCnt qcDup
  else
    let s1 := (s.countReg .qryCnt qcAcc).setNode b a { m := p.m, conf := p.conf, present := true }
    let first := (s.qClosed + 1 + 65536 - s.qLo) % 65536
    let open_ := (List.range (s.qOff b + 1 - first)).map (fun i => (s.qLo + first + i) % 65536)
    s1.modQry (fun q => { q with opened := open_.foldl (fun o c => if (tabFind o c).isSome then o else tabPut o c s.now) q.opened })

/-- The outcomes that reach the Quarry up to the present tick are taken, each under the table. -/
def State.takeOutcomes (s : State) : State :=
  let due := s.pubs.filter (fun p => p.tick ≤ s.now)
  due.foldl State.takeOutcome { s with pubs := s.pubs.filter (fun p => s.now < p.tick) }

/-- OUTCOME (R208, R209): the earliest outcomes on their way reach the Quarry, and benches close. -/
def execOutcome (s : State) : Res :=
  match s.pubs with
  | [] => .next s
  | p :: ps =>
    let t := ps.foldl (fun m q => min m q.tick) p.tick
    .next ((s.advanceTo t).takeOutcomes.closeNow)

/-- BENCH_TIMEOUT (R209): the next bench to close has been open for BENCH_TMO ticks. -/
def execBenchTimeout (s : State) : Res :=
  let tmo := s.fld qryTmoBenchTmo
  match tabFind s.qry.opened ((s.qClosed + 1) % 65536) with
  | none => .next s
  | some t => if tmo = 0 then .next s else .next (((s.advanceTo (t + tmo)).takeOutcomes).closeNow)

/-- DECODE_END (R215, R216, R218, R219, R222): the decode in progress ends in the present tick, once each face's partner has joined or
counted as late. What the other devices of D hold comes with the row, as the frames of R286 do not carry it whole (DESIGN CHOICE,
log 143). A handoff that a partner announces is every device's. -/
def execDecodeEnd (peers : List QPeer) (s : State) : Res :=
  match s.qry.dec with
  | none => .next s
  | some d =>
    if !(d.faces.all (fun f => d.joined.contains f || d.late.contains f)) then .next s
    else
      let w := s.sidesOf d peers
      let r := s.decode d.hc w.1
      let end_ : QEnd := match s.toldHandoff d with | some c => .handoff c | none => r.1
      let cause := match end_ with | .handoff c => c | .commit _ => 0
      let s1 := r.2.foldl (fun st odd => st.sendGrow d odd) s
      let s2 := d.joined.foldl (fun st f => st.sendSyn f 4 d.hc d.seq (wordFlits (resultWords cause w.2))) s1
      let s3 := s2.forgetFrames d.hc
      match end_ with
      | .commit q => .next (s3.commitDecode d q)
      | .handoff c => .next (s3.handoff c d.hc w.2.length d.joined)

/-- FACE_TIMEOUT (R218): the partner of face f has not joined within FACE_TMO ticks of the local close. -/
def execFaceTimeout (f : Fin 6) (s : State) : Res :=
  match s.qry.dec with
  | none => .next s
  | some d =>
    if !d.faces.contains f.val || d.joined.contains f.val || d.late.contains f.val then .next s
    else
      let s1 := (s.advanceTo (d.start + s.fld qryTmoFaceTmo)).count (qryFaceLateCnt f.val)
      .next (s1.modQry (fun q => { q with dec := some { d with late := d.late ++ [f.val] } }))

/-- BACKLOG (R221): LAG_TICKS reaches BUDGET. -/
def execBacklog (s : State) : Res :=
  match s.qry.uncov with
  | [] => .next s
  | (_, t) :: _ =>
    if s.flag qryStatBacklog then .next s
    else
      let s1 := (s.advanceTo (t + max 1 (s.fld qryBudgetBudget))).raiseBit qryStatBacklog
      .next (((s1.raiseBit qryStatBacklogSeen).sysCue 910).countReg .qryCnt qcBklg)

/-- QRY_RESUME (R223). -/
def execQryResume (v : Word) (s : State) : Res :=
  let upTo := v.bits 15 0
  if !s.alive || !v.bit 31 then .next s
  else if s.fld qryStatState ≠ qHandoff ∨ !s.qIsClosed upTo then .next (s.raiseBit qryStatResumeBad)
  else
    let s1 := (s.cover upTo).dropBenches (s.qOff upTo + 1)
    .next (((s1.put qryStatHcause 0).put qryStatState qReady).startDecode)

/-- QRY_FRAME_XOR (R224). -/
def execQryFrameXor (v : Word) (s : State) : Res :=
  let ok := s.mode == .standby || s.mode == .calibrate || s.mode == .armed
    || (s.mode == .run && s.fld qryStatState == qHandoff)
  if s.alive && ok then .next (s.togglePauli (v.bits 7 0) (BitVec.ofNat 2 (v.bits 9 8))) else .next s

/-- The Quarry register at an offset whose writes R226 governs. -/
def qryReg (off : Nat) : Option Reg :=
  if off = 0 then some ⟨.qryCtrl, 0, 0⟩
  else if off = 4 then some ⟨.qryCfg, 0, 0⟩
  else if off = 0x10 then some ⟨.qryBench0, 0, 0⟩
  else if off = 0x14 then some ⟨.qryTmo, 0, 0⟩
  else if off = 0x18 then some ⟨.qryBudget, 0, 0⟩
  else if 0x100 ≤ off ∧ off < 0x118 ∧ off % 4 = 0 then some ⟨.qryFace, (off - 0x100) / 4, 0⟩
  else if 0x2000 ≤ off ∧ off < 0x4000 ∧ off % 4 = 0 then some ⟨.qryAnc, (off - 0x2000) / 4, 0⟩
  else none

/-- QRY_CONFIG_WRITE (R226): a configuration register or ancilla (offset in QRY), or a word of the seam table (offset in its
window). -/
def execQryConfigWrite (seam : Bool) (off : BitVec 20) (v : Word) (s : State) : Res :=
  if !s.stbyCal then .next s
  else if seam then
    if off.toNat % 4 ≠ 0 then .next s
    else .next ({ s with sram := memSetWord s.sram (seamBase + off.toNat) v }.qryUnpass)
  else match qryReg off.toNat with
  | some r => .next ((s.stageWrite.writeOwn r v).qryUnpass)
  | none => .next s

/-- QRY_CHECK (R226): a write of 1 to CHECK. -/
def execQryCheck (s : State) : Res :=
  if s.stbyCal then .next ((s.put qryCheckChecking 1).modQry (fun q => { q with chk := true })) else .next s

/-- QRY_CHECK_DONE (R226): no write has come since the check began, so it has judged the contents as they stand. -/
def execQryCheckDone (s : State) : Res :=
  if s.qry.chk then
    .next (((s.put qryCheckChecking 0).modQry (fun q => { q with chk := false })).qryJudge (s.qryCheck false))
  else .next s

end Sys2Proof.Machine
end

