-- ==== Sys2Proof/Machine/SegCore.lean ====
section
/-! DEFINITION. Ring openings (R145). Owner o is RF output o, or flux output o - 80. -/
namespace Sys2Proof.Machine

/-- Owner of an output. -/
def OutId.owner : OutId → Nat
  | .rf o => o.val
  | .flx i => 80 + i.val

/-! Rings. -/

/-- Why an OPEN is refused (R145). Several reasons can hold at once and R145 names no order: the mode comes first, then a device
with no group in service, then reasons 1 to 4 in the table's order (DESIGN CHOICE, log 140). -/
def State.openRefused (s : State) (o r : Nat) : Option Nat :=
  let base := s.fld (rfoRingCfgRbase o r)
  let len := s.fld (rfoRingCfgRlen o r)
  let src := s.rd64 .rfoRingSrcLo .rfoRingSrcHi o r % 2 ^ 36
  let n := s.fld (rfoRingSrcLenLen o r)
  let clash := (List.range 4).any (fun k => k != r && s.flag (rfoRingStatOpen o k)
    && decide (base < s.fld (rfoRingCfgRbase o k) + s.fld (rfoRingCfgRlen o k)) && decide (s.fld (rfoRingCfgRbase o k) < base + len))
  if !(s.mode == .standby || s.mode == .calibrate || s.mode == .armed) then some 5
  else if s.fld memStatInService = 0 then some 6
  else if s.fld glbStreamStatLimit ≤ s.fld glbStreamStatOpenCnt then some 1
  else if len < 64 ∨ 8192 < len ∨ 16384 < base + len then some 2
  else if clash then some 3
  else if src % 64 ≠ 0 ∨ n = 0 ∨ !s.regionUsable src (64 * n) then some 4
  else none

end Sys2Proof.Machine
end

