-- ==== Sys2Proof/Machine/Segments.lean ====
section
/-! DEFINITION. Rows of segments and streaming (07): writes of descriptors and libraries, jump requests, rings, and
LOAD_SEGMENTS. -/
namespace Sys2Proof.Machine

/-- DESCRIPTOR_WRITE (R133, R136, R378): one or both words, in one pass of the gate. -/
def execDescriptorWrite (o : OutId) (d : BitVec 11) (w0 : Option Word) (w1 : Option Word) (s : State) : Res :=
  let k := OutId.owner o
  let n := d.toNat
  if !s.alive || (w0.isNone && w1.isNone) then .next s
  else if s.gateDesc k n then .next (s.dropWrite k)
  else .next ((s.passGate k (some n) [] [(descAddr k n, 8)] none).storeDesc k n (w0.getD (s.desc0 k n)) (w1.getD (s.desc1 k n)))

/-- LIBRARY_WRITE (R136, R378): 32-bit writes in ascending order. -/
def execLibraryWrite (off : BitVec 29) (words : List Word) (s : State) : Res :=
  if !s.alive || off.toNat % 4 != 0 then .next s
  else .next (words.zipIdx.foldl (fun st e => st.libWord (off.toNat + 4 * e.2) e.1) s)

/-- JREQ (R139): registered at once, which lies within the 64 ticks. A drive output has no slots 4 to 15. -/
def execJreq (t : JumpTarget) (s : State) : Res :=
  if !s.alive then .next s
  else match t with
  | .slot o k => if k.val < nSlots o.val then .next (s.jumpRequest o.val k.val s.now) else .next s
  | .flx i => .next (s.jumpRequest (80 + i.val) 0 s.now)

/-- RING_OPEN (R145, R146). An OPEN of an open ring records its refusal in a mode that does not take it, and leaves the ring open;
elsewhere it finds the ring as it is to be (R145 is silent: DESIGN CHOICE, log 140). -/
def execRingOpen (o : Fin 80) (r : Fin 4) (s : State) : Res :=
  let why := s.openRefused o.val r.val
  if !s.alive || (s.flag (rfoRingStatOpen o.val r.val) && why != some 5) then .next s
  else match why with
  | some why => .next ((s.raiseBit (rfoRingStatRefused o.val r.val)).put (rfoRingStatReason o.val r.val) why)
  | none =>
    let s1 := (s.raiseBit (rfoRingStatOpen o.val r.val)).put (rfoRingStatPrimed o.val r.val) 0
    .next (((s1.put glbStreamStatOpenCnt (s.fld glbStreamStatOpenCnt + 1)).setLimit).setRing o.val r.val {})

/-- RING_CLOSE (R145). -/
def execRingClose (o : Fin 80) (r : Fin 4) (s : State) : Res :=
  let ok := s.mode == .standby || s.mode == .calibrate || s.mode == .armed || s.mode == .safe || s.mode == .service
  if !s.power || !ok || !s.flag (rfoRingStatOpen o.val r.val) then .next s
  else
    let s1 := (s.put (rfoRingStatOpen o.val r.val) 0).put (rfoRingStatPrimed o.val r.val) 0
    let s2 := (s1.put glbStreamStatOpenCnt (s.fld glbStreamStatOpenCnt - 1)).setLimit
    .next { s2 with rings := tabDel s2.rings (ringKey o.val r.val) }

/-- RING_REFILL (R144, R146, R147, R325): the next granule is fetched into its slot when that slot is free; a line lost or in
error delivers a missing granule. -/
def execRingRefill (o : Fin 80) (r : Fin 4) (s : State) : Res :=
  let g := s.ring o.val r.val
  let len := s.fld (rfoRingCfgRlen o.val r.val)
  if !s.alive || !s.flag (rfoRingStatOpen o.val r.val) || g.stopped || s.mode == .safe
      || g.present.any (fun x => x % len == g.next % len) then .next s
  else
    let n := max 1 (s.fld (rfoRingSrcLenLen o.val r.val))
    let a := s.rd64 .rfoRingSrcLo .rfoRingSrcHi o.val r.val % 2 ^ 36 + 64 * (g.next % n)
    let good := s.bulkUsable a 64 && s.notPoisoned a 64
    let dst := libAddr o.val + 64 * (s.fld (rfoRingCfgRbase o.val r.val) + g.next % len)
    let s1 := if good then { s with sram := memSetWords s.sram dst (s.bulkWords a 16) } else s.countLost a 64
    let here := if good then g.present ++ [g.next] else g.present
    let full := g.primed || decide (len ≤ here.length)
    .next ((s1.setRing o.val r.val { g with next := g.next + 1, present := here, primed := full }).put
      (rfoRingStatPrimed o.val r.val) (b2n full))

/-- SHOT_INVAL_CLEAR (R152). -/
def execShotInvalClear (s : State) : Res := if s.power then .next s.clearShot else .next s

/-! LOAD_SEGMENTS. -/

/-- Granules that words fill: 16 words of samples each. -/
def granules (n : Nat) : Nat := (n + 15) / 16

/-- An entry of a segment image passes its checks (R132, R138). -/
def SegEntry.ok (x : SegEntry) (o : Nat) : Bool :=
  (!dValid x.word0 || descOk o x.word0 x.word1) && decide (dStart x.word0 + granules x.samples.length ≤ nGran o)
    && (if o < 80 then decide (dStart x.word0 + x.markers.length ≤ nGran o) else x.markers.isEmpty)

/-- An entry is written whole, or dropped whole (R138). The state and the descriptors written. -/
def State.loadEntry (tag : BitVec 16) (o : Nat) (r : State × List Nat) (x : SegEntry) : State × List Nat :=
  let s := r.1
  let g := dStart x.word0
  if s.gateDesc o x.desc.toNat || (!x.samples.isEmpty && s.gateGran o g (granules x.samples.length))
      || (!x.markers.isEmpty && s.gateGran o g x.markers.length) then (s.dropWrite o, r.2)
  else
    let m1 := memSetWords s.sram (libAddr o + 64 * g) x.samples
    let m2 := if x.markers.isEmpty then m1 else memSetWords m1 (markAddr o + 4 * g) x.markers
    let k := granules x.samples.length
    let gran := (if x.samples.isEmpty then [] else [(g, g + k)]) ++ (if x.markers.isEmpty then [] else [(g, g + x.markers.length)])
    let p := s.passGate o (some x.desc.toNat) gran [(descAddr o x.desc.toNat, 8), (libAddr o + 64 * g, 4 * x.samples.length),
      (markAddr o + 4 * g, 4 * x.markers.length)] (some tag)
    ({ p with sram := m2 }.storeDesc o x.desc.toNat x.word0 x.word1, r.2 ++ [x.desc.toNat])

/-- An image's first lines can be read (R302, R325). -/
def State.imageAt (s : State) (a : Nat) : Bool := s.bulkUsable a 64 && s.notPoisoned a 64

/-- LOAD_SEGMENTS (R138, R340): the entries are written at once; the completion follows in the background. -/
def execLoadSegments (c : Cmd) (img : List SegEntry) (s : State) : Res :=
  let o := (c.w 1).bits 8 0
  s.admin 0x21 c (Cmd.only c [(1, 0x1FF), (2, wordMask), (3, wordMask)] && o < 336) (fun t =>
    if !t.imageAt (c.w64 2) then (t.countLost (c.w64 2) 64).complete c.tag 0x21 .fault
    else if !img.all (fun x => SegEntry.ok x o) then t.complete c.tag 0x21 .format
    else
      let r := img.foldl (State.loadEntry c.tag o) (t, [])
      { r.1 with bg := r.1.bg ++ [⟨c.tag, 0x21, .loadSegments o r.2 (img.length - r.2.length)⟩] })

end Sys2Proof.Machine
end

