-- ==== Sys2Proof/Machine/Loads.lean ====
section
/-! DEFINITION. The loads: engine images (R73), Quarry images (R226) and open-store images (R271), with what their ends in the
background do; and engine sparing (R364, R365). -/
namespace Sys2Proof

/-- An engine image passes the checks of R73. -/
def EngineImage.ok (i : EngineImage) (c : EngClass) : Bool :=
  i.idOk && i.cls == c && (i.level == 1 || i.level == 2) && decide (i.code.length ≤ 16384) && decide (i.x.length ≤ 4096)
    && (if c == .me then decide (i.y.length ≤ 4096) else i.y.isEmpty) && decide (i.entry < i.code.length)

end Sys2Proof

namespace Sys2Proof.Machine

/-! LOAD_ENGINES. -/

/-- Writing of an engine's image begins (R72): its previous image is invalid. -/
def State.unload (s : State) (e : Nat) : State := s.modEng e (fun g => { g with state := .unloaded, img := none })

/-- LOAD_ENGINES (R73, R24, R340). -/
def execLoadEngines (c : Cmd) (img : List EngineImage) (s : State) : Res :=
  s.admin 0x20 c (Cmd.only c [(1, wordMask), (2, wordMask)]) (fun t =>
    let good := img.filter (fun i => EngineImage.ok i (clsOf i.engine.val))
    let bad := good.length != img.length
    if !t.imageAt (c.w64 1) then (t.countLost (c.w64 1) 64).complete c.tag 0x20 .fault
    else if t.startAt.isSome && img.any (fun i => t.startSet.contains i.engine.val) then t.complete c.tag 0x20 .busy
    else if good.isEmpty && bad then t.complete c.tag 0x20 .format
    else
      let t1 := good.foldl (fun st i => st.unload i.engine.val) t
      { t1 with bg := t1.bg ++ [⟨c.tag, 0x20, .loadEngines good bad⟩] })

/-- The words of an instruction part, each 64-bit word low half first (R57, R382). -/
def codeWords (ws : List (BitVec 64)) : List Word := ws.flatMap (fun w => words64 w.toNat)

/-- An image fills the engine's memories, with 0 beyond its parts, and the engine is IDLE, or HELD at its entry in ARMED (R72,
R73). -/
def State.writeImage (s : State) (i : EngineImage) : State :=
  let e := i.engine.val
  let p := s.phys e
  let b := engBase p
  let m := memSetWords (memClear s.sram b (b + 0x28000)) b (codeWords i.code)
  let m1 := memSetWords (memSetWords m (dataBase p false) i.x) (dataBase p true) i.y
  let im : EngImg := ⟨i.level, i.entry, i.base1, i.winOff, i.winLen⟩
  let hold := s.mode == .armed && s.startSet.contains e
  ({ s with sram := m1 }.clearUpsets b 0x28000).modEng e (fun g =>
    if hold then { g with img := some im, state := .held, pc := i.entry, lsr := 0, lateCnt := 0 }
    else { g with img := some im, state := .idle })

/-! CONFIG_QUARRY. -/

/-- CONFIG_QUARRY (R226, R225): REASON 8 first, then the check on the contents as the image would leave them. -/
def execConfigQuarry (c : Cmd) (img : CfgImage) (s : State) : Res :=
  s.admin 0x23 c (Cmd.only c [(1, wordMask), (2, wordMask)]) (fun t =>
    let regs := img.regs.map (fun e => (qryReg e.1, e.2))
    if !t.imageAt (c.w64 1) then (t.countLost (c.w64 1) 64).complete c.tag 0x23 .fault
    else if !img.wellFormed || regs.any (fun e => e.1.isNone) || img.seams.any (fun x => 131072 ≤ x.1) then
      t.complete c.tag 0x23 .format (checkDetail 8 0)
    else
      let rs := regs.filterMap (fun e => e.1.map (fun r => (r, e.2)))
      let t1 := rs.foldl (fun st e => st.writeOwn e.1 e.2) t
      let m := img.seams.foldl (fun m x => memSetWords m (seamBase + 8 * x.1) [x.2.1, x.2.2]) t1.sram
      let t2 := { t1 with sram := m }
      match t2.qryCheck (rs.any (fun e => reservedSet e.1.k e.2)) with
      | some (why, item) => t.complete c.tag 0x23 .format (checkDetail why item)
      | none =>
        let t3 := t2.qryUnpass.qryJudge none
        (if t.mode = .armed then t3.qryReset else t3).complete c.tag 0x23 .ok)

/-! UCS_LOAD_OPEN. -/

/-- How a micro-operation uses a microword (R265): X, Y and the bits of Z that it names. -/
structure MopForm where
  x : Bool
  y : Bool
  z : Nat
  deriving DecidableEq, Repr

/-- The kinds of UDEP valid for a class, and their forms (R265). -/
def udepForm (c : EngClass) (kind : Nat) : Option MopForm :=
  let te := c == .te
  match kind with
  | 0 => some ⟨true, false, 0xFFF⟩
  | 1 => some ⟨true, false, 0xF⟩
  | 2 => if te then some ⟨true, true, 0xF⟩ else none
  | 3 => if te then some ⟨true, false, 0xF⟩ else none
  | 4 => if te then some ⟨true, false, 0xF⟩ else none
  | 5 => some ⟨true, false, 0xF⟩
  | 6 => if te then some ⟨false, false, 0x7F⟩ else none
  | 7 => some ⟨true, false, 0xF⟩
  | 8 => some ⟨true, true, 0xF⟩
  | 9 => if te then none else some ⟨true, false, 0xF⟩
  | 10 => some ⟨true, true, 0x1FF⟩
  | _ => none

/-- The form of a microword, if its micro-operation is valid for the class (R265). -/
def mopForm (c : EngClass) (w : Word) : Option MopForm :=
  let me := c == .me
  let onMe (f : MopForm) : Option MopForm := if me then some f else none
  match uMop w with
  | 0x00 | 0x01 | 0x05 => some ⟨false, false, 0⟩
  | 0x02 => some ⟨false, false, 0x7FF⟩
  | 0x03 | 0x04 => some ⟨true, false, 0x7FF⟩
  | 0x06 => some ⟨true, true, 0x3FF⟩
  | 0x07 => some ⟨true, false, 0⟩
  | 0x14 | 0x15 => some ⟨true, false, 7⟩
  | 0x16 => some ⟨true, true, if me then 0x1FFF else 0xFFF⟩
  | 0x17 => some ⟨true, true, 0xFFF⟩
  | 0x18 | 0x19 | 0x1A | 0x1B | 0x1C => some ⟨true, true, 0⟩
  | 0x1D => some ⟨true, false, 0⟩
  | 0x1E => some ⟨false, false, 0xFF⟩
  | 0x20 => if me then none else udepForm c (uZ w 3 0)
  | 0x28 => onMe ⟨true, false, 1⟩
  | 0x29 => onMe ⟨true, false, 0x3F⟩
  | 0x2A => onMe ⟨false, false, 0⟩
  | 0x2B => onMe ⟨true, false, 0x7F⟩
  | 0x2C => onMe ⟨true, true, 7⟩
  | 0x2D => onMe ⟨true, true, 0x1FFF⟩
  | 0x2E | 0x2F | 0x30 => onMe ⟨true, true, 0⟩
  | 0x31 => onMe ⟨true, false, 0xF⟩
  | m => if 0x08 ≤ m ∧ m ≤ 0x13 then some ⟨true, true, if uZ w 13 13 = 1 then 0x3FFF else 0x3F⟩ else none

/-- A register specifier that R264 does not reserve. -/
def specOk (x : Nat) : Bool := decide (x < 44)

/-- A microword passes REASON 3 of R271. -/
def mopOk (c : EngClass) (w : Word) : Bool :=
  match mopForm c w with
  | none => false
  | some f =>
    let alu := decide (0x08 ≤ uMop w) && decide (uMop w ≤ 0x13)
    (if f.x then specOk (uX w) else uX w == 0) && (if f.y then specOk (uY w) else uY w == 0) && within (uZ w 13 0) f.z
      && (!alu || uZ w 13 13 == 1 || specOk (uZ w 5 0))
      && (uMop w != 0x31 || (decide (uX w < 32) && decide (uX w + uZ w 2 0 ≤ 31)) || (decide (40 ≤ uX w) && decide (uX w < 43)))

/-- Wait-capable micro-operations (R265). -/
def waitCapable (m : Nat) : Bool := [0x06, 0x07, 0x20, 0x28, 0x29, 0x2A, 0x2B, 0x31].contains m

/-- A jump, taken always or on a condition. -/
def isJump (m : Nat) : Bool := m == 2 || m == 3 || m == 4

/-- Positions of a routine of `len` microwords from `start` that follow position k, when one does (R265). A position `len` lies
past the routine. -/
def microNext (ws : List Word) (start : Nat) (k : Nat) : List Nat :=
  let w := ws.getD (start + k) 0
  match uMop w with
  | 5 => []
  | 2 => [uZ w 10 0]
  | 3 | 4 => [k + 1, uZ w 10 0]
  | _ => [k + 1]

/-- Positions that a routine can reach: a worklist of those not yet followed, and those found. -/
def microReach (ws : List Word) (start len : Nat) : Nat → List Nat → List Nat → List Nat
  | 0, _, done => done
  | _, [], done => done
  | n + 1, k :: ks, done =>
    if done.contains k then microReach ws start len n ks done
    else if len ≤ k then microReach ws start len n ks (done ++ [k])
    else microReach ws start len n (microNext ws start k ++ ks) (done ++ [k])

/-- The least of two optional items. -/
def least (a b : Option Nat) : Option Nat :=
  match a, b with
  | some x, some y => some (min x y)
  | none, b => b
  | a, none => a

/-- REASON 4 of R271 for one routine: the lowest microword whose jump leaves the routine, or from which a path runs past it. -/
def microLeaves (ws : List Word) (start len : Nat) : Option Nat :=
  let jumps := (List.range len).filter (fun k =>
    let w := ws.getD (start + k) 0
    isJump (uMop w) && decide (len ≤ uZ w 10 0))
  let reach := microReach ws start len (4 * len + 4) [0] []
  let falls := (List.range len).filter (fun k => reach.contains k && (microNext ws start k).any (fun j => len ≤ j))
  if len = 0 then some start else (least jumps.head? falls.head?).map (start + ·)

/-- One step of every path that has met neither SAFE nor UEND (R267). -/
def microStep (ws : List Word) (start : Nat) (ks : List Nat) : List Nat :=
  ascending (ks.flatMap (fun k =>
    let m := uMop (ws.getD (start + k) 0)
    if m = 1 ∨ m = 5 then [] else microNext ws start k))

/-- Positions in which paths from a safe point stand after `n` microwords that end none of them. -/
def microAfter (ws : List Word) (start : Nat) : Nat → List Nat → List Nat
  | 0, ks => ks
  | n + 1, ks => microAfter ws start n (microStep ws start ks)

/-- REASON 5 of R271 for one routine: paths from its entry and from each SAFE that need a 33rd microword. -/
def microLong (ws : List Word) (start len : Nat) : Option Nat :=
  let safes := (List.range len).filter (fun k => uMop (ws.getD (start + k) 0) == 1)
  let begins := [0] :: safes.map (fun k => [k + 1])
  (begins.filterMap (fun ks => (microAfter ws start 32 ks).head?)).foldl (fun a k => least a (some (start + k))) none

/-- REASON 6 of R271 for one routine: a wait-capable micro-operation that something other than SAFE precedes. -/
def microUnsafe (ws : List Word) (start len : Nat) : Option Nat :=
  let targets := (List.range len).filterMap (fun k =>
    let w := ws.getD (start + k) 0
    if isJump (uMop w) then some (uZ w 10 0) else none)
  ((List.range len).find? (fun k =>
    waitCapable (uMop (ws.getD (start + k) 0))
      && (k == 0 || uMop (ws.getD (start + k - 1) 0) != 1 || targets.contains k))).map (start + ·)

/-- The lowest item that a check finds among the routines. -/
def lowestOf (dir : Tab (Nat × Nat)) (f : Nat → Nat → Option Nat) : Option Nat :=
  dir.foldl (fun a e => least a (f e.2.1 e.2.2)) none

/-- The check of R271: REASON and ITEM of the first failure. -/
def ucsCheck (c : EngClass) (img : UcsImage) (dir : Tab (Nat × Nat)) : Option (Nat × Nat) :=
  let ws := img.words
  let clash (e f : Nat × Nat × Nat) : Bool :=
    decide (f.1 < e.1) && decide (e.2.1 < f.2.1 + f.2.2) && decide (f.2.1 < e.2.1 + e.2.2)
  if !img.headerOk then some (1, 0)
  else if 2048 < ws.length then some (2, 0)
  else match dir.find? (fun e => decide (ws.length < e.2.1 + e.2.2) || dir.any (fun f => clash e f)) with
  | some e => some (2, e.1)
  | none => match ws.findIdx? (fun w => !mopOk c w) with
  | some k => some (3, k)
  | none => match lowestOf dir (microLeaves ws) with
  | some k => some (4, k)
  | none => match lowestOf dir (microLong ws) with
  | some k => some (5, k)
  | none => (lowestOf dir (microUnsafe ws)).map (fun k => (6, k))

/-- The directory of an image by routine number. -/
def UcsImage.table (img : UcsImage) : Tab (Nat × Nat) := img.dir.foldl (fun t e => tabPut t (e.1 % 256) e.2) []

/-- The class a UCS_LOAD_OPEN names. -/
def classOf (n : Nat) : Option EngClass := if n = 0 then some .te else if n = 1 then some .fe else if n = 2 then some .me else none

/-- UCS_LOAD_OPEN (R271, R340): a failure of the check is reported and writes nothing. -/
def execUcsLoadOpen (c : Cmd) (img : UcsImage) (s : State) : Res :=
  let cls := classOf ((c.w 1).bits 1 0)
  s.admin 0x62 c (Cmd.only c [(1, 3), (2, wordMask), (3, wordMask)] && cls.isSome) (fun t =>
    let k := cls.getD .te
    if !t.imageAt (c.w64 2) then (t.countLost (c.w64 2) 64).complete c.tag 0x62 .fault
    else match ucsCheck k img (UcsImage.table img) with
    | some (why, item) =>
      let t1 := ((t.put ucsLoadStatReason why).put ucsLoadStatClass (clsCode k)).put ucsLoadStatItem item
      t1.complete c.tag 0x62 .format (checkDetail why item)
    | none => { t with bg := t.bg ++ [⟨c.tag, 0x62, .loadOpen k img⟩] })

/-- The open store of a class is empty (R271). -/
def State.clearOpen (s : State) (c : EngClass) : State :=
  let m := memClear (memClear s.sram (ucsStore c) (ucsStore c + 0x2000)) (ucsDir c) (ucsDir c + 0x400)
  { s with sram := m }.wr .ucsOpenVer 0 (clsCode c)

/-- A directory word: VALID, length and start (R382). -/
def dirWord (start len : Nat) : Nat := 2 ^ 31 + len % 4096 * 2 ^ 16 + start % 2048

/-- An open-store image replaces the store, the directory, the version and the digest of its class (R271). -/
def State.writeOpen (s : State) (c : EngClass) (img : UcsImage) : State :=
  let dir := UcsImage.table img
  let s1 := s.clearOpen c
  let m := memSetWords s1.sram (ucsStore c) img.words
  let m1 := dir.foldl (fun m e => memSetWord m (ucsDir c + 4 * e.1) (BitVec.ofNat 32 (dirWord e.2.1 e.2.2))) m
  let ver := 2 ^ 31 + img.words.length * 2 ^ 16 + img.version.toNat
  let dig := sha384 (Config.openImage (BitVec.ofNat 32 (clsCode c * 2 ^ 16 + img.version.toNat) :: (img.words
    ++ dir.map (fun e => BitVec.ofNat 32 (dirWord e.2.1 e.2.2)))))
  (List.range 12).foldl (fun st w => st.wr .ucsOpenDig (natBE ((dig.drop (4 * w)).take 4).reverse) (clsCode c) w)
    (({ s1 with sram := m1 }.clearUpsets (ucsStore c) 0x2000).wr .ucsOpenVer ver (clsCode c))

/-! SPARE_ENGINE. -/

/-- First physical number and count of a class's spares (R364). -/
def sparesOf (c : EngClass) : Nat × Nat := match c with | .te => (1024, 32) | .fe => (1056, 16) | .me => (1072, 16)

/-- A physical engine is retired (SVC_RETIREDw). -/
def State.isRetired (s : State) (p : Nat) : Bool := (s.rd .svcRetired (p / 32)).bit (p % 32)

/-- A spare that serves no logical engine and is not retired. -/
def State.engSpareFree (s : State) (p : Nat) : Bool := (s.spareUser p).isNone && !s.isRetired p

/-- The field of SVC_SPARE_STAT that counts a class's free spares. -/
def spareCount (c : EngClass) : Fld := match c with | .te => svcSpareStatTeFree | .fe => svcSpareStatFeFree | .me => svcSpareStatMeFree

/-- Logical engine n moves to spare p (R365): the physical engine it leaves is retired, and n is UNLOADED. -/
def State.spareTo (s : State) (n p : Nat) : State :=
  let old := s.phys n
  let w := s.rd .svcRetired (old / 32) ||| BitVec.ofNat 32 (2 ^ (old % 32))
  let s1 := s.setReg ⟨.svcRetired, old / 32, 0⟩ w
  let s2 := { s1 with engMap := tabPut s1.engMap n p, engs := tabPut (tabDel s1.engs old) p {} }
  let f := spareCount (clsOf n)
  (s2.put f (s2.fld f - 1)).logEntry 0x40 2 n (BitVec.ofNat 32 old)

/-- SPARE_ENGINE (R364, R365). -/
def execSpareEngine (c : Cmd) (s : State) : Res :=
  let n := (c.w 1).bits 9 0
  let want := (c.w 2).bits 10 0
  let sp := sparesOf (clsOf n)
  s.admin 0x50 c (Cmd.only c [(1, 0x3FF), (2, 0x7FF)]) (fun t =>
    let free := ((List.range sp.2).map (sp.1 + ·)).filter t.engSpareFree
    if want ≠ 0 ∧ ¬(sp.1 ≤ want ∧ want < sp.1 + sp.2) then t.complete c.tag 0x50 .range
    else if want ≠ 0 && !t.engSpareFree want || t.loadingAny [n] then t.complete c.tag 0x50 .busy
    else match (if want = 0 then free.head? else some want) with
    | none => t.complete c.tag 0x50 .absent
    | some p => (t.spareTo n p).complete c.tag 0x50 .ok 0 [BitVec.ofNat 32 p])

end Sys2Proof.Machine
end

