-- ==== Sys2Proof/Machine/FlashCore.lean ====
section
/-! DEFINITION. The serial flash (R344 to R350, R272): which image copies are good, patch loading, and the replay of the
settings journal. -/
namespace Sys2Proof.Machine

/-- A copy of a kind: KIND 1 Ghenov, 2 patch; `true` names copy B. -/
def Flash.copy (f : Flash) (kind : Nat) (b : Bool) : FlashCopy :=
  if kind = 1 then (if b then f.ghB else f.ghA) else if b then f.paB else f.paA

/-- Replace a copy. -/
def Flash.setCopy (f : Flash) (kind : Nat) (b : Bool) (c : FlashCopy) : Flash :=
  if kind = 1 then (if b then { f with ghB := c } else { f with ghA := c })
  else if b then { f with paB := c } else { f with paA := c }

/-- The directory copy that governs: the valid one of the higher generation (R347). -/
def Flash.governsA (f : Flash) : Bool := f.dirA.valid && (!f.dirB.valid || decide (f.dirB.gen ≤ f.dirA.gen))
def Flash.dir (f : Flash) : Directory := if f.governsA then f.dirA else f.dirB

/-- The ACTIVE bits (R347). -/
def Flash.actGh (f : Flash) : Bool := f.dir.gh
def Flash.actPa (f : Flash) : Bool := f.dir.pa
def Flash.active (f : Flash) (kind : Nat) : Bool := if kind = 1 then f.actGh else f.actPa

/-- The ACTIVE bit of a kind flips in a new directory generation, in the copy that did not govern (R349). -/
def Flash.flip (f : Flash) (kind : Nat) : Flash :=
  let d := f.dir
  let n : Directory := { valid := true, gen := d.gen + 1, gh := if kind = 1 then !d.gh else d.gh, pa := if kind = 1 then d.pa else !d.pa }
  if f.governsA then { f with dirB := n } else { f with dirA := n }

/-- The fused minimum SVN of a kind. -/
def Flash.minSvn (f : Flash) (kind : Nat) : Nat := if kind = 1 then f.minGh else f.minPa

/-- A copy passes its checks (R344, R272). -/
def Flash.good (f : Flash) (kind : Nat) (b : Bool) : Bool :=
  let c := f.copy kind b
  c.valid && c.format && c.sig && (kind == 1 || c.tag) && decide (f.minSvn kind ≤ c.svn)

/-- GLB_IMG_STAT and the fused minimum that UCS_PATCH_SVN shows. -/
def State.showImages (s : State) : State :=
  let f := s.flash
  let v (k : Nat) : Nat := b2n (f.good k false) + 2 * b2n (f.good k true) + 4 * b2n (f.active k)
  ((s.put glbImgStatGhenov (v 1)).put glbImgStatPatch (v 2)).put ucsPatchSvnMin f.minPa

/-- Why a patch copy does not load (UCS_PATCH_STAT): 0 it does, 1 absent, 2 format or class, 3 signature, 4 tag, 5 SVN below the
minimum. -/
def Flash.patchCause (f : Flash) (b : Bool) : Nat :=
  let c := f.copy 2 b
  if !c.valid then 1 else if !c.format then 2 else if !c.sig then 3 else if !c.tag then 4
  else if c.svn < f.minSvn 2 then 5 else 0

/-- A microword of a class's patch RAM, 0 to 1,023 (R261): 0 while no patch is loaded. -/
def State.patchWord (s : State) (c i : Nat) : Word :=
  match s.patchRam with | some p => Config.patchWord p.1 p.2 c i | none => 0

/-- The micro-address at which a native opcode of a class begins (R261): a redirect entry takes precedence over the ROM's dispatch
table. -/
def State.dispatchTo (s : State) (c op : Nat) : Nat :=
  match s.patchRam.bind (fun p => Config.patchRedirect p.1 p.2 c op) with
  | some i => 0x2000 + i % 1024
  | none => Config.romDispatch c op % 8192

/-- Patch RAM and the redirect tables are loaded from the active copy, or from the other (R272, R347): a fallback is logged, and so
is the failure of both, which leaves the ROM alone. -/
def State.loadPatch (s : State) : State :=
  let f := s.flash
  let act := f.actPa
  let c1 := f.patchCause act
  let c2 := if c1 = 0 then 0 else f.patchCause (!act)
  let cause (b : Bool) : Nat := if b = act then c1 else c2
  let s1 := (s.put ucsPatchStatCauseA (cause false)).put ucsPatchStatCauseB (cause true)
  let load (st : State) (b : Bool) : State :=
    let c := f.copy 2 b
    let st1 := { st with patchRam := some (c.version, c.svn) }.clearUpsets (patchBase .te) (3 * 4096)
    ((st1.put ucsPatchStatState (if b then 2 else 1)).wr .ucsPatchVer c.version.toNat).put ucsPatchSvnSvn c.svn
  let s2 := if c1 = 0 then load s1 act else if c2 = 0 then load s1 (!act)
    else (({ s1 with patchRam := none }.put ucsPatchStatState 0).wr .ucsPatchVer 0).put ucsPatchSvnSvn 0
  if c1 = 0 then s2 else s2.logEntry 0x00 2 0 (s2.rd .glbImgStat)

/-- One record's setting is written to its registers and committed (R350). -/
def State.replay (s : State) (r : JRec) : State :=
  match r with
  | .key k kid => ({ s with linkCfg := { s.linkCfg with key := k, keySet := true, kid := kid } }.put lnkKeyIdSet 1).put lnkKeyIdKid kid
  | .links nx ny nz v1 auth en =>
    let s1 := { s with linkCfg := { s.linkCfg with nx := nx, ny := ny, nz := nz, v1 := v1, authReq := auth, en := en } }
    let s2 := ((s1.put lnkCfgNxM1 (nx - 1)).put lnkCfgNyM1 (ny - 1)).put lnkCfgNzM1 (nz - 1)
    let s3 := (s2.put lnkCfgV1Ok (b2n v1)).put lnkCfgAuthReq (b2n auth)
    (List.range 6).foldl (fun st l => st.put (lnkCtrlEn l) (b2n (en.getLsbD l))) s3
  | .thr z a b => (s.setReg ⟨.hkpThrA, z, 0⟩ a).setReg ⟨.hkpThrB, z, 0⟩ b

/-- The region that replay chooses: the one whose first record has the higher sequence number (R350). -/
def Flash.replayed (f : Flash) : Bool :=
  match f.jA.recs.head?, f.jB.recs.head? with
  | some a, some b => decide (a.1 < b.1)
  | none, some _ => true
  | _, none => false

/-- The journal is replayed at stage 5 of BOOT (R350): no valid region leaves the defaults, and a torn record stops it. -/
def State.replayJournal (s0 : State) : State :=
  let s := { s0 with flash := { s0.flash with region := s0.flash.replayed } }
  let f := s.flash
  let s1 := f.recs.foldl State.replay s
  let s2 := s1.put glbPersistRegion (b2n f.region)
  let s3 := if f.torn then s2.raiseBit glbPersistJrnlTorn else s2
  if f.recs.isEmpty then s3.raiseBit glbPersistJrnlErr else s3

/-- Links whose ring has one device or that are not enabled are DISABLED, and every other link that does not run is DOWN (R275,
R279). -/
def State.idleLink (s : State) (l : Nat) : State :=
  s.setLink l (if !s.linkCfg.en.getLsbD l || s.neighbour l == s.ownId then lsDisabled else lsDown)

end Sys2Proof.Machine
end

