-- ==== Sys2Proof/Machine/Power.lean ====
section
/-! DEFINITION. Power, reset and BOOT (R14, R15, R29, R345, R380, R388, R390). -/
namespace Sys2Proof.Machine

/-- Registers that a device reset keeps: the straps (R274), the error log's counters (R374) and HKP_TRIP (R359). -/
def keptByReset (k : RegK) : Bool := k == .lnkId || k == .svcLogNext || k == .svcLogStat || k == .hkpTrip

/-- A device reset (R29, R380, R388): every register takes its reset value but those kept, memories are lost but the error log
and the flash, and BOOT begins. The queue of commands is the model's own. -/
def State.deviceReset (s : State) : State :=
  { State.reset with
    pending := s.pending
    free := s.free
    half := s.half
    regs := s.regs.filter (fun e => keptByReset e.1.k)
    sram := s.sram.filter (fun c => logBase ≤ c.1 && c.1 < logBase + 32 * 4096)
    flash := { s.flash with todo := [] } }

/-- Power-on (R390, R274, R374): the straps are sampled; the error log and HKP_TRIP are clear. -/
def State.coldStart (s : State) (id : Nat) : State :=
  { State.reset with pending := s.pending, free := s.free, half := s.half, flash := { s.flash with todo := [] } }.put lnkIdId id

/-- The rails do not come up: their enables are low and FAULT_N is low (R390); once more after 100 ms, or not at all. -/
def State.railsDown (s : State) (again : Bool) : State := { s with power := false, railWait := again }

/-- FAULT_N is low: a CRIT trip, or a power sequence that failed (R388). -/
def State.faultLow (s : State) : Bool := s.board && (s.tripped || !s.power)

/-- RAIL_EN r (R390, R391). -/
def State.railEn (s : State) (r : Nat) : Bool := s.power && decide (r < 16) && !(s.mode == .dormant && decide (r < 12))

/-- A device reset lowers the rails and raises them again (R390). -/
def State.resetRails (s : State) (railsOk : Bool) : State := if railsOk then s.deviceReset else s.deviceReset.railsDown true

/-- GLB_RESET (R380): the key is 0x0000_5A5A; another value is ignored. -/
def execGlbReset (key : Word) (railsOk : Bool) (s : State) : Res :=
  if s.power && key == 0x5A5A then .next (s.resetRails railsOk) else .next s

/-- RESET_N (R388): also the way out of a CRIT trip and of a failed power sequence (R359, R390). -/
def execResetN (railsOk : Bool) (s : State) : Res := if s.board then .next (s.resetRails railsOk) else .next s

/-- POWER_ON (R274, R390): the board gives power. -/
def execPowerOn (straps : BitVec 9) (railsOk : Bool) (s : State) : Res :=
  if s.board then .next s
  else
    let s1 := s.coldStart straps.toNat
    .next (if railsOk then s1 else s1.railsDown true)

/-- RAIL_RETRY (R390). -/
def execRailRetry (railsOk : Bool) (s : State) : Res :=
  if !s.board || !s.railWait then .next s
  else if railsOk then .next { s with power := true, railWait := false }
  else .next (s.railsDown false)

/-- POWER_OFF (R390): everything but the flash and the fuses is lost. -/
def execPowerOff (s : State) : Res :=
  .next { State.reset with pending := s.pending, free := s.free, half := s.half, flash := { s.flash with todo := [] }, board := false, power := false, flashRail := false }

/-! BOOT. -/

/-- BOOT fails at a stage with a cause (R14, R345). -/
def State.failBoot (s : State) (stage cause caller : Nat) : State :=
  { ((s.put glbBootStatStage stage).put glbBootStatFail cause).put glbCallerStatState caller with bootFailed := true }

/-- Discovery accepts a part (R348): revision B of JESD216 is minor revision 6 (PRESUMED, log 22). -/
def FlashPart.accepted (p : FlashPart) : Bool :=
  p.sfdp && decide (6 ≤ p.rev) && decide (16 ≤ p.dwords) && decide (256 ≤ p.mbit) && decide (p.mbit ≤ 2048) && (p.table4 || p.enter4)

/-- Flash parameters found at stage 2 (R348): 4-byte instructions where the part has them, and its best read mode. -/
def State.showFlash (s : State) (p : FlashPart) : State :=
  let dens := if p.mbit < 512 then 0 else if p.mbit < 1024 then 1 else if p.mbit < 2048 then 2 else 3
  let s1 := (s.put glbFlashInfoDens dens).put glbFlashInfoAddr (b2n (!p.table4))
  (s1.put glbFlashInfoRead (if p.read144 then 2 else if p.read114 then 1 else 0)).put glbFlashInfoRev (p.rev % 256)

/-- Stage 4: patch RAM, and the references (R272, R44): the PLL locks to the preferred one or runs free. -/
def State.bootClock (s : State) (refA refB : Bool) : State :=
  let s1 := (s.loadPatch.put clkRefStatRefaValid (b2n refA)).put clkRefStatRefbValid (b2n refB)
  let s2 := { s1 with refCntA := if refA then 10 else 0, refCntB := if refB then 10 else 0 }
  match s2.eligible false with
  | some b => s2.lockTo b
  | none => s2

/-- Stages 6 to 8 with every crossing centred, and entry to STANDBY with TT at 0 (R14, R35, R39, R323). A link that is enabled and
has a signal has begun to train when BOOT ends (R279, R295). -/
def State.bootEnd (s : State) (sweeps : List Sweep) (signal : BitVec 6 := 0) : State :=
  let s1 := ((s.put glbXingStatIoAligned 1).put glbXingStatCdAligned 0xF).fullTrain sweeps false
  let s2 := (List.range 6).foldl (fun st l =>
    let st1 := st.idleLink l
    if signal.getLsbD l && st1.linkState l == lsDown then st1.trainLink l else st1) s1
  let s3 := ((s2.put glbBootStatStage 8).put glbCallerStatState 2).setMode .standby
  { s3 with tt := 0, ttFrom := 0, due := [], hkp := { s3.hkp with cut := true } }

/-- Crossings that cannot be centred (R14): each is logged, and the others read aligned. -/
def State.bootXing (s : State) (bad : List Nat) : State :=
  let s1 := (s.put glbXingStatIoAligned (b2n (!bad.contains 4))).put glbXingStatCdAligned
    (((List.range 4).filter (fun c => !bad.contains c)).map (2 ^ ·)).sum
  (bad.foldl (fun st x => st.logEntry 0x00 1 x (st.rd .glbXingStat)) s1).failBoot 6 3 2

/-- BOOT_COMPLETE (R345): the stages in order. -/
def execBootComplete (r : BootResult) (s : State) : Res :=
  if !s.power || s.mode != .boot || s.bootFailed then .next s
  else
    let s0 := s.put glbBootStatBootMs (min 65535 r.ms)
    if !FlashPart.accepted r.part then .next (s0.failBoot 2 1 4)
    else
      let s1 := (s0.showFlash r.part).showImages
      let act := s1.flash.actGh
      let first := s1.flash.good 1 act
      if !r.imageOk || !(first || s1.flash.good 1 (!act)) then .next ((s1.logEntry 0x00 2 0 (s1.rd .glbImgStat)).failBoot 3 2 4)
      else
        let s2 := if first then s1 else s1.logEntry 0x00 2 0 (s1.rd .glbImgStat)
        let s3 := (s2.put glbCallerStatGhCopy (b2n (if first then act else !act))).bootClock r.refAValid r.refBValid
        let s4 := s3.replayJournal
        let bad := r.xingBad.map Fin.val
        if bad.isEmpty then .next (s4.bootEnd r.sweeps r.signal) else .next (s4.bootXing (ascending bad))

/-- CROSSING_SLIP (R15): die 0-3 a converter die, 4 the I/O die. In BOOT it is also a failure to centre (R14), which logs it. The
ALIGNED bit of the crossing stays 1 outside BOOT, as do all of them in DORMANT (DESIGN CHOICE, log 136: R15 is silent). -/
def execCrossingSlip (die : Fin 5) (s : State) : Res :=
  if !s.power || s.mode == .dormant || s.bootFailed then .next s
  else
    let s1 := if die.val = 4 then s.raiseBit glbXingStatIoSlip
      else s.put glbXingStatCdSlip (s.fld glbXingStatCdSlip ||| 2 ^ die.val)
    if s.mode == .boot then .next ((s1.safeCause 4).bootXing [die.val])
    else .next ((s1.logEntry 0x00 1 die.val (s1.rd .glbXingStat)).safeCause 4)

end Sys2Proof.Machine
end

