-- ==== Sys2Proof/Machine/Caller.lean ====
section
/-! DEFINITION. The Caller (20): firmware and user data in flash (R346 to R349), row repair (R330), restarts from ROM (R341 to
R343), the journal's pending records (R351), and the end of every background command (R340). -/
namespace Sys2Proof.Machine

/-! Flash. -/

/-- Another FLASH_WRITE or FW_ACTIVATE runs (R340). -/
def State.flashBusy (s : State) : Bool :=
  s.bg.any (fun b => match b.job with | .flashWrite .. | .fwActivate .. => true | _ => false)

/-- Bytes of the flash part (R348): 256 Mbit and up. -/
def State.flashBytes (s : State) : Nat := 32 * 2 ^ 20 * 2 ^ s.fld glbFlashInfoDens

/-- Word k of the container at a bulk offset (R346). -/
def State.boxWord (s : State) (a k : Nat) : Word := memWord s.bulk (a + k)

/-- Bytes `lo` to `hi` - 1 of a container are 0. -/
def State.boxZero (s : State) (a lo hi : Nat) : Bool := (s.bulkBytes (a + lo) (hi - lo)).all (· == 0)

/-- A container's header holds for a KIND and a length, FMT apart (R344, R346): reserved fields are 0, a container that is not encrypted
has no tag, one of KIND 3 no signature, and Ghenov is not encrypted. -/
def State.headerOk (s : State) (a kind len : Nat) : Bool :=
  let flags := s.boxWord a 0x14
  s.boxWord a 0 == 0x54465243 && (s.boxWord a 4).bits 7 0 == kind && (s.boxWord a 4).bits 31 16 == 0
    && (s.boxWord a 0xC).bits 31 16 == 0 && (s.boxWord a 0x10).toNat + 256 == len && flags.bits 31 1 == 0
    && !(kind == 1 && flags.bit 0) && s.boxZero a 0x24 0x28 && (flags.bit 0 || s.boxZero a 0x28 0x38)
    && (kind != 3 || s.boxZero a 0x38 0x98) && s.boxZero a 0x9C 0x100

/-- A container's CRC-32C over its header to byte 0x97 and its payload holds (R346). -/
def State.boxCrcOk (s : State) (a len : Nat) : Bool :=
  (s.boxWord a 0x98).toNat == crc32c ((s.bulkBytes a 0x98 ++ s.bulkBytes (a + 256) (len - 256)).flatMap byteBits)

/-- The version and SVN of a container. -/
def State.boxCopy (s : State) (a : Nat) : FlashCopy := { valid := true, version := s.boxWord a 8, svn := (s.boxWord a 0xC).bits 15 0 }

/-- How the container at bulk offset `a` stands for a KIND (R344, R346, R349, R272): `none` it may be written. -/
def State.containerStatus (s : State) (img : Container) (kind a off len : Nat) : Option Status :=
  let room := if kind = 1 then 4 * 2 ^ 20 else 2 ^ 20
  if !s.headerOk a kind len || (kind != 3 && decide (room < len)) then some .format
  else if (s.boxWord a 4).bits 15 8 ≠ 1 then some .version
  else if !s.boxCrcOk a len then some .format
  else if kind ≠ 3 ∧ (!img.sigOk ∨ kind = 2 ∧ !img.tagOk ∨ (s.boxCopy a).svn < s.flash.minSvn kind) then some .auth
  else if kind = 3 ∧ s.flashBytes < off + len then some .range
  else none

/-- FLASH_WRITE (R349, R340, R361): the copy it replaces is invalid from the first byte written. -/
def execFlashWrite (c : Cmd) (img : Container) (s : State) : Res :=
  let kind := (c.w 1).bits 3 0
  let off := c.w64 5
  let len := (c.w 4).toNat
  let ok := (kind == 1 || kind == 2 || kind == 3)
    && (if kind = 3 then off % 65536 == 0 && decide (0x1000000 ≤ off) else off == 0)
  s.admin 0x60 c (Cmd.only c [(1, 0xF), (2, wordMask), (3, wordMask), (4, wordMask), (5, wordMask), (6, wordMask)] && ok) (fun t =>
    if !t.flashOpen || t.flashBusy then t.complete c.tag 0x60 .busy
    else if !(t.regionUsable (c.w64 2) len && t.notPoisoned (c.w64 2) len) then
      (if t.regionUsable (c.w64 2) len then t else t.countReg .hstPoisonCnt).complete c.tag 0x60 .fault
    else match t.containerStatus img kind (c.w64 2) off len with
    | some st => t.complete c.tag 0x60 st
    | none =>
      let target := !t.flash.active kind
      let f := if kind = 3 then { t.flash with user := t.flash.user.filter (fun x => x.1 != off) }
        else t.flash.setCopy kind target { t.flash.copy kind target with valid := false }
      let t1 := ({ t with flash := f }.showImages).put glbFlashInfoWrAct 1
      { t1 with bg := t1.bg ++ [⟨c.tag, 0x60, .flashWrite kind target off (t.boxCopy (c.w64 2)) img.readBackOk⟩] })

/-- The container is written and read back, or it is not valid (R347, R349). -/
def State.endFlashWrite (s : State) (kind : Nat) (copy : Bool) (off : Nat) (img : FlashCopy) (good : Bool) : State :=
  let f := if !good then s.flash
    else if kind = 3 then { s.flash with user := s.flash.user ++ [(off, img)] }
    else s.flash.setCopy kind copy img
  ({ s with flash := f }.showImages).put glbFlashInfoWrAct 0

/-- The Caller restarts from ROM (R341, R342): background commands and SKEW_CAL are cut, and what a load had written is not loaded.
What plays is not touched (R18): the write gate keeps the descriptors of active segments. -/
def State.callerReset (s : State) (cause : Nat) : State :=
  let undo (st : State) (b : Bg) : State :=
    match b.job with
    | .loadSegments o ds _ => ds.foldl (fun x d => if x.gateDesc o d then x.dropWrite o
        else { x with sram := memSetWord x.sram (descAddr o d) (invalidDesc (x.desc0 o d)) }) st
    | .loadOpen k _ => st.clearOpen k
    | .flashWrite .. => st.put glbFlashInfoWrAct 0
    | _ => st
  let skew := match s.skew with | some k => [(k.tag, 0x33)] | none => []
  let cut := s.bg.map (fun b => (b.tag, b.opcode)) ++ skew
  let s1 := s.bg.foldl undo s
  let s2 := { s1 with bg := [], skew := none, caller := { s1.caller with cut := s1.caller.cut ++ cut } }
  ((s2.put glbCallerStatState 3).put glbCallerStatCause cause).count glbCallerStatRstCnt

/-- FW_ACTIVATE (R349, R361): the directory first, then the new copy. -/
def execFwActivate (c : Cmd) (s : State) : Res :=
  let kind := (c.w 1).bits 3 0
  s.admin 0x61 c (Cmd.only c [(1, 0x8000000F)] && (kind == 1 || kind == 2)) (fun t =>
    let new := !t.flash.active kind
    if !t.flashOpen || t.flashBusy then t.complete c.tag 0x61 .busy
    else if !t.flash.good kind new then t.complete c.tag 0x61 .auth
    else
      let t1 := { t with flash := t.flash.flip kind }.showImages
      let t2 := if kind = 1 then (t1.callerReset 1).put glbCallerStatGhCopy (b2n new) else t1.loadPatch
      { t2 with bg := t2.bg ++ [⟨c.tag, 0x61, .fwActivate kind ((c.w 1).bit 31)⟩] })

/-- FW_ACTIVATE ends (R349): with both copies valid the fused minimum rises, unless the other copy would fall below it. -/
def State.endFwActivate (s : State) (b : Bg) (kind : Nat) (raise : Bool) : State :=
  let f := s.flash
  let act := f.active kind
  let svn := (f.copy kind act).svn
  if !raise || !(f.good kind act && f.good kind (!act)) then s.complete b.tag b.opcode .ok
  else if (f.copy kind (!act)).svn < svn then s.complete b.tag b.opcode .range
  else
    let g := if kind = 1 then { f with minGh := max f.minGh svn } else { f with minPa := max f.minPa svn }
    ({ s with flash := g }.showImages).complete b.tag b.opcode .ok

/-! Row repair (R330). -/

/-- The bank of a row, as channel × 16 + bank. -/
def bankOf (row : Nat) : Nat := row / 2 ^ 18

/-- A bank has a repair resource left. -/
def bankLeft (used : Tab Nat) (bank : Nat) : Bool := decide (tabGet used bank 0 < Config.bankSpares bank)

/-- Rows that can be repaired one after another, with the resources used, and rows that cannot. -/
def repairSplit (used : Tab Nat) : List Nat → List Nat × List Nat × Tab Nat
  | [] => ([], [], used)
  | r :: rs =>
    if bankLeft used (bankOf r) then
      let x := repairSplit (tabPut used (bankOf r) (tabGet used (bankOf r) 0 + 1)) rs
      (r :: x.1, x.2.1, x.2.2)
    else
      let x := repairSplit used rs
      (x.1, r :: x.2.1, x.2.2)

/-- MEM_REPAIR (R330, R340). -/
def execMemRepair (c : Cmd) (s : State) : Res :=
  let auto := (c.w 1).bit 31
  s.admin 0x52 c (Cmd.only c [(1, 0x800000FF), (2, if auto then wordMask else 0x3FFFF)]) (fun t =>
    let row := (c.w 1).bits 3 0 * 2 ^ 22 + (c.w 1).bits 7 4 * 2 ^ 18 + (c.w 2).bits 17 0
    let rows := if auto then t.mem.cands else [row]
    if (repairSplit t.mem.repairs rows).1.isEmpty then t.complete c.tag 0x52 .absent
    else { t with bg := t.bg ++ [⟨c.tag, 0x52, .memRepair rows⟩] })

/-- A repaired row reads 0 with valid check bits (R330). -/
def State.clearRow (s : State) (row : Nat) : State :=
  { s with bulk := s.bulk.filter (fun b => s.rowOf b.1 != some row), poison := s.poison.filter (fun l => s.rowOf (64 * l) != some row) }

/-- MEM_REPAIR ends (R330). -/
def State.endRepair (s : State) (b : Bg) (rows : List Nat) (good : Bool) : State :=
  if !good then s.complete b.tag b.opcode .fault
  else
    let x := repairSplit s.mem.repairs rows
    let s1 := x.1.foldl State.clearRow s
    let cands := s1.mem.cands.filter (fun r => !x.1.contains r)
    let s2 := { s1 with mem := { s1.mem with repairs := x.2.2, cands := cands } }
    let s3 := (s2.count memPprStatUsed x.1.length).put memPprStatCand cands.length
    s3.complete b.tag b.opcode .ok 0 [BitVec.ofNat 32 x.1.length, BitVec.ofNat 32 x.2.1.length]

/-! The end of a background command. -/

/-- What a background command's end does (R340). -/
def State.endJob (s : State) (b : Bg) (r : CmdOutcome) : State :=
  match b.job with
  | .loadEngines imgs bad => (imgs.foldl State.writeImage s).complete b.tag b.opcode (if bad then .format else .ok)
  | .loadSegments _ _ dropped => s.complete b.tag b.opcode (if dropped = 0 then .ok else .busy) dropped
  | .loadOpen k img => (s.writeOpen k img).complete b.tag b.opcode .ok
  | .flashWrite kind copy off img readBackOk =>
    let good := readBackOk && r == .ok
    (s.endFlashWrite kind copy off img good).complete b.tag b.opcode (if good then .ok else .fault)
  | .fwActivate kind raise => s.endFwActivate b kind raise
  | .memRepair rows => s.endRepair b rows (r == .ok)
  | .callerRestart => s.complete b.tag b.opcode .ok

/-- The first background command of a tag, other than a CALLER_RESTART, which ends with the restart. -/
def State.bgOf (s : State) (tag : BitVec 16) : Option Bg := s.bg.find? (fun b => b.tag == tag && b.job != .callerRestart)

/-- Remove the first occurrence of a background command. -/
def dropBg (b : Bg) : List Bg → List Bg
  | [] => []
  | x :: xs => if x = b then xs else x :: dropBg b xs

/-- COMMAND_END (R340, R72, R271, R330, R349): it needs Ghenov. -/
def execCommandEnd (tag : BitVec 16) (r : CmdOutcome) (s : State) : Res :=
  match s.ghenovRuns, s.bgOf tag with
  | true, some b => .next ({ s with bg := dropBg b s.bg }.endJob b r)
  | _, _ => .next s

/-! Restarts. -/

/-- CALLER_RESTART (R341, R342): it completes when Ghenov serves again. -/
def execCallerRestart (c : Cmd) (s : State) : Res :=
  s.admin 0x72 c (Cmd.only c []) (fun t =>
    let t1 := t.callerReset 1
    { t1 with bg := t1.bg ++ [⟨c.tag, 0x72, .callerRestart⟩] })

/-- Ticks of elapsed time in 60 s. -/
def sixtySeconds : Nat := 60000000000

/-- A watchdog or fault restart: those of the last 60 s are remembered (R343). -/
def State.callerFails (s : State) (cause : Nat) : State :=
  let recent := s.caller.faults.filter (fun u => s.up < u + sixtySeconds)
  { s with caller := { s.caller with faults := recent ++ [s.up] } }.callerReset cause

/-- CALLER_WATCHDOG (R341). -/
def execCallerWatchdog (s : State) : Res := if s.ghenovRuns then .next (s.callerFails 2) else .next s

/-- CALLER_FAULT (R341). -/
def execCallerFault (s : State) : Res := if s.ghenovRuns then .next (s.callerFails 3) else .next s

/-- The value of a setting that the journal would give: its last record, or its default (R350). -/
def State.journalled (s : State) (r : JRec) : Option JRec :=
  let dflt : Option JRec := match r with
    | .key .. => none
    | .links .. => let c : LinkCfg := {}; some (.links c.nx c.ny c.nz c.v1 c.authReq c.en)
    | .thr z .. => some (.thr z (BitVec.ofNat 32 (Reg.reset ⟨.hkpThrA, z, 0⟩)) (BitVec.ofNat 32 (Reg.reset ⟨.hkpThrB, z, 0⟩)))
  match (s.flash.recs.filter (fun x => x.slot == r.slot)).getLast? with
  | some x => some x
  | none => dflt

/-- Settings that differ from the journal await their records (R351). -/
def State.compareJournal (s : State) : State :=
  let todo := s.journalNow.filter (fun r => s.journalled r != some r)
  { s with flash := { s.flash with todo := todo } }.put glbPersistPend (b2n (!todo.isEmpty))

/-- Ghenov serves from a copy (R341, R342, R351): GLB_CALLER_LOAD's greatest values restart. -/
def State.ghenovUp (s : State) (copy : Bool) : State :=
  let s1 := (s.put glbCallerStatGhCopy (b2n copy)).put glbCallerStatState 2
  ((s1.put glbCallerLoadQmax s1.adminQ.length).finishCut.compareJournal).skimQ

/-- GHENOV_READY (R342, R343): the copy in use before, the other one at the third watchdog or fault restart within 60 s, or the
ROM monitor. -/
def execGhenovReady (otherOk : Bool) (s : State) : Res :=
  if !s.power || s.mode == .dormant || s.fld glbCallerStatState != 3 then .next s
  else
    let used := s.flag glbCallerStatGhCopy
    let third := decide (2 ≤ s.fld glbCallerStatCause) && decide (3 ≤ s.caller.faults.length)
    let other := s.flash.good 1 (!used) && otherOk
    if !third && s.flash.good 1 used then .next (s.ghenovUp used)
    else if other then .next (s.ghenovUp (!used))
    else .next ((s.put glbCallerStatState 4).finishCut.skimQ)

/-- JOURNAL_APPEND (R350, R351): the oldest pending record, once the window is open. -/
def execJournalAppend (s : State) : Res :=
  match s.ghenovRuns && s.flashOpen, s.flash.todo with
  | true, r :: rs =>
    let s1 := { s with flash := { s.flash with todo := rs } }.journal [r]
    .next (if rs.isEmpty then s1.put glbPersistPend 0 else s1)
  | _, _ => .next s

end Sys2Proof.Machine
end

