-- ==== Sys2Proof/Machine/Clock.lean ====
section
/-! DEFINITION. Time's rows (03): epoch capture, snapshots, references and holdover, the servo and its sources, the trim and
SKEW_CAL. -/
namespace Sys2Proof.Machine

/-- SYNC_EDGE (R36, R37, R370): a low-to-high transition at reference edge e_n; the tick one reference period later carries V
when capture is armed, and is latched otherwise. -/
def execSyncEdge (s : State) : Res :=
  if !s.pllOn || !s.flag clkRefStatLocked then .next s
  else
    let s1 := s.advanceTo (s.now + 10)
    if s1.flag clkEpochArm then
      let s2 := s1.loadTT (s1.rd64 .clkTtLoadLo .clkTtLoadHi)
      .next ((((s2.put clkEpochArm 0).put clkEpochAcq 1).put clkEpochSkewDone 0).put clkEpochPhaseErr 0)
    else .next ((s1.count clkEpochIgnCnt).wr64 .svcSyncTtLo .svcSyncTtHi s1.now)

/-- EPOCH_ARM (R37). -/
def execEpochArm (s : State) : Res :=
  if s.stbyCal && s.flag clkRefStatLocked then .next ((s.put clkEpochArm 1).put clkEpochIgnCnt 0) else .next s

/-- SNAP_TAKE (R40). -/
def execSnapTake (s : State) : Res :=
  if !s.power then .next s
  else
    let put (r : RegK) (st : State) (e : Word × Nat) : State := st.setReg ⟨r, e.2, 0⟩ e.1
    let s1 := (words64 s.now).zipIdx.foldl (put .clkSnapTt) s
    .next (s.wtStamp.zipIdx.foldl (put .clkSnapWt) s1)

/-- LOAD_WT (R50): WT is loaded at the next tick, or the load is refused. The fraction becomes 0, and nanoseconds out of the range
of R48 are loaded as they stand: CLK_WT_SET gives neither a fraction nor a bound (DESIGN CHOICE, log 127). -/
def execLoadWt (s : State) : Res :=
  if !s.power || s.mode == .boot then .next s
  else if !s.stepOk then .next (s.raiseBit clkTimeCtrlStepRefused)
  else
    .next ((s.advanceTo (s.now + 1)).setWt (s.rd64 .clkWtSetSecLo .clkWtSetSecHi % 2 ^ 48) (s.rdn .clkWtSetNs) 0)

/-! References. -/

/-- Valid measurements in a row of a reference. -/
def State.refCnt (s : State) (b : Bool) : Nat := if b then s.refCntB else s.refCntA

/-- Set the count and the validity of a reference. -/
def State.setRef (s : State) (b : Bool) (cnt : Nat) (valid : Bool) : State :=
  let s1 := s.put (if b then clkRefStatRefbValid else clkRefStatRefaValid) (b2n valid)
  if b then { s1 with refCntB := cnt } else { s1 with refCntA := cnt }

/-- A reference is invalid: switch or holdover (R42, R43). -/
def State.refGone (s : State) (b : Bool) : State :=
  let s1 := s.setRef b 0 false
  if s.pllOn && s.flag clkRefStatLocked && s.flag clkRefStatActive == b then
    match s1.eligible true with
    | some r => s1.switchRef r
    | none => s1.loseLock
  else s1

/-- REF_LOSS (R41). -/
def execRefLoss (refB : Bool) (s : State) : Res := if s.power then .next (s.refGone refB) else .next s

/-- Valid measurements that make a reference valid (R41), and those of PREF that let the PLL return to it (R42: 10 s). -/
def refGood : Nat := 10
def refSteady : Nat := 10010

/-- A measured frequency is within ±10 ppm of 100 MHz (R41). -/
def hzOk (hz : Nat) : Bool := decide (99999000 ≤ hz) && decide (hz ≤ 100001000)

/-- A reference's next measurement ends: 1 ms after its last one at the soonest (R41). -/
def State.measured (s : State) (refB : Bool) : State :=
  let s1 := s.elapseTo (tabGet s.refAt (b2n refB) 0 + 1000000)
  { s1 with refAt := tabPut s1.refAt (b2n refB) s1.up }

/-- REF_MEASURE (R41, R44): one 1 ms measurement against the crystal, and where the reference edges fall should the PLL relock. -/
def execRefMeasure (refB : Bool) (hz : Nat) (edge : Fin 2560) (s0 : State) : Res :=
  let s := s0.measured refB
  if !s0.power then .next s0
  else if !hzOk hz then .next (s.refGone refB)
  else
    let n := min refSteady (s.refCnt refB + 1)
    let s1 := s.setRef refB n (s.refValid refB || decide (refGood ≤ n))
    if s1.pllOn && !s1.flag clkRefStatLocked then
      match s1.eligible true with
      | some b => .next (s1.regain b edge.val)
      | none => .next s1
    else .next s1

/-- REF_REVERT (R42): mode 01 returns to PREF. -/
def execRefRevert (s : State) : Res :=
  let pref := s.flag clkRefCtrlPref
  if s.pllOn && s.flag clkRefStatLocked && s.fld clkRefCtrlRefMode == 1 && s.refValid pref && decide (refSteady ≤ s.refCnt pref) then
    .next (s.switchRef pref)
  else .next s

/-- REF_MODE_WRITE (R42, R44): `edge` is where the reference edges fall should the PLL relock. -/
def execRefModeWrite (mode : BitVec 2) (edge : Fin 2560) (s : State) : Res :=
  if !s.power then .next s
  else
    let s1 := s.put clkRefCtrlRefMode mode.toNat
    if !s1.pllOn then .next s1
    else match s1.flag clkRefStatLocked, s1.eligible true with
    | true, some b => .next (s1.switchRef b)
    | true, none => .next s1.loseLock
    | false, some b => .next (s1.regain b edge.val)
    | false, none => .next s1

/-- HOLDOVER_UPDATE (R43): the next microsecond of holdover, or the one in progress where more have passed. -/
def execHoldoverUpdate (s : State) : Res :=
  if !s.pllOn || !s.flag clkRefStatHoldover then .next s
  else
    let t := max (s.holdUs + 1) ((s.up - s.holdAt) / 1000)
    let ferr := max 1 (s.xfld clkTimeCtrlXen clkHoldFerr 1000)
    let est := min 0xFFFF (ferr * t * 64 / 1000000)
    let s1 := { (s.elapseTo (s.holdAt + 1000 * t)).put clkHoldDriftEst est with holdUs := t }
    if s.fld clkHoldDriftEst < 64 ∧ 64 ≤ est then .next (((s1.raiseBit clkRefStatHoldExceeded).put clkEpochAcq 0).safeCause 5)
    else .next s1

/-! Wall time. -/

/-- SERVO_UPDATE (R49, R50, R53): a millisecond after the last one. ADJ moves towards what the selected domain's estimate asks for,
by at most SLEW × 4.295 / 1,000 units, kept to a millionth of a unit. Without a source WT goes on at its last ADJ. -/
def execServoUpdate (s0 : State) : Res :=
  let b := s0.flag clkTimeCtrlSel
  if !s0.ghenovRuns || !s0.flag clkTimeCtrlServo || s0.domSrc b == 0 || !(s0.dom b).present then .next s0
  else
    let s := match s0.servoAt with | some u => s0.elapseTo (u + 1000000) | none => s0
    let d := s.dom b
    let far := decide (1000000 < s.selOffset.natAbs)
    let s1 := { s with servoAt := some s.up }.put (clkDomStatLocked (b2n b)) (b2n (Config.servoConverged d.offset d.freq))
    let s2 :=
      if !far then s1
      else if s1.stepOk then s1.moveWt (-s1.selOffset)
      else s1.raiseBit clkTimeCtrlStepRefused
    let lim : Int := max 1 (s.fld clkTimeCtrlSlew) * 4295
    let cur := s.adj * 1000000 + s.servoFrac
    let goal := clampInt (-524288) 524288 (Config.servoTarget d.offset d.freq) * 1000000
    let next := cur + clampInt (-lim) lim (goal - cur)
    .next { s2.markWt.setReg ⟨.clkWtAdj, 0, 0⟩ (BitVec.ofInt 32 (next / 1000000)) with servoFrac := next % 1000000 }

/-! PTP (R52). -/

/-- A PTP message suits a domain (R52, CLK_PTP_CFG). -/
def State.ptpSuits (s : State) (b : Bool) (m : PtpMsg) : Bool :=
  s.domSrc b == 1 && s.fld (if b then clkPtpCfgDomainB else clkPtpCfgDomainA) == m.domain.toNat
    && s.fld (if b then clkPtpCfgTransportB else clkPtpCfgTransportA) == m.transport.toNat

/-- The data that the default best master clock algorithm compares, most significant first; a smaller one is better (PRESUMED,
IEEE 1588, log 128). -/
def ptpRank (m : PtpMaster) : List Nat := [m.prio1, m.class_, m.accuracy, m.variance, m.prio2, m.gm, m.steps, m.sender]

/-- Lexicographic order of numbers. -/
def lexLess : List Nat → List Nat → Bool
  | x :: xs, y :: ys => decide (x < y) || (x == y && lexLess xs ys)
  | _, _ => false

/-- The best of the masters that have sent two Announces (R52, log 128). -/
def bestMaster (l : List PtpMaster) : Option PtpMaster :=
  (l.filter (fun m => decide (2 ≤ m.seen))).foldl (fun best m =>
    match best with
    | some x => if lexLess (ptpRank m) (ptpRank x) then some m else best
    | none => some m) none

/-- An Announce is heard: the sender's data are the latest. -/
def Dom.hear (d : Dom) (m : PtpMaster) : Dom :=
  let n := match d.masters.find? (fun x => x.sender == m.sender) with | some x => x.seen + 1 | none => 1
  { d with masters := d.masters.filter (fun x => x.sender != m.sender) ++ [{ m with seen := n }] }

/-- The offset that a domain's last Sync and mean delay give, once both are known (R52). -/
def State.ptpOffset (s : State) (b : Bool) : State :=
  match (s.dom b).last, (s.dom b).delay with
  | some (t1, t2), some d => s.domEstimate b ((t2 - t1 - d) / 2 ^ 16)
  | _, _ => s

/-- A Sync with its corrected origin: the device sends a delay request, at a time of its own, and the offset follows. -/
def State.ptpSync (s : State) (b : Bool) (t1 t2 : Int) : State :=
  let q := s.takeFree
  let t3 : Int := t2 + (Config.freeWord q.1).toNat
  (q.2.setDom b { q.2.dom b with last := some (t1, t2), await := none, req := some t3 }).ptpOffset b

/-- A PTP message is used for a domain (R52): Announces of any sender, the others of the best master, with the delay mechanism that
CLK_PTP_CFG names. -/
def State.takePtp (s : State) (b : Bool) (m : PtpMsg) : State :=
  let d := s.dom b
  let peer := s.flag (if b then clkPtpCfgDelayB else clkPtpCfgDelayA)
  let mine := (bestMaster d.masters).any (fun x => x.sender == m.sender)
  let here : Int := s.wtFine + 256 * (m.fine.toNat : Int)
  match m.body with
  | .announce x => s.setDom b (d.hear x)
  | .sync seq twoStep t1 corr =>
    if !mine then s
    else if twoStep then s.setDom b { d with await := some (seq, here, corr) }
    else s.ptpSync b (t1 + corr) here
  | .followUp seq t1 corr =>
    match d.await with
    | some (q, t2, c) => if mine && q == seq then s.ptpSync b (t1 + c + corr) t2 else s
    | none => s
  | .delayResp t4 corr =>
    match d.last, d.req with
    | some (t1, t2), some t3 =>
      if mine && !peer then (s.setDom b { d with req := none, delay := some (((t2 - t1) + (t4 - corr - t3)) / 2) }).ptpOffset b else s
    | _, _ => s
  | .pdelayResp t2 t3 corr =>
    match d.req with
    | some t1 => if peer then (s.setDom b { d with req := none, delay := some (((here - t1) - (t3 - t2) - corr) / 2) }).ptpOffset b else s
    | none => s
  | .managementGet _ | .unsupported => s

/-- PTP_MESSAGE (R52, R53, R339): used for each domain it suits. A feature not listed is discarded and counted; a GET of the default
data set is answered. -/
def execPtpMessage (m : PtpMsg) (s : State) : Res :=
  if !s.alive || s.mode == .boot || !s.ghenovRuns || !s.flag ethCtrlEn then .next s
  else match m.body with
  | .unsupported | .managementGet false => .next (s.countReg .ethPtpDisc)
  | .managementGet true =>
    .next (if [false, true].any (fun b => s.ptpSuits b m) then { s with ptpReply := some m.domain } else s)
  | _ => .next ([false, true].foldl (fun st b => if st.ptpSuits b m then st.takePtp b m else st) s)

/-- DOMAIN_SOURCE_LOST (R53). -/
def execDomainSourceLost (domB : Bool) (s : State) : Res :=
  if s.power then .next (s.sourceLost domB) else .next s

/-- TIME_FRAME_SEND (R54, R286, R339): at the next multiple of 2^20 ticks that has not had one, a root sends its domain's frame on
every link that is UP. The origin is WT as the frame leaves. -/
def execTimeFrameSend (domB : Bool) (s : State) : Res :=
  if !s.pllOn || !s.ghenovRuns || !s.flag (if domB then clkTimeCtrlRootB else clkTimeCtrlRootA) then .next s
  else
    let due := s.now % 2 ^ 20 = 0 ∧ (s.dom domB).sent ≠ s.timePeriod
    let s1 := if due then s else s.advanceTo (s.timePeriod * 2 ^ 20)
    let s2 := s1.setDom domB { s1.dom domB with sent := s1.timePeriod }
    let h := mkHeader 4 s.ownId 0x1FF 0 1 (b2n domB * 2 ^ 55 + s.ownId * 2 ^ 46) [0, 0]
    .next ((List.range 6).foldl (fun st l => if st.linkState l = lsUp then st.enqueue l (.time h [0, 0] none) else st) s2)

/-! The trim. -/

/-- TRIM_WRITE (R47, R9): in CALIBRATE the trim it selects is in effect from the next tick. -/
def execTrimWrite (t : TrimField) (s : State) : Res :=
  if !s.power then .next s
  else
    let s1 := match t with
      | .ovr v => s.stageWrite.put clkSkewTrimOvr v.toNat
      | .xen v => s.stageWrite.put clkTimeCtrlXen (b2n v)
    .next (if s1.mode = .calibrate then (s1.advanceTo (s1.now + 1)).applyTrim else s1)

/-- TRIM_RESETTLE_DONE (R47). -/
def execTrimResettleDone (s : State) : Res :=
  if s.resettling then .next ((s.acqs.map (·.1)).foldl (fun st u => st.acqSettled u) { s with resettling := false }) else .next s

/-- SKEW_CAL ends with an offset to the root in 1/1024 tick (R45, R46, R47). -/
def State.skewDone (s : State) (k : Skew) (off : Int) : State :=
  let trim := 4096 + off
  let s1 := { s with skew := none }
  if trim < 0 ∨ 8191 < trim then
    (((s1.raiseBit clkSkewRangeErr).put clkEpochAcq 0).complete k.tag 0x33 .range)
  else
    let s2 := (((s1.put clkSkewCalTrimCal trim.toNat).put clkSkewCalValid 1).put clkEpochSkewDone 1).applyTrim
    let s3 := (List.range 6).foldl (fun st l =>
      if st.linkState l = lsUp ∧ k.link ≠ some l then st.enqueue l (st.mgmtFrameTo (st.neighbour l) 6) else st) s2
    s3.complete k.tag 0x33 .ok

/-- SKEW_CAL (R45): the root is done at once; another device starts its exchanges on its upstream link. -/
def execSkewCal (c : Cmd) (s : State) : Res :=
  s.admin 0x33 c (Cmd.only c [(1, 0x1FF)]) (fun t =>
    let root := (c.w 1).bits 8 0
    if t.skew.isSome then t.complete c.tag 0x33 .busy
    else if root = t.ownId then t.skewDone { tag := c.tag, root := root, link := none } 0
    else match t.route root none with
    | none => t.complete c.tag 0x33 .absent
    | some l => { t with skew := some { tag := c.tag, root := root, link := some l } }.enqueue l (t.mgmtFrameTo (t.neighbour l) 5))

/-- SKEW_CAL_TIMEOUT (R45): the upstream device has not reported done. -/
def execSkewCalTimeout (s : State) : Res :=
  match s.skew with
  | some k => if k.up.isNone then .next ({ s with skew := none }.complete k.tag 0x33 .absent) else .next s
  | none => .next s

end Sys2Proof.Machine
end

