-- ==== Sys2Proof/Machine/Demod.lean ====
section
/-! DEFINITION. The read-out chain (R169 to R178): a demodulated sample is formed from the converter's codes and delivered to the
engines' windows and to the acquisition unit. -/
namespace Sys2Proof.Machine

/-- Frequency word and offset of channel c of input i at converter sample n, without ROT (R173, R174): those of the paired slot
32 × PDLY samples before, its start values before T_s and outside a run, or the free ones. -/
def State.channelCarrier (s : State) (i c n : Nat) : Nat × Nat :=
  let t := n / 32
  let cfg := s.rfiReg .rfiChCfg i c t
  if cfg.bit 15 then ((s.rfiReg .rfiChFtwLo i c t).toNat + 2 ^ 32 * (s.rfiReg .rfiChFtwHi i c t).bits 15 0, 0)
  else
    let o := 64 + 4 * (i / 4) + cfg.bits 5 4
    let k := cfg.bits 3 0
    let back := 32 * cfg.bits 27 16
    if s.inRun t && decide (s.ts * 32 + back ≤ n) then carrierAt (s.slot o k) (n - back)
    else
      let rd (q : RegK) : Word := if s.inRun t then s.heldReg q o k else s.regIn ⟨q, o, k⟩ t
      ((rd .rfoSlotFtwLo).toNat + 2 ^ 32 * (rd .rfoSlotFtwHi).bits 15 0, (rd .rfoSlotPh).toNat)

/-- cos θ and sin θ of channel c of input i at converter sample n (R170). -/
def State.channelPhase (s : State) (i c n : Nat) : Int × Int :=
  let f := s.channelCarrier i c n
  let ctrl := s.rfiReg .rfiCtrl i 0 (n / 32)
  let dith := if ctrl.bit 31 && ctrl.bit 4 then some (Config.dither (128 + 16 * i + c) n) else none
  cosSin (theta (phaseWord f.1 ((f.2 + (s.rfiReg .rfiChRot i c (n / 32)).toNat) % 2 ^ 32) n) dith)

/-- The mix of converter code x (R170), in 2^-17 of a code. -/
def State.mix (s : State) (i c n : Nat) (x : Int) : Int × Int :=
  let p := s.channelPhase i c n
  (x * p.1, -(x * p.2))

/-- Converter samples on either side of its reference instant that the decimation filter spans: what its latency of 17 ticks
leaves room for (R171). -/
def decimSpan : Nat := 576

/-- The filter's taps in units of 2^-decimFrac (R171): linear phase about the reference instant, and gain 1 at DC. -/
def decimTaps : List Int :=
  let half := (List.range decimSpan).map (fun d => Config.decimTap (d + 1))
  half.reverse ++ [2 ^ Config.decimFrac - 2 * half.foldl (· + ·) 0] ++ half

/-- One component of the filter's exact output, in units of 2^-(decimFrac + 17) of a code (R171): 0 for silence. -/
def decimate (b : List Int) : Int := if b.all (· == 0) then 0 else (List.zipWith (· * ·) decimTaps b).foldl (· + ·) 0

/-- The converter's codes that sample m is formed from, with their converter sample numbers; there is none before sample 0. -/
def codesOf (m : Nat) (codes : List (BitVec 12)) : List (Nat × Int) :=
  (List.range (2 * decimSpan + 1)).map (fun j =>
    (64 * m + j - decimSpan, if 64 * m + j < decimSpan then 0 else (codes.getD j 0).toInt))

/-- The filter's output on channel c of input i. -/
def State.filtered (s : State) (i c m : Nat) (codes : List (BitVec 12)) : Int × Int :=
  let b := (codesOf m codes).map (fun e => if e.2 = 0 then (0, 0) else s.mix i c e.1 e.2)
  (decimate (b.map (·.1)), decimate (b.map (·.2)))

/-- One component of R172 from the exact filter output `f` / 2^`frac`, before the limit. -/
def demodRaw (f : Int) (frac dsh : Nat) : Int := f * 2 ^ dsh / 2 ^ frac

/-- Overrange samples of the interval of sample m (R169). -/
def overrange (codes : List (BitVec 12)) : Nat :=
  ((List.range 64).filter (fun j => let x := (codes.getD (decimSpan + j) 0).toInt; x == -2048 || x == 2047)).length

/-- A demodulated sample of a channel before its limit (R172). -/
def State.demodOf (s : State) (i c m : Nat) (codes : List (BitVec 12)) : Int × Int :=
  let f := s.filtered i c m codes
  let dsh := (s.rfiReg .rfiChCfg i c (2 * m)).bits 10 8
  (demodRaw f.1 (Config.decimFrac + 17) dsh, demodRaw f.2 (Config.decimFrac + 17) dsh)

/-- The window that an accumulation is consuming is skipped (R97): its samples leave, and the accumulation completes in the
next tick. Samples that still arrive are still captured. -/
def State.cutRun (s : State) (e id u : Nat) : State :=
  (s.modEng e (fun g => g.setLsr lsrSkipwin)).modMe e (fun m => { m with
    inv := true
    run := m.run.map (fun (r : AccRun) => { r with left := 0, next := u + 1 })
    wins := m.wins.map (fun (w : MeWin) => if w.id = id then { w with consumed := w.len } else w)
    buf := m.buf.filter (fun b => b.win != id) })

/-- A sample of one open window, in tick u: to be captured through AG3 with CAP = 1, at one write a tick (R180), and put into the
window sample buffer, or dropped when that is full. A window skipped under R68 takes none. -/
def State.windowSample (e m u : Nat) (d : Int × Int) (tag : Bool) (s : State) (w : MeWin) : State :=
  if (w.skipped && w.arrived == 0) || w.m0 + w.arrived != m || decide (w.len ≤ w.arrived) then s
  else
    let word := BitVec.ofNat 32 (twos 16 d.1 + twos 16 d.2 * 2 ^ 16)
    let full := decide (4096 ≤ (s.eng e).me.buf.length)
    let drop := w.skipped || full
    let s1 := s.modMe e (fun x => { x with
      caps := if w.cap then x.caps ++ [(match x.caps.getLast? with | some c => max u (c.1 + 1) | none => u, word)] else x.caps
      wins := x.wins.map (fun (y : MeWin) => if y.id = w.id then { y with arrived := y.arrived + 1, skipped := drop } else y)
      buf := if drop then x.buf else x.buf ++ [⟨w.id, d.1, d.2, tag, u⟩] })
    let s2 := if full && !w.skipped && (s1.eng e).me.run.any (fun r => r.win == some w.id) then s1.cutRun e w.id u else s1
    s2.modMe e Me.keepWins

/-- Channel c's sample reaches its ME (R176, R177). -/
def State.toMe (s : State) (e m u : Nat) (d : Int × Int) (tag : Bool) : State :=
  if (s.eng e).me.wins.isEmpty then s
  else
    let s1 := s.meTo e (u - 1)
    (s1.eng e).me.wins.foldl (State.windowSample e m u d tag) s1

/-- DEMOD_SAMPLE (R169 to R178): demodulated sample m of every channel of input i. It is in the window sample buffer at tick
2m + 28, and in the same tick at the acquisition unit. -/
def execDemodSample (i : Fin 16) (m : Nat) (codes : List (BitVec 12)) (s : State) : Res :=
  let k := i.val
  if !s.alive || !s.flag (rfiStatOn k) then .next s
  else
    let u := 2 * m + 28
    let ovr := overrange codes
    let s1 := s.advanceTo u
    let s2 := if ovr ≠ 0 then (s1.raiseBit (rfiStatAdcOvr k)).countReg .rfiOvrCnt k 0 ovr else s1
    let raw := (List.range 16).map (fun c => s2.demodOf k c m codes)
    let clamps := raw.map (fun r => clampsS 16 r.1 || clampsS 16 r.2)
    let d := raw.map (fun r => (satS 16 r.1, satS 16 r.2))
    let tags := clamps.map (fun c => c || ovr != 0)
    let s3 := clamps.zipIdx.foldl (fun st c => if c.1 then st.put (rfiDsatDsat k) (st.fld (rfiDsatDsat k) ||| 2 ^ c.2) else st) s2
    let s4 := { s3 with streams := tabPut s3.streams k ((⟨m, d, tags⟩ :: tabGet s3.streams k []).take 512) }
    .next ((List.range 16).foldl (fun st c =>
      st.toMe (768 + 16 * k + c) m u (d.getD c (0, 0)) (tags.getD c false)) s4)

end Sys2Proof.Machine
end

