-- ==== Sys2Proof/Machine/Links.lean ====
section
/-! DEFINITION. Rows of a link's life (R276 to R282, R287, R293, R294, R296): configuration, training, capabilities, the
challenge, lanes, keep-alive, replay and the intervals. -/
namespace Sys2Proof.Machine

/-- The links run: not in BOOT and not in DORMANT (R295). -/
def State.linksOn (s : State) : Bool := s.power && s.mode != .boot && s.mode != .dormant

/-- Links train: while they run, and during the wake from DORMANT (R279). -/
def State.linksTrain (s : State) : Bool := s.linksOn || (s.power && s.mode == .dormant && s.trans.isSome)

/-- A new link comes up: not while the Caller restarts (R19, R339). -/
def State.linksRise (s : State) : Bool := s.linksTrain && (s.ghenovRuns || s.mode == .dormant)

/-! Configuration. -/

/-- The staged configuration (R296): a key word that has not been written keeps the committed one. -/
def State.staged (s : State) : LinkCfg :=
  let c := s.linkCfg
  { nx := s.fld lnkCfgNxM1 + 1
    ny := s.fld lnkCfgNyM1 + 1
    nz := s.fld lnkCfgNzM1 + 1
    v1 := s.flag lnkCfgV1Ok
    authReq := s.flag lnkCfgAuthReq
    kid := s.fld lnkKeyIdKid
    keySet := c.keySet || s.regs.any (fun e => e.1.k == .lnkKey)
    key := (List.range 8).map (fun k => (regFind s.regs ⟨.lnkKey, k, 0⟩).getD (c.key.getD k 0))
    en := BitVec.ofNat 6 (((List.range 6).filter (fun l => s.flag (lnkCtrlEn l))).map (2 ^ ·)).sum }

/-- A link's configuration differs: its enable, or what all links share. -/
def linkChanged (a b : LinkCfg) (l : Nat) : Bool := a.en.getLsbD l != b.en.getLsbD l || { a with en := b.en } != b

/-- A link that LINK_CONFIG changes goes to DOWN or DISABLED (R296); an ISOLATED one that stays enabled on a ring of more than one
device stays ISOLATED (R275, R279). -/
def State.reconfigure (s : State) (l : Nat) : State :=
  if s.linkState l = lsIsolated ∧ s.linkCfg.en.getLsbD l ∧ s.neighbour l ≠ s.ownId then s else (s.idleLink l).modLink l Link.clear

/-- LINK_CONFIG (R296, R350, R351): commits the staged values. -/
def execLinkConfig (c : Cmd) (s : State) : Res :=
  s.admin 0x40 c (Cmd.only c []) (fun t =>
    let old := t.linkCfg
    let new := t.staged
    let t1 := { t with linkCfg := new }.put lnkKeyIdSet (b2n new.keySet)
    let t2 := (List.range 6).foldl (fun st l =>
      if linkChanged old new l then st.reconfigure l else st) t1
    let key := if new.keySet then [JRec.key new.key new.kid] else []
    let p := t2.persist (key ++ [.links new.nx new.ny new.nz new.v1 new.authReq new.en])
    p.1.complete c.tag 0x40 .ok 0 p.2)

/-- ACTIVE of a link, with ACTIVE_CNT. -/
def State.setLanes (s : State) (l active : Nat) : State :=
  (s.put (lnkLaneActive l) active).put (lnkLaneActiveCnt l) (popCount 5 active)

/-- LINK_RESET (R275, R279): an ISOLATED, DOWN or UP link goes to DOWN, or stays DISABLED on a ring of one device, and its failed
lanes are cleared. -/
def State.resetLink (s : State) (l : Nat) : State :=
  let st := s.linkState l
  if st = lsIsolated ∨ st = lsDown ∨ st = lsUp then
    (((if s.neighbour l = s.ownId then s.idleLink l else s.setLink l lsDown).modLink l Link.clear).put (lnkLaneFailed l) 0).setLanes l 0xF
  else s

/-- LINK_RESET (R279). -/
def execLinkReset (c : Cmd) (s : State) : Res :=
  s.admin 0x41 c (Cmd.only c [(1, 0x3F)]) (fun t =>
    (((List.range 6).filter (fun l => (c.w 1).bit l)).foldl State.resetLink t).complete c.tag 0x41 .ok)

/-! Lanes. -/

/-- The spare lane of a link is free: L4 is neither active, failed nor in training, and the link is not at version 1 (R298). -/
def State.spareFree (s : State) (l : Nat) : Bool :=
  !(s.fld (lnkLaneActive l)).testBit 4 && !(s.fld (lnkLaneFailed l)).testBit 4 && !(s.link l).training
    && s.fld (lnkStatVer l) != 1

/-- A lane leaves service (R277): it is failed, and a free spare is trained for it. -/
def State.loseLane (s : State) (l lane : Nat) : State :=
  let active := s.fld (lnkLaneActive l)
  let use := active.testBit lane && s.spareFree l
  let s1 := s.put (lnkLaneFailed l) (s.fld (lnkLaneFailed l) ||| 2 ^ lane)
  let s2 := if active.testBit lane then s1.setLanes l (active - 2 ^ lane) else s1
  s2.modLink l (fun k => { k with training := use || (k.training && lane != 4) })

/-- With fewer than two lanes a link goes DOWN (R277): one that was UP is lost, one on its way up has to train again. -/
def State.fewLanes (s : State) (l : Nat) : State :=
  let st := s.linkState l
  if 2 ≤ s.fld (lnkLaneActiveCnt l) then s
  else if st = lsUp then s.linkLost l
  else if st = lsCaps ∨ st = lsAuth then (s.setLink l lsDown).modLink l Link.clear
  else s

/-- SPARE_LANE (R278). -/
def execSpareLane (c : Cmd) (s : State) : Res :=
  let l := (c.w 1).bits 2 0
  let lane := (c.w 2).bits 2 0
  s.admin 0x51 c (Cmd.only c [(1, 7), (2, 7)] && decide (l < 6) && decide (lane < 5)) (fun t =>
    if !(t.fld (lnkLaneActive l)).testBit lane then t.complete c.tag 0x51 .range
    else if t.fld (lnkStatVer l) = 1 then t.complete c.tag 0x51 .absent
    else if !t.spareFree l then t.complete c.tag 0x51 .busy
    else ((t.loseLane l lane).fewLanes l).complete c.tag 0x51 .ok)

/-- LANE_FAILURE (R277): of a link that is UP, or has trained and is on its way up. -/
def execLaneFailure (l : Fin 6) (lane : Fin 5) (s : State) : Res :=
  let k := l.val
  let here := (s.fld (lnkLaneActive k)).testBit lane.val || (lane.val == 4 && (s.link k).training)
  if !s.linksTrain || !([lsUp, lsCaps, lsAuth].contains (s.linkState k)) || !here then .next s
  else .next ((s.loseLane k lane.val).fewLanes k)

/-- SPARE_TRAINED (R277). -/
def execSpareTrained (l : Fin 6) (s : State) : Res :=
  let k := l.val
  if !s.linksOn || !(s.link k).training then .next s
  else .next ((s.setLanes k (s.fld (lnkLaneActive k) ||| 16)).modLink k (fun x => { x with training := false }))

/-! Link-up (R279). -/

/-- A DOWN link may train: it is enabled and Ghenov runs. -/
def State.mayTrain (s : State) (l : Nat) : Bool :=
  s.linksOn && s.linkState l == lsDown && s.linkCfg.en.getLsbD l && s.ghenovRuns

/-- SIGNAL_DETECT (R279). -/
def execSignalDetect (l : Fin 6) (s : State) : Res :=
  if s.mayTrain l.val && !(s.link l.val).retry then .next (s.trainLink l.val) else .next s

/-- TRAIN_TIMEOUT (R279): 2 ms without lock. -/
def execTrainTimeout (l : Fin 6) (s : State) : Res :=
  if !s.linksTrain || s.linkState l.val != lsTrain then .next s
  else
    let s1 := s.elapseTo ((s.link l.val).since + 2000000)
    .next ((s1.setLink l.val lsDown).modLink l.val (fun k => { k with retry := true }))

/-- TRAIN_RETRY (R279): 100 ms later. -/
def execTrainRetry (l : Fin 6) (s : State) : Res :=
  if s.mayTrain l.val && (s.link l.val).retry then .next ((s.elapseTo ((s.link l.val).since + 100000000)).trainLink l.val)
  else .next s

/-- This device's capabilities frame (R280). -/
def State.myCaps (s : State) : Caps :=
  let c := s.linkCfg
  ⟨BitVec.ofNat 9 s.ownId, false, c.v1, true, c.nx, c.ny, c.nz, BitVec.ofNat 16 c.kid, c.keySet, c.authReq⟩

/-- TRAIN_DONE (R276, R279, R282): `lanes` have lock and deskew. A lane that has failed stays out; the spare stands in for one
that has not locked. It waits while Ghenov does not run (R19). -/
def execTrainDone (l : Fin 6) (lanes : BitVec 5) (flight : BitVec 16) (s : State) : Res :=
  let k := l.val
  let usable := lanes.toNat &&& (31 - s.fld (lnkLaneFailed k))
  let active := if usable % 16 = 15 then 15 else usable
  if !s.linksRise || s.linkState k != lsTrain || decide (popCount 5 active < 2) || decide ((s.link k).since + 2000000 < s.up) then
    .next s
  else
    let s1 := (s.put (lnkLaneFailed k) (s.fld (lnkLaneFailed k) ||| (15 - usable % 16))).setLanes k active
    let s2 := (s1.put (lnkFlightFlight k) flight.toNat).put (lnkStatLong k) (b2n (decide (1536 < flight.toNat)))
    .next ((s2.setLink k lsCaps).enqueue k (.msg (.caps s.myCaps)))

/-- The version two sides agree on, 0 for none (R280). -/
def agreed (own : Bool) (c : Caps) : Nat := if c.v2 then 2 else if own && c.v1 then 1 else 0

/-- Why a capabilities check fails (R280, R298): 0 when it passes. -/
def State.capsCause (s : State) (l : Nat) (c : Caps) : Nat :=
  let g := s.linkCfg
  let v := agreed g.v1 c
  let auth := g.authReq || c.authReq
  if c.id.toNat ≠ s.neighbour l then 1
  else if c.nx ≠ g.nx ∨ c.ny ≠ g.ny ∨ c.nz ≠ g.nz then 2
  else if v = 0 then 3
  else if auth && (v == 1 || c.kid.toNat != g.kid || !g.keySet || !c.keySet) then 4
  else 0

/-- The message of a challenge's answer (R281): the nonce, the answerer's and the receiver's ID, the version; the most significant
byte of each first (DESIGN CHOICE, log 24). -/
def challenge (n : BitVec 128) (orig dest ver : Nat) : List Nat :=
  bytesBE 16 n.toNat ++ bytesBE 2 orig ++ bytesBE 2 dest ++ [ver]

/-- The tag of an answer under the installation key, of which LNK_KEY7 is the most significant word (R281, log 24). -/
def LinkCfg.tag (c : LinkCfg) (n : BitVec 128) (orig dest ver : Nat) : BitVec 128 :=
  let key := ((c.key.zipIdx).map (fun e => e.1.toNat * 2 ^ (32 * e.2))).sum
  BitVec.ofNat 128 (natBE (aesCmac (bytesBE 32 key) (challenge n orig dest ver)))

/-- CAPABILITIES_FRAME (R280, R281): when the challenge is required, each side sends a nonce and answers the other's. It waits while
Ghenov does not run (R19). -/
def execCapabilitiesFrame (l : Fin 6) (c : Caps) (nonce : BitVec 128) (s : State) : Res :=
  let k := l.val
  if !s.linksRise || s.linkState k != lsCaps then .next s
  else
    let s1 := (s.put (lnkStatPartner k) c.id.toNat).put (lnkStatJv1 k) (b2n c.jv1)
    match s1.capsCause k c with
    | 0 =>
      let ver := agreed s.linkCfg.v1 c
      let s2 := s1.put (lnkStatVer k) ver
      if s.linkCfg.authReq || c.authReq then
        let q := s2.takeFree
        let n := Config.freeWide q.1
        let s3 := (q.2.setLink k lsAuth).modLink k (fun x => { x with nonce := some n })
        .next ((s3.enqueue k (.msg (.nonce n))).enqueue k (.msg (.tag (s.linkCfg.tag nonce s.ownId (s.neighbour k) ver))))
      else .next (s2.setLink k lsUp)
    | why => .next (s1.isolate k why)

/-- AUTH_RESPONSE (R281): the partner's answer to this device's nonce is verified. -/
def execAuthResponse (l : Fin 6) (tag : BitVec 128) (s : State) : Res :=
  let k := l.val
  match s.linksRise && s.linkState k == lsAuth, (s.link k).nonce with
  | true, some n =>
    if tag = s.linkCfg.tag n (s.neighbour k) s.ownId (s.fld (lnkStatVer k)) then
      .next ((s.setLink k lsUp).modLink k (fun x => { x with nonce := none }))
    else .next (s.isolate k 4)
  | _, _ => .next s

/-- AUTH_TIMEOUT (R279): 1 ms in AUTH. -/
def execAuthTimeout (l : Fin 6) (s : State) : Res :=
  if s.linksTrain && s.linkState l.val == lsAuth then .next ((s.elapseTo ((s.link l.val).since + 1000000)).isolate l.val 4)
  else .next s

/-! Keep-alive (R279). -/

/-- KEEPALIVE_SEND (R279): 1 µs after the last one at the soonest. -/
def execKeepaliveSend (l : Fin 6) (s : State) : Res :=
  let f : OutFrame := .msg .keepalive
  if !s.power || s.linkState l.val != lsKeepalive || (s.link l.val).out.contains f then .next s
  else
    let s1 := s.elapseTo ((s.link l.val).aliveAt + 1000)
    .next ((s1.modLink l.val (fun k => { k with aliveAt := s1.up })).enqueue l.val f)

/-- KEEPALIVE_TIMEOUT: no keep-alive for 10 µs; the loss is logged. -/
def execKeepaliveTimeout (l : Fin 6) (s : State) : Res :=
  if !s.power || s.linkState l.val != lsKeepalive then .next s
  else
    let s1 := s.elapseTo ((s.link l.val).since + 10000)
    let s2 := (s1.setLink l.val lsDown).modLink l.val Link.clear
    .next (s2.logEntry 0x06 1 l.val (s2.rd .lnkStat l.val))

/-! Replay (R287). -/


/-- The peer copy ends with a result (R286). -/
def State.bxfEnd (s : State) (result : Nat) : State :=
  { (s.put lnkBxfCtrlBusy 0).put lnkBxfCtrlResult result with bxf := none }

/-- A BULK WRITE that this device sent for its peer copy. -/
def State.bxfWrite (s : State) (f : OutFrame) : Bool :=
  match s.bxf, f with
  | some _, .flits 3 h _ => flit h 123 115 == s.ownId && flit h 100 96 == 1
  | _, _ => false

/-- The frame of a replay buffer that was sent first. -/
def firstSent : List Sent → Option Sent
  | [] => none
  | x :: xs => match firstSent xs with
    | some y => if y.at_ < x.at_ then some y else some x
    | none => some x

/-- A try of a frame has failed: it is resent, or after the eighth failure dropped, which counts one error (R287). -/
def State.resend (s : State) (k : Nat) (x : Sent) : State :=
  if x.tries + 1 < 8 then
    s.modLink k (fun q => { q with
      wire := some x.frame
      sent := q.sent.map (fun (y : Sent) => if y.seq = x.seq then { y with at_ := s.up, tries := y.tries + 1 } else y) })
  else
    let s2 := s.modLink k (fun q => { q with sent := q.sent.filter (fun (y : Sent) => y.seq != x.seq) })
    let s3 := if s2.bxfWrite x.frame then s2.bxfEnd 2 else s2
    (s3.countReg .lnkCntRetry k).linkError k

/-- LINK_ACK (R287): an acknowledgement releases its frame from the replay buffer, a refusal for its CRC has it resent. -/
def execLinkAck (l : Fin 6) (seq : Nat) (refused : Bool) (s : State) : Res :=
  let k := l.val
  if !s.linksOn || s.linkState k != lsUp then .next s
  else if !refused then .next (s.modLink k (fun q => { q with sent := q.sent.filter (fun x => x.seq != seq) }))
  else match (s.link k).sent.find? (fun x => x.seq == seq) with
  | some x => .next (s.resend k x)
  | none => .next s

/-- REPLAY_TIMEOUT (R287): 2 µs without an acknowledgement. -/
def execReplayTimeout (l : Fin 6) (s : State) : Res :=
  match s.linksOn && s.linkState l.val == lsUp, firstSent (s.link l.val).sent with
  | true, some x => .next ((s.elapseTo (x.at_ + 2000)).resend l.val x)
  | _, _ => .next s

/-! Intervals. -/

/-- RATE_INTERVAL (R293, R39): budgets for DECISION and SYNDROME each 1,000 ticks, for MGMT each 1,000,000. -/
def execRateInterval (mgmt : Bool) (s : State) : Res :=
  if !s.power || s.mode == .dormant then .next s
  else
    let s1 := s.toInterval (if mgmt then 1000000 else 1000)
    let fresh (k : Link) : Link := if mgmt then { k with mgmtN := 0 } else { k with decN := 0, synN := 0 }
    .next { s1 with links := s1.links.map (fun (e : Nat × Link) => (e.1, fresh e.2)) }

/-- ERROR_INTERVAL (R294, R39). -/
def execErrorInterval (s : State) : Res :=
  if !s.power || s.mode == .dormant then .next s
  else
    let s1 := s.toInterval 1000000
    .next { s1 with links := s1.links.map (fun (e : Nat × Link) => (e.1, { e.2 with errs := 0 })) }

end Sys2Proof.Machine
end

