-- ==== Sys2Proof/Machine/Frames.lean ====
section
/-! DEFINITION. Frames that arrive on a link (R283 to R286, R288 to R290, R292, R293), peer copies (R286), the skew exchange (R45),
and what a link sends. -/
namespace Sys2Proof.Machine

/-! What every class shares. -/

/-- A frame that fails validation (R292). -/
def State.invalidFrame (s : State) (l : Nat) : State := (s.countReg .lnkCntVal l).linkError l

/-- HOPS, SRC and DST of a frame hold (R292). `dst` is judged for routed classes. -/
def State.addrOk (s : State) (h : BitVec 128) : Bool :=
  let src := flit h 123 115
  let dst := flit h 114 106
  decide (flit h 105 101 ≤ 24) && s.inArray src && s.inArray dst && src != s.ownId && dst != src

/-- TYPE and LEN of a header (R286, R292): a class-2, 3 or 5 frame whose payload has LEN flits. -/
def typeOk (fr : Frame) : Bool :=
  let ty := flit fr.header 100 96
  let n := fr.payload.length
  flit fr.header 95 88 == n && (match flit fr.header 127 124 with
    | 2 => decide (1 ≤ ty) && decide (ty ≤ 5)
    | 3 => (ty == 1 && decide (1 ≤ n) && decide (n ≤ 16) && flit fr.header 45 40 == 0) || ((ty == 2 || ty == 3) && n == 0)
    | 5 => decide (1 ≤ ty) && decide (ty ≤ 7)
    | _ => false)

/-- The CRC-32C of a frame holds (R286). -/
def crcOk (fr : Frame) : Bool := flit fr.header 31 0 == frameCrc fr.header fr.payload

/-- The header with one hop more and its CRC recomputed (R288, R291). -/
def hopHeader (h : BitVec 128) (p : List (BitVec 128)) : BitVec 128 :=
  let h1 := BitVec.ofNat 128 ((h.toNat + 2 ^ 101) / 2 ^ 32 * 2 ^ 32)
  h1 ||| BitVec.ofNat 128 (frameCrc h1 p)

/-- A frame that has made 24 hops goes no further, and counts in LNK_NOROUTE, not as an error (R369). -/
def hopsSpent (h : BitVec 128) : Bool := decide (24 ≤ flit h 105 101)

/-- The modes in which frames are forwarded (R290). -/
def State.forwards (s : State) : Bool := s.sendsOwn || s.mode == .safe

/-- Frames of a class other than LINK are taken on link l (R279, R295): MGMT alone in SERVICE. -/
def State.takesClass (s : State) (l cls : Nat) : Bool := s.linksOn && s.linkState l == lsUp && (s.mode != .service || cls == 5)

/-- A frame for another device goes on (R290, R369). -/
def State.passOn (s : State) (l cls : Nat) (fr : Frame) : State :=
  if !s.forwards then s
  else if hopsSpent fr.header then s.countReg .lnkNoroute
  else s.sendFrame (flit fr.header 114 106) (some l) (.flits cls (hopHeader fr.header fr.payload) fr.payload)

/-- The budget of a class is spent: the frame is dropped (R293). -/
def State.overRate (s : State) (l : Nat) : State := (s.countReg .lnkCntRate l).linkError l

/-- A frame of a class with hop replay arrives: refused for its CRC, or acknowledged (R287), then validated (R292), held to its
rate (R293) and forwarded or handled. `spent` and `charge` are the class's budget. -/
def State.arrive (s : State) (l cls : Nat) (fr : Frame) (more : Bool) (spent : Link → Bool) (charge : Link → Link)
    (handle : State → State) : State :=
  if !s.takesClass l cls then s
  else if !crcOk fr then s.enqueue l (.msg .refuse)
  else
    let s1 := s.enqueue l (.msg .ack)
    if flit fr.header 127 124 ≠ cls ∨ !typeOk fr ∨ !s.addrOk fr.header ∨ !more then s1.invalidFrame l
    else if spent (s1.link l) then s1.overRate l
    else
      let s2 := s1.modLink l charge
      if flit fr.header 114 106 = s.ownId then handle s2 else s2.passOn l cls fr

/-! DECISION. -/

/-- The CRC-16 of a DECISION copy holds (R284). -/
def copyOk (w : BitVec 128) : Bool := flit w 15 0 == crc16 (bitsDown (w.toNat / 2 ^ 16) 112)

/-- A DECISION frame with one hop more. -/
def hopDecision (w : BitVec 128) : BitVec 128 :=
  let h := (w.toNat + 2 ^ 101) / 2 ^ 16 * 2 ^ 16
  BitVec.ofNat 128 (h + crc16 (bitsDown (h / 2 ^ 16) 112))

/-- An import accepts a frame addressed to this device, or discards it (R206, R285, R284). The cue appears 13 ticks after the
frame has left the alignment buffer (R291). -/
def State.importFrame (s : State) (w : BitVec 128) : State :=
  let j := flit w 100 95
  let r := s.rd .cueRmt j
  if !(r.bit 31 && r.bits 24 16 == flit w 123 115) then s.count (cueRmtBadCnt j)
  else
    let alive := flit w 74 71
    let last := tabFind s.aliveIn j
    if last = some alive then s.countReg .lnkDecRepeat
    else
      let gap := match last with | some x => (alive + 31 - x) % 16 | none => 0
      let s1 := if gap = 0 then s else s.countReg .lnkDecGap 0 0 gap
      let s2 := { s1 with aliveIn := tabPut s1.aliveIn j alive }.raiseAt (840 + j) (s.now + 13)
      if w.getLsbD 94 && r.bit 30 then
        let v : Verdict := { seq := flit w 85 78, conf := w.getLsbD 77, state := flit w 76 75, valid := w.getLsbD 70 }
        s2.writeVerdict (256 + flit w 93 86) (s.now + 13) (some v)
      else s2

/-- DECISION_FRAME (R206, R284, R285, R290 to R293): the copies of the lower and the higher lane, as they leave the alignment
buffer. A link at version 1 carries one copy. A frame that goes on reaches its next queue 18 ticks later (R291). -/
def execDecisionFrame (l : Fin 6) (a b : BitVec 128) (s : State) : Res :=
  let k := l.val
  if !s.takesClass k 1 then .next s
  else
    let copies := if s.fld (lnkStatVer k) = 1 then [a] else [a, b]
    let bad := (copies.filter (fun w => !copyOk w)).length
    let s1 := if bad = 0 then s else s.countReg .lnkCntCrc k 0 bad
    match copies.find? copyOk with
    | none => .next ((s1.countReg .lnkCntLoss k).linkError k)
    | some w =>
      if flit w 127 124 ≠ 1 ∨ flit w 69 64 ≠ 0 ∨ !s.addrOk w then .next (s1.invalidFrame k)
      else if max 1 (s.fldIn (lnkRateDec k) s.now) ≤ (s1.link k).decN then .next (s1.overRate k)
      else
        let s2 := s1.modLink k (fun x => { x with decN := x.decN + 1 })
        let dst := flit w 114 106
        if dst = s.ownId then .next (s2.importFrame w)
        else if !s2.forwards then .next s2
        else if hopsSpent w || s2.unavailTo dst then .next (s2.countReg .lnkNoroute)
        else match s2.route dst (some k) with
        | some o => .next (s2.enqueueDec o 18 (hopDecision w))
        | none => .next (s2.countReg .lnkNoroute)

/-! SYNDROME (R217, R218). -/

/-- A partner's digest: kept until T_s, and compared once a run has begun (R217). -/
def State.takeDigest (s : State) (f d : Nat) : State :=
  let s1 := s.modQry (fun q => { q with digests := tabPut q.digests f d })
  if s.qry.judged || d == s.faceDigest f then s1 else s1.mismatch f

/-- A partner joins the decode of bench hc, or will: one in HANDOFF is told that this device does not join (R218). -/
def State.takeJoin (s : State) (f hc seq : Nat) : State :=
  if s.fld qryStatState = qHandoff then s.sendSyn f 5 hc seq []
  else match s.qry.dec with
  | some d =>
    if d.hc = hc ∧ d.faces.contains f ∧ !d.late.contains f ∧ !d.joined.contains f then
      s.modQry (fun q => { q with dec := some { d with joined := d.joined ++ [f] } })
    else if d.hc = hc then s else s.modQry (fun q => { q with joins := tabPut q.joins f hc })
  | none => s.modQry (fun q => { q with joins := tabPut q.joins f hc })

/-- A partner in HANDOFF does not join: it counts as late (R218). -/
def State.takeRefuse (s : State) (f hc : Nat) : State :=
  match s.qry.dec with
  | some d =>
    if d.hc = hc ∧ d.faces.contains f ∧ !d.late.contains f ∧ !d.joined.contains f then
      (s.count (qryFaceLateCnt f)).modQry (fun q => { q with dec := some { d with late := d.late ++ [f] } })
    else s
  | none => s

/-- A partner's GROW frame (R218, R286): its entries join those of the same bench. -/
def State.takeGrow (s : State) (f hc : Nat) (ws : List Word) : State :=
  let old := match tabFind s.qry.grown f with | some (h, es) => if h = hc then es else [] | none => []
  s.modQry (fun q => { q with grown := tabPut q.grown f (hc, old ++ ws) })

/-- A partner's RESULT (R219, R222, R286): the cause it hands off with, 0 for a commit. -/
def State.takeResult (s : State) (f hc cause : Nat) : State := s.modQry (fun q => { q with results := tabPut q.results f (hc, cause) })

/-- A SYNDROME frame of a face partner. -/
def State.takeSyndrome (s : State) (fr : Frame) : State :=
  let h := fr.header
  match (List.range 6).find? (fun f => s.flag (qryFaceEn f) && s.fld (qryFacePartner f) == flit h 123 115) with
  | none => s
  | some f =>
    match flit h 100 96 with
    | 1 => s.takeDigest f ((fr.payload.headD 0).toNat % 2 ^ 32)
    | 2 => s.takeJoin f (flit h 87 72) (flit h 68 61)
    | 3 => s.takeGrow f (flit h 87 72) (flitWords fr.payload)
    | 4 => s.takeResult f (flit h 87 72) ((flitWords fr.payload).headD 0 |>.bits 15 0)
    | _ => s.takeRefuse f (flit h 87 72)

/-- SYNDROME_FRAME (R217, R218, R287, R292, R293). -/
def execSyndromeFrame (l : Fin 6) (fr : Frame) (s : State) : Res :=
  let lim := max 1 (s.fldIn (lnkRateSyn l.val) s.now)
  .next (s.arrive l.val 2 fr true (fun k => decide (lim ≤ k.synN)) (fun k => { k with synN := k.synN + 1 })
    (fun t => t.takeSyndrome fr))

/-! BULK (R286, R292). -/

/-- A BULK WRITE addressed to this device falls in its window (R292), as it is in force in this tick (R296). -/
def State.inWindow (s : State) (fr : Frame) : Bool :=
  let base := s.rdNow .lnkBwinLo + 2 ^ 32 * s.rdNow .lnkBwinHi
  let off := flit fr.header 87 40
  s.fldIn lnkBwinSrcEn s.now != 0 && s.fldIn lnkBwinSrcSrc s.now == flit fr.header 123 115 && decide (base ≤ off)
    && decide (off + 16 * fr.payload.length ≤ base + s.rdNow .lnkBwinLen)

/-- The sixteen bytes of a payload flit, lowest first. -/
def flitBytes (w : BitVec 128) : List Byte := (List.range 16).map (fun i => (w >>> (8 * i)).setWidth 8)

/-- A payload flit of sixteen bytes. -/
def bytesFlit (bs : List Byte) : BitVec 128 := BitVec.ofNat 128 (((bs.zipIdx).map (fun e => e.1.toNat * 2 ^ (8 * e.2))).sum)

/-- ACK (2) or NAK (3) to the sender of a BULK WRITE. -/
def State.answerBulk (s : State) (dst ty : Nat) : State := s.sendFrame dst none (.flits 3 (mkHeader 3 s.ownId dst 0 ty 0 []) [])

/-- The next frames of the peer copy are queued while the outgoing queue has room (R283, R286), but not in SERVICE (R295). -/
def State.bxfPump : Nat → State → State
  | 0, s => s
  | n + 1, s =>
    match (if s.forwards || s.mode == .dormant then s.bxf else none) with
    | none => s
    | some b =>
      if b.len ≤ b.sent then (if b.owed = 0 then s.bxfEnd 0 else s)
      else match (if s.unavailTo b.dev then none else s.route b.dev none) with
      | none => (s.countReg .lnkNoroute).bxfEnd 2
      | some l =>
        let k := min 256 (b.len - b.sent)
        let lost (a : Nat) : Bool := !(s.bulkServed a && s.notPoisoned a 16)
        let q := (s.countLost (b.src + b.sent) k).takeFree
        let p := (List.range (k / 16)).map (fun i =>
          let a := b.src + b.sent + 16 * i
          if lost a then Config.freeWide (16 * q.1 + i) else bytesFlit (s.bulkBytes a 16))
        let f : OutFrame := .flits 3 (mkHeader 3 s.ownId b.dev 0 1 ((b.dst + b.sent) * 2 ^ 8) p) p
        let used := (((s.link l).out.filter (fun x => x.cls == 3)).map OutFrame.size).foldl (· + ·) 0
        if 1024 < used + f.size then s
        else State.bxfPump n ({ q.2 with bxf := some { b with sent := b.sent + k, owed := b.owed + 1 } }.enqueue l f)

/-- BXF_GO (R286): a write of GO. Offsets and length are multiples of 64. -/
def execBxfGo (s : State) : Res :=
  if !s.power || !s.sendsOwn || s.flag lnkBxfCtrlBusy then .next s
  else
    let b : Bxf := { src := s.rd64 .lnkBxfSrcLo .lnkBxfSrcHi / 64 * 64, dst := s.rd64 .lnkBxfDstLo .lnkBxfDstHi / 64 * 64 % 2 ^ 48,
                     len := s.rdn .lnkBxfLen / 64 * 64, dev := s.fld lnkBxfCtrlDstDev }
    .next (State.bxfPump 64 { (s.put lnkBxfCtrlBusy 1).put lnkBxfCtrlResult 0 with bxf := some b })

/-- A BULK frame addressed to this device: a WRITE in its window, an ACK or a NAK. -/
def State.takeBulk (s : State) (fr : Frame) : State :=
  let src := flit fr.header 123 115
  match flit fr.header 100 96 with
  | 1 => (s.bulkWrite (flit fr.header 87 40) (fr.payload.flatMap flitBytes)).answerBulk src 2
  | 2 => match s.bxf with
    | some b => if b.dev = src then State.bxfPump 64 { s with bxf := some { b with owed := b.owed - 1 } } else s
    | none => s
  | _ => match s.bxf with
    | some b => if b.dev = src then s.bxfEnd 1 else s
    | none => s

/-- BULK_FRAME (R286, R287, R292): a WRITE outside the window is refused with a NAK. -/
def execBulkFrame (l : Fin 6) (fr : Frame) (s : State) : Res :=
  let own := flit fr.header 114 106 == s.ownId && flit fr.header 100 96 == 1
  let ok := !own || s.inWindow fr
  let s1 := s.arrive l.val 3 fr ok (fun _ => false) (fun k => k) (fun t => t.takeBulk fr)
  .next (if s.takesClass l.val 3 && crcOk fr && flit fr.header 127 124 == 3 && typeOk fr && s.addrOk fr.header && !ok then
    s1.answerBulk (flit fr.header 123 115) 3 else s1)

/-! TIME (R54, R288). -/

/-- The correction of a TIME frame, signed, in 2^-16 ns. -/
def timeCorr (fr : Frame) : Int := sext 64 ((fr.payload.getD 1 0).toNat % 2 ^ 64)

/-- The offset WT minus source in ns that a TIME frame gives: origin + correction, as the frame carries them, is the source's WT at
the receive land (R54); the delay of the link it came by is not added here (DEDUCED, log 80). -/
def State.timeOffset (s : State) (fr : Frame) : Int :=
  let p := fr.payload.getD 0 0
  let origin := flit p 127 80 * 1000000000 + flit p 79 48
  (s.wtFine - (origin : Int) * 2 ^ 16 - timeCorr fr) / 2 ^ 16

/-- A TIME frame goes on: the delay of the link it came by is added to the correction now, its residence as it leaves (R54, R288,
R369). -/
def State.forwardTime (s : State) (l : Nat) (fr : Frame) : State :=
  let add : Int := (s.fld (lnkFlightFlight l) * 256 : Nat)
  let p1 := fr.payload.getD 1 0
  let p := [fr.payload.getD 0 0, BitVec.ofNat 128 (p1.toNat / 2 ^ 64 * 2 ^ 64 + twos 64 (timeCorr fr + add))]
  if !s.forwards then s
  else if hopsSpent fr.header then s.countReg .lnkNoroute
  else (List.range 6).foldl (fun st o =>
    if o ≠ l ∧ st.linkState o = lsUp then st.enqueue o (.time (hopHeader fr.header p) p (some s.up)) else st) s

/-- A domain's TIME frame of the present period is accepted: further ones are discarded (R288, R293). -/
def State.takeTime (s : State) (b : Bool) : State := s.setDom b { s.dom b with taken := s.timePeriod }

/-- TIME_FRAME (R54, R288, R292). On a link that is not upstream it is discarded without counting (R288), also with HOPS above 24,
which R54 and R292 count (DESIGN CHOICE, log 129). -/
def execTimeFrame (l : Fin 6) (fr : Frame) (s : State) : Res :=
  let k := l.val
  let h := fr.header
  let b := h.getLsbD 87
  let root := flit h 86 78
  let wanted := s.fldIn (if b then lnkTimeRootRootB else lnkTimeRootRootA) s.now
  if !s.takesClass k 4 || !crcOk fr then .next s
  else if flit h 127 124 ≠ 4 ∨ flit h 100 96 ≠ 1 ∨ flit h 95 88 ≠ 2 ∨ fr.payload.length ≠ 2 ∨ flit h 114 106 ≠ 0x1FF then
    .next (s.invalidFrame k)
  else if s.flag (if b then clkTimeCtrlRootB else clkTimeCtrlRootA) then .next s
  else if root ≠ wanted ∨ s.route root none ≠ some k then .next s
  else if 24 < flit h 105 101 ∨ !s.inArray (flit h 123 115) ∨ flit h 123 115 = s.ownId then .next (s.invalidFrame k)
  else if (s.dom b).taken = s.timePeriod then .next s
  else
    let s1 := s.takeTime b
    let s2 := if s.domSrc b = 2 then s1.domEstimate b (s.timeOffset fr) else s1
    .next (s2.forwardTime k fr)

/-! MGMT (R289, R45). -/

/-- Links whose neighbour has an ID. -/
def State.linksOf (s : State) (id : Nat) : List Nat := (List.range 6).filter (fun l => s.linkState l != lsDisabled && s.neighbour l == id)

/-- A neighbour is unavailable for routing, or available again (R289, R368). -/
def State.markNbr (s : State) (id : Nat) (gone : Bool) : State :=
  (s.linksOf id).foldl (fun st l =>
    let v := st.fld svcNbrUnavailLink
    let st1 := st.put svcNbrUnavailLink (if gone then v ||| 2 ^ l else v &&& (63 - 2 ^ l))
    if gone then st1 else st1.modLink l (fun k => { k with back := some s.up })) s

/-- The average theta over 4,096 exchanges, in 1/1024 tick, to the nearest: theta is half of (t2 - t1) - (t4 - t3), and the stamps
are in 1/256 tick (R45, log 130). -/
def Skew.theta (k : Skew) : Int := (k.sum + 1024) / 2048

/-- SKEW_CAL completes once its exchanges are done and the upstream offset is known (R45). -/
def State.skewTry (s : State) (k : Skew) : State :=
  match k.up with
  | some off => if 4096 ≤ k.n then s.skewDone k (off + k.theta) else s
  | none => s

/-- A SKEW_X frame (R45): the answer to this device's exchange, with its stamps, or a partner's, which is answered in the modes that
forward (R372); a device whose calibration is valid adds its stored offset. -/
def State.takeSkewX (s : State) (l src : Nat) (x : SkewStamps) : State :=
  match s.skew with
  | some k =>
    if k.link = some l then
      let k1 := if k.n < 4096 then { k with n := k.n + 1, sum := k.sum + ((x.t2 - x.t1) - (x.t4 - x.t3)) } else k
      let s1 := { s with skew := some k1 }
      (if k1.n < 4096 then s1.enqueue l (s1.mgmtFrameTo src 5) else s1).skewTry k1
    else if s.forwards then s.enqueue l (s.mgmtFrameTo src 5) else s
  | none =>
    if !s.forwards then s
    else
      let s1 := s.enqueue l (s.mgmtFrameTo src 5)
      if s.flag clkSkewCalValid then s1.enqueue l (s.mgmtFrameTo src 6) else s1

/-- A SKEW_DONE frame: the upstream device's offset (R45). -/
def State.takeSkewDone (s : State) (l : Nat) (x : SkewStamps) : State :=
  match s.skew with
  | some k =>
    if k.link = some l ∧ k.up.isNone then
      let k1 := { k with up := some x.off }
      { s with skew := some k1 }.skewTry k1
    else s
  | none => s

/-- A MGMT frame addressed to this device (R289). -/
def State.takeMgmt (s : State) (l : Nat) (h : BitVec 128) (x : SkewStamps) : State :=
  let src := flit h 123 115
  match flit h 100 96 with
  | 1 => (s.sysCue 933).faceLost src
  | 2 | 4 => s.markNbr src true
  | 3 => s.markNbr src false
  | 5 => s.takeSkewX l src x
  | 6 => s.takeSkewDone l x
  | _ => if s.ghenovRuns then s else s.countReg .lnkMgmtDisc

/-- A notice comes from the neighbour on its link, or for SAFE from a face partner (R292). -/
def State.noticeOk (s : State) (l : Nat) (h : BitVec 128) : Bool :=
  let ty := flit h 100 96
  let src := flit h 123 115
  4 < ty || src == s.neighbour l || (ty == 1 && s.facePartners.contains src)

/-- MGMT_FRAME (R287, R289, R292, R293). Only notices for this device are judged by their source. -/
def execMgmtFrame (l : Fin 6) (fr : Frame) (stamps : SkewStamps) (s : State) : Res :=
  let lim := max 1 (s.fldIn (lnkRateMgmt l.val) s.now)
  let ok := flit fr.header 114 106 != s.ownId || s.noticeOk l.val fr.header
  .next (s.arrive l.val 5 fr ok (fun k => decide (lim ≤ k.mgmtN)) (fun k => { k with mgmtN := k.mgmtN + 1 })
    (fun t => t.takeMgmt l.val fr.header stamps))

/-! A tick. -/

/-- The priority of a class (R283). -/
def clsPriority (c : Nat) : Nat := match c with | 0 => 2 | 2 => 3 | 4 => 4 | 5 => 5 | _ => 6

/-- The frame of a queue that leaves first: the oldest of the highest priority. -/
def firstOut : List OutFrame → Option OutFrame
  | [] => none
  | x :: xs => match firstOut xs with
    | some y => if clsPriority y.cls < clsPriority x.cls then some y else some x
    | none => some x

/-- A frame as it leaves (R54): a root's TIME frame takes WT as its origin; a forwarded one adds its residence, in ticks of the
present increment, to its correction; the CRC covers both. -/
def State.leaving (s : State) : OutFrame → OutFrame
  | .time h p rx =>
    let q := match rx with
      | none => [BitVec.ofNat 128 (s.wtSec * 2 ^ 80 + s.wtNs * 2 ^ 48), 0]
      | some u =>
        let p1 := (p.getD 1 0).toNat
        let add := ((s.up - u : Nat) : Int) * (2 ^ 32 + s.adj) / 2 ^ 16
        [p.getD 0 0, BitVec.ofNat 128 (p1 / 2 ^ 64 * 2 ^ 64 + twos 64 (sext 64 (p1 % 2 ^ 64) + add))]
    let h1 := BitVec.ofNat 128 (h.toNat / 2 ^ 32 * 2 ^ 32)
    .flits 4 (h1 ||| BitVec.ofNat 128 (frameCrc h1 q)) q
  | f => f

/-- A frame may leave on link l: LINK frames at any time, others while it is UP, in SERVICE MGMT alone (R295); a link that has
gone to KEEPALIVE still sends the notice of it (R279, R289). -/
def State.mayLeave (s : State) (l cls : Nat) : Bool :=
  cls == 0 || (s.linkState l == lsUp && (s.mode != .service || cls == 5)) || (s.linkState l == lsKeepalive && cls == 5)

/-- Link l sends one frame: DECISION first; SYNDROME, BULK and MGMT go to the replay buffer (R283, R287). -/
def State.sendOne (s0 : State) (l : Nat) : State :=
  let s := s0.fillDec l
  let k := s.link l
  if s.mayLeave l 1 && !k.dec.isEmpty then s.modLink l (fun q => { q with dec := q.dec.drop 1, wire := (q.dec.head?).map (fun w => .flits 1 w []) })
  else match firstOut (k.out.filter (fun x => s.mayLeave l x.cls)) with
  | none => s
  | some f =>
    let c := f.cls
    let keep := (c == 2 || c == 3 || c == 5) && s.linkState l == lsUp
    s.modLink l (fun q => { q with
      out := q.out.erase f
      wire := some (s.leaving f)
      sent := if keep then q.sent ++ [⟨q.nextSeq, f, s.up, 0⟩] else q.sent
      nextSeq := if keep then q.nextSeq + 1 else q.nextSeq })

end Sys2Proof.Machine
end

