-- ==== Sys2Proof/Machine/Host.lean ====
section
/-! DEFINITION. The host interface (17): the command ring, completions and result rings, interrupts, link up and down, IDE and
SPDM; and the service Ethernet's control (R381). -/
namespace Sys2Proof.Machine

/-! The command ring (R304 to R306). -/

/-- Completions produced or owed that the host has not acknowledged (R306). -/
def State.owed (s : State) : Nat :=
  let trans := b2n (s.trans.any (fun t => t.cmd.isSome))
  s.cpls.length + s.adminQ.length + s.bg.length + trans + b2n s.skew.isSome + s.caller.cut.length

/-- TAIL_WRITE (R304): a doorbell, which the always-on domain takes in DORMANT too (R21). -/
def execTailWrite (v : BitVec 16) (s : State) : Res :=
  if !s.power then .next s
  else if 2 ^ s.fld hstCmdCfgLog2 < (v.toNat + 65536 - s.fld hstCmdHeadHead) % 65536 then .next (s.raiseBit hstCmdHeadTailBad)
  else .next (s.put hstCmdTailTail v.toNat)

/-- The device reads a command (R306, R318). -/
def State.fetches (s : State) : Bool :=
  s.power && s.flag hstCmdCfgEn && s.fld hstCmdHeadHead != s.fld hstCmdTailTail && !s.ideStop
    && decide (s.owed < 2 ^ s.fld hstCplCfgLog2)

/-- A command joins the administrative queue, or finds it full (R340). -/
def State.enqueueCmd (s : State) (op : Nat) (c : Cmd) : State :=
  if 64 ≤ s.adminQ.length then s.complete c.tag op .busy
  else
    let q : QueuedCmd := { tag := c.tag, opcode := op, rsvd := c.rsvd, words := c.words }
    let s1 := { s with adminQ := s.adminQ ++ [q] }
    (s1.put glbCallerLoadQmax (max (s1.fld glbCallerLoadQmax) s1.adminQ.length)).skimQ

/-- The command of an entry (R305). -/
def cmdOf (entry : List Word) : Cmd :=
  let w0 := entry.headD 0
  { tag := BitVec.ofNat 16 (w0.bits 31 16), rsvd := BitVec.ofNat 8 (w0.bits 15 8), words := entry.drop 1 }

/-- COMMAND_FETCH (R304 to R306, R22, R33, R340): one entry is read and HEAD advances; an ENTER_SAFE is executed at once. An
entry is 16 words. -/
def execCommandFetch (entry : List Word) (s : State) : Res :=
  if entry.length ≠ 16 then .fault .illFormed
  else if !s.fetches then .next s
  else
    let s1 := s.put hstCmdHeadHead ((s.fld hstCmdHeadHead + 1) % 65536)
    let op := (entry.headD 0).bits 7 0
    .next (if op = 0x16 then s1.doEnterSafe (cmdOf entry) else s1.enqueueCmd op (cmdOf entry))

/-! Completions and result rings (R307 to R312). -/

/-- Completions are written to the ring (R311, R318). -/
def State.cplOn (s : State) : Bool := s.flag hstCplCfgEn && !s.ideStop

/-- Completions that have waited are written, and signalled (R311, R315, R318). -/
def State.cplVisible (s : State) : State := if !s.cpls.isEmpty && s.flag hstCplCfgIrqEn && s.cplOn then s.msi 0 else s

/-- An acknowledgement of the completion ring (R310, R312). -/
def State.ackCpl (s : State) (k : Nat) : State :=
  let j := (k + 2 ^ 28 - s.cplAck) % 2 ^ 28
  if s.cplOn && decide (1 ≤ j) && decide (j ≤ s.cpls.length) then
    { s with cpls := s.cpls.drop j, cplAck := k, lastCpl := s.cpls[j - 1]? }
  else s.raiseBit hstCplStatAckBad

/-- An acknowledgement of result ring n (R310). -/
def State.ackRing (s : State) (n k : Nat) : State :=
  let es := s.ringEntries n
  if es.any (fun e => e.1 == k) then
    { s with hostRing := tabPut s.hostRing n ((es.dropWhile (fun e => e.1 != k)).drop 1) }
  else s.raiseBit (hstRrStatAckBad n)

/-- RING_ACK (R310, R312): a register write, which DORMANT ignores (R26). -/
def execRingAck (r : RingId) (k : BitVec 28) (s : State) : Res :=
  if !s.alive then .next s
  else match r with
  | .cmd => .next s
  | .cpl => .next (s.ackCpl k.toNat)
  | .rr n => .next (s.ackRing n.val k.toNat)

/-- RING_ENABLE (R304, R311, R314): EN goes from 0 to 1. The command ring's HEAD takes TAIL; the others count from 1, and
completions that wait are written. -/
def execRingEnable (r : RingId) (s : State) : Res :=
  if !s.alive then .next s
  else match r with
  | .cmd => .next (if s.flag hstCmdCfgEn then s else (s.raiseBit hstCmdCfgEn).put hstCmdHeadHead (s.fld hstCmdTailTail))
  | .cpl =>
    if s.flag hstCplCfgEn then .next s
    else
      .next ({ s.raiseBit hstCplCfgEn with cplAck := 0 }.cplVisible)
  | .rr n =>
    if s.flag (hstRrCfgEn n) then .next s
    else .next ({ s.raiseBit (hstRrCfgEn n) with hostRing := tabDel s.hostRing n }.put (hstRrStatProd n) 0)

/-- RR16_POST (R309, R311): the oldest buffered notice. -/
def execRr16Post (s : State) : Res :=
  match s.rr16 with
  | [] => .next s
  | w :: ws =>
    if !s.power || s.ringFull 16 then .next s
    else .next ({ s with rr16 := ws }.ringPush 16 w (fun k => BitVec.ofNat 32 (9 * 2 ^ 28 + k)))

/-! Interrupts, link and resets. -/

/-- MSIX_SEND (R315): at least 1 µs after the vector's last message. -/
def execMsixSend (v : Fin 20) (s : State) : Res :=
  if !s.power || !s.msix.contains v.val then .next s
  else
    let s1 := match tabFind s.msixLast v.val with | some u => s.elapseTo (u + 1000) | none => s
    .next { s1 with msix := s1.msix.filter (· != v.val), msixLast := tabPut s1.msixLast v.val s1.up }

/-- HOST_LINK_DOWN (R314): configuration space, IDE state, ring enables and the MSI-X table, and nothing else. -/
def execHostLinkDown (s : State) : Res :=
  if !s.power then .next s
  else
    let s1 := (((s.put hstCmdCfgEn 0).put hstCplCfgEn 0).put hstLinkStatIdeIo 0).put hstLinkStatIdeCm 0
    let s2 := (List.range 17).foldl (fun st n => st.put (hstRrCfgEn n) 0) s1
    .next { s2 with msix := [], msixLast := [], ideStop := false, spdm := {} }

/-- HOST_LINK_UP (R300): the mode, speed and width reached; a speed or width that R299 does not list cannot arise. -/
def execHostLinkUp (cxl : Bool) (speed : BitVec 2) (width : Fin 9) (s : State) : Res :=
  if !s.power || speed == 0 || !([1, 2, 4, 8].contains width.val) then .next s
  else .next (((s.put hstLinkStatCxl (b2n cxl)).put hstLinkStatSpeed speed.toNat).put hstLinkStatWidth width.val)

/-- The established bit of the IDE stream of CXL or of PCIe. -/
def ideBit (cxl : Bool) : Fld := if cxl then hstLinkStatIdeCm else hstLinkStatIdeIo

/-- IDE_FAILURE (R318): the stream that fails becomes insecure. -/
def execIdeFailure (cxl : Bool) (s : State) : Res :=
  if !s.power || !s.flag (ideBit cxl) then .next s
  else
    let s1 := (s.put (ideBit cxl) 0).raiseBit hstLinkStatIdeFail
    .next ({ s1.msi 19 with ideStop := true }.logEntry 0x01 1 0 (s1.rd .hstLinkStat))

/-! SPDM (R316, R317). -/

/-- The words of a SHA-384 digest, low word first. -/
def digestWords (d : BitVec 384) : List Word := (List.range 12).map (fun i => BitVec.ofNat 32 (d.toNat >>> (32 * i)))

/-- A measurement block (R317). -/
def State.measurement (s : State) (i : Nat) : List Word :=
  let f := s.flash
  let copy := s.flag glbCallerStatGhCopy
  if i = 1 then digestWords Config.romDigest
  else if i = 2 then digestWords (Config.imageDigest 1 (f.copy 1 copy).version (f.copy 1 copy).svn)
  else if i = 3 then digestWords (Config.imageDigest 2 (s.rd .ucsPatchVer) (s.fld ucsPatchSvnSvn)) ++ [s.rd .ucsPatchSvn]
  else if i < 7 then
    if (s.rd .ucsOpenVer (i - 4)).bit 31 then (List.range 12).map (fun w => s.rd .ucsOpenDig (i - 4) w) else List.replicate 12 0
  else words64 Config.serial.toNat ++ [s.rd .lnkId, s.capWord]

/-- The blocks an index names: one of 1 to 7, or every block. -/
def blocksOf (i : Nat) : Option (List Nat) :=
  if 1 ≤ i ∧ i ≤ 7 then some [i] else if i = 0 then some [] else if i = 255 then some [1, 2, 3, 4, 5, 6, 7] else none

/-- SPDM_REQUEST (R316, R317): IDE keys are programmed in a session only, and lift the stop of R318. -/
def execSpdmRequest (q : SpdmReq) (s : State) : Res :=
  if !s.alive then .next s
  else
    let say (p : Spdm) (a : Option (List (Nat × List Word))) : State := { s with spdm := { p with answer := a } }
    let p := s.spdm
    match q with
    | .getVersion | .getCapabilities | .negotiateAlgorithms | .getDigests | .getCertificate | .challenge | .chunk =>
      .next (say p (some []))
    | .getMeasurements i => .next (say p ((blocksOf i).map (fun l => l.map (fun k => (k, s.measurement k)))))
    | .keyExchange => .next (say { p with keyed := true } (some []))
    | .finish ok =>
      if p.keyed && ok then .next (say { p with keyed := false, session := true } (some []))
      else .next (say { p with keyed := false } none)
    | .keyUpdate => .next (say p (if p.session then some [] else none))
    | .endSession => .next (say { p with session := false } (if p.session then some [] else none))
    | .ideKeyProg cxl =>
      if p.session && (!cxl || s.flag hstLinkStatCxl) then
        .next ({ (say p (some [])).raiseBit (ideBit cxl) with ideStop := false }.cplVisible)
      else .next (say p none)
    | .unsupported => .next (say p none)

/-! Service Ethernet. -/

/-- ETH_CTRL_WRITE (R381, R53): a change of MODE or EN restarts the port, and domains that take PTP lose their source. -/
def execEthCtrlWrite (v : Word) (s : State) : Res :=
  if !s.alive || s.mode == .boot then .next s
  else
    let s1 := s.writeOwn ⟨.ethCtrl, 0, 0⟩ v
    if s1.rd .ethCtrl = s.rd .ethCtrl then .next s
    else
      let s2 := (s1.put ethStatLink 0).put ethStatSpeed (s1.fld ethCtrlMode)
      .next ([false, true].foldl (fun st b => if st.domSrc b = 1 then st.sourceLost b else st) s2)

end Sys2Proof.Machine
end

