-- ==== Sys2Proof/Machine/Housekeeping.lean ====
section
/-! DEFINITION. Housekeeping (21): sensors, zones, thresholds with dwell, rail monitors (R389, R391), the CRIT trip and the flash
rail. -/
namespace Sys2Proof.Machine

/-- Zone of a sensor (R353). -/
def zoneOf (c : Nat) : Nat := if c < 12 then c / 3 else if c < 18 then 4 else if c < 20 then 5 else 6 + (c - 20) / 2

/-- Sensors of a zone. -/
def sensorsOf (z : Nat) : List Nat := (List.range 28).filter (fun c => zoneOf c == z)

/-- Threshold k of zone z in the round in progress, in 1/8 °C: LOW_CRIT, LOW_WARN, HOT_WARN, HOT_SAFE, CRIT (R356, R362). -/
def State.threshold (s : State) (z k : Nat) : Int :=
  let w := tabGet s.hkp.thr z (s.rd .hkpThrA z, s.rd .hkpThrB z)
  8 * sext 8 (if k < 4 then w.1.bits (8 * k + 7) (8 * k) else w.2.bits 7 0)

/-- A dwell count takes one round (R357): `hit` the set condition, `clear` the clear condition. -/
def Dwell.round (d : Dwell) (hit clear : Bool) : Dwell :=
  if hit then { flag := d.flag || decide (2 ≤ d.up), up := min 3 (d.up + 1), down := 0 }
  else if clear then { flag := d.flag && !decide (2 ≤ d.down), up := 0, down := min 3 (d.down + 1) }
  else { flag := d.flag, up := 0, down := 0 }

/-- Threshold k with value t judges a reading in one round (R356, R357): low thresholds are 0 and 1. -/
def Dwell.judge (d : Dwell) (k : Nat) (t reading : Int) : Dwell :=
  if k < 2 then d.round (decide (reading ≤ t)) (decide (t + 24 ≤ reading))
  else d.round (decide (t ≤ reading)) (decide (reading ≤ t - 24))

/-- Why a sensor is broken (R355), 0 when it is not. -/
def brokenCause (r : SensorReading) (same : Nat) : Nat :=
  if r.opened then 1 else if r.shorted then 2 else if 64 ≤ same then 3
  else if r.temp < -440 ∨ 1200 < r.temp then 4 else 0

/-- One sensor's reading (R354, R355): a sensor that becomes broken is logged. -/
def State.readSensor (s : State) (x : SensorReading × Nat) : State :=
  let c := x.2
  let r := x.1
  let old := tabFind s.hkp.sensors c
  let same := match old with | some h => if h.raw = r.raw then min 64 (h.same + 1) else 1 | none => 1
  let s1 := { s with hkp := { s.hkp with sensors := tabPut s.hkp.sensors c ⟨r.raw, same⟩ } }.put (hkpSensTemp c) (twos 16 r.temp)
  let cause := brokenCause r same
  if s1.flag (hkpSensBroken c) || cause == 0 then s1
  else
    let s2 := (s1.raiseBit (hkpSensBroken c)).put (hkpSensCause c) cause
    s2.logEntry 0x04 1 c (s2.rd .hkpSens c)

/-- A sensor's part in its zone's reading: a broken one contributes HOT_SAFE (R354). -/
def State.sensorTemp (s : State) (c : Nat) : Int :=
  if s.flag (hkpSensBroken c) then s.threshold (zoneOf c) 3 else sext 16 (s.fld (hkpSensTemp c))

/-- A zone's reading (R354). -/
def State.zoneTemp (s : State) (z : Nat) : Int :=
  match sensorsOf z with
  | [] => 0
  | c :: cs => cs.foldl (fun m i => max m (s.sensorTemp i)) (s.sensorTemp c)

/-- Every sensor of a zone is broken (R354). -/
def State.zoneBlind (s : State) (z : Nat) : Bool := (sensorsOf z).all (fun c => s.flag (hkpSensBroken c))

/-- The sensor with the greatest reading; 31 when every sensor is broken (HKP_TRIP). -/
def State.hottest (s : State) (z : Nat) : Nat :=
  if s.zoneBlind z then 31 else ((sensorsOf z).find? (fun c => s.sensorTemp c == s.zoneTemp z)).getD 31

/-- The dwell of threshold k of zone z. -/
def State.zoneDwell (s : State) (z k : Nat) : Dwell := tabGet s.hkp.zones (z * 5 + k) {}

/-- One zone's thresholds are judged (R356, R357, R359): in DORMANT only HOT_SAFE and CRIT (R352). -/
def State.judgeZone (s : State) (z : Nat) : State :=
  let t := s.zoneTemp z
  let ks := if s.mode = .dormant then [3, 4] else [0, 1, 2, 3, 4]
  let step (tb : Tab Dwell) (k : Nat) : Tab Dwell :=
    let d := (s.zoneDwell z k).judge k (s.threshold z k) t
    tabPut tb (z * 5 + k) (if k = 4 ∧ s.zoneBlind z then { d with flag := true } else d)
  let s1 := { s with hkp := { s.hkp with zones := ks.foldl step s.hkp.zones } }
  let state := if s1.zoneFlag z 3 then 4 else if s1.zoneFlag z 2 then 3 else if s1.zoneFlag z 0 then 2
    else if s1.zoneFlag z 1 then 1 else 0
  let broken := ((sensorsOf z).filter (fun c => s.flag (hkpSensBroken c))).length
  ((s1.put (hkpZstatTemp z) (twos 16 t)).put (hkpZstatBroken z) broken).put (hkpZstatState z) state

/-! Rail monitors. -/

/-- Nominal voltages in mV (R389). -/
def railNominal : List Int :=
  [750, 800, 800, 800, 800, 1000, 1000, 1000, 1000, 1800, 3300, -3300, 750, 500, 1050, 900, 1800, 1800]

/-- Current limits in 10 mA (R389). -/
def railLimit : List Int :=
  [24000, 5000, 5000, 5000, 5000, 3000, 3000, 3000, 3000, 1600, 800, 800, 6000, 2400, 2400, 2500, 100, 50]

/-- Monitor m reads inside its limits (R358, R389): voltages within 5% of nominal, currents up to the limit. -/
def monInside (m : Nat) (v : Int) : Bool :=
  if m % 2 = 0 then decide (20 * (v - railNominal.getD (m / 2) 0).natAbs ≤ (railNominal.getD (m / 2) 0).natAbs)
  else decide (v ≤ railLimit.getD (m / 2) 0)

/-- Monitor m is judged (R391): the sequencer runs, and its rail is on. -/
def State.monJudged (s : State) (m : Nat) : Bool :=
  s.mode != .dormant && (if m / 2 < 16 then s.railEn (m / 2) else if m / 2 = 16 then true else s.flashRail)

/-- One monitor's reading (R358). The counts of a monitor that is not judged restart. -/
def State.readMonitor (s : State) (x : Int × Nat) : State :=
  let m := x.2
  if s.mode = .dormant then s
  else
    let d := tabGet s.hkp.mons m {}
    let ok := monInside m x.1
    let d1 : Dwell := if s.monJudged m then d.round (!ok) ok else { d with up := 0, down := 0 }
    let s1 := { s with hkp := { s.hkp with mons := tabPut s.hkp.mons m d1 } }
    let s2 := (s1.put (hkpMonValue m) (twos 16 x.1)).put (hkpMonOut m) (b2n d1.flag)
    if d1.flag && !d.flag then s2.raiseBit (hkpMonSeen m) else s2

/-- HKP_PWR (R363): how the monitors' readings give the module's input power is left open. -/
def State.readPower (s : State) : State :=
  if s.mode = .dormant then s
  else
    let q := s.takeFree
    let w : Word := Config.freeWord q.1
    let s1 := q.2.put hkpPwrPower (w.bits 15 0)
    s1.put hkpPwrPeak (max (s1.fld hkpPwrPeak) (w.bits 15 0))

/-- HKP_STAT after a round. -/
def State.hkpShow (s : State) : State :=
  let any (k : Nat) : Nat := b2n ((List.range 10).any (fun z => s.zoneFlag z k))
  let s1 := ((s.put hkpStatLowCritAny (any 0)).put hkpStatHotWarnAny (any 2)).put hkpStatHotSafeAny (any 3)
  (s1.put hkpStatRailAny (b2n ((List.range 36).any (fun m => s.flag (hkpMonOut m))))).put hkpStatFlashOpen (b2n s.flashOpen)

/-! Actions. -/

/-- Flags of threshold k that a round set. -/
def newFlags (old s : State) (k : Nat) : List Nat := (List.range 10).filter (fun z => s.zoneFlag z k && !old.zoneFlag z k)

/-- What a round's new flags do (R356, R358): cue 935, and the causes THERM, RAIL and LOWCRIT, the last only in CALIBRATE, ARMED
and RUN. -/
def State.hkpCauses (old s : State) : State :=
  let s1 := if (newFlags old s 2).isEmpty then s else s.sysCue 935
  let kept := s1.hkp.lowCause.filter (fun z => s1.zoneFlag z 0)
  let running := s1.mode == .calibrate || s1.mode == .armed || s1.mode == .run
  let low := if running then newFlags old s 0 else []
  let s2 := { s1 with hkp := { s1.hkp with lowCause := kept ++ low } }
  let s3 := if (newFlags old s 3).isEmpty then s2 else s2.safeCause 2
  let rail := (List.range 36).any (fun m => s.flag (hkpMonOut m) && !old.flag (hkpMonOut m))
  let s4 := if rail then s3.safeCause 6 else s3
  if low.isEmpty then s4 else s4.safeCause 8

/-- A flash write is in progress: a job's, or the append of a pending record (R360). -/
def State.flashWriting (s : State) : Bool :=
  s.bg.any (fun b => match b.job with | .flashWrite .. => true | _ => false)
    || (s.ghenovRuns && s.flashOpen && !s.flash.todo.isEmpty)

/-- The CRIT trip (R359, R360): every rail but the always-on and the flash rail drops; the record being appended is torn. -/
def State.critTrip (s : State) (z : Nat) : State :=
  let held := s.flashWriting
  let tear := s.ghenovRuns && s.flashOpen && !s.flash.todo.isEmpty
  let f := s.flash
  let s1 := { s with power := false, tripped := true,
                     flash := if tear then f.setRegion f.region { f.journalIn with torn := true } else f }
  (((s1.put hkpTripValid 1).put hkpTripFlashHeld (b2n held)).put hkpTripZone z).put hkpTripSensor (s.hottest z)

/-- Readings and judgements of one round, at its last tick (R352). -/
def State.hkpRead (s : State) (sensors : List SensorReading) (monitors : List Int) : State :=
  let s1 := ((sensors.take 28).zipIdx).foldl State.readSensor s
  let s2 := (List.range 10).foldl State.judgeZone s1
  let s3 := (((monitors.take 36).zipIdx).foldl State.readMonitor s2).readPower
  ({ s3 with hkp := { s3.hkp with thr := [] } }.wr .hkpRound ((s3.rdn .hkpRound + 1) % 2 ^ 32)).hkpShow

/-- The last tick of the round in progress (R39, R352): in BOOT rounds run on elapsed ticks. One that TT's start or jump ended is
over already. -/
def State.roundEnd (s : State) : State :=
  if s.hkp.cut then { s with hkp := { s.hkp with cut := false } }
  else if s.mode = .boot then s.elapseTo ((s.up / 1000000 + 1) * 1000000 - 1) else s.advanceTo (s.nextInterval 1000000 - 1)

/-- HOUSEKEEPING_ROUND (R352 to R360, R39): it ends with the first tick of the next round. -/
def execHousekeepingRound (sensors : List SensorReading) (monitors : List Int) (s : State) : Res :=
  if !s.power then .next s
  else
    let s1 := s.roundEnd
    let s2 := State.hkpCauses s1 (s1.hkpRead sensors monitors)
    match newFlags s1 s2 4 with
    | [] => .next (if s.hkp.cut then s2 else s2.elapseTo (s2.up + 1))
    | z :: _ => .next (s2.critTrip z)

/-- FLASH_RAIL_DROP (R360): the flash is not busy, or 5 ms have passed. -/
def execFlashRailDrop (s : State) : Res := if s.tripped && s.flashRail then .next { s with flashRail := false } else .next s

end Sys2Proof.Machine
end

