-- ==== Sys2Proof/Machine/Integer.lean ====
section
/-! DEFINITION. The integer instructions of J-ISA (R86): 32-bit two's complement, wrapping, register and immediate forms. -/
namespace Sys2Proof.Machine

/-- gD := op(gA, op2) (R86). -/
def State.intOp (s : State) (e : Nat) (i : Bool) (f : JWord) (F : Form) (cost : Nat) (op : Word → Word → Word) : Res :=
  s.issuePlain e f F (fun _ => true) cost
    (fun t g => t.setEng e (g.setReg f.d.toNat (op (g.reg f.a.toNat) (g.op2 i f))))

/-- The shift amount of R86, bits [4:0]. -/
def shAmt (w : Word) : Nat := w.bits 4 0

/-- LI. -/
def execLi (e : Fin 1024) (f : JWord) (s : State) : Res :=
  s.issuePlain e f { dm := 31, im := 0xFFFFFFFF, rd := true } (fun _ => true) 1 (fun t g => t.setEng e (g.setReg f.d.toNat f.imm))

/-- ADD. -/
def execAdd (e : Fin 1024) (i : Bool) (f : JWord) (s : State) : Res := s.intOp e i f (intForm i) 1 (· + ·)

/-- SUB. -/
def execSub (e : Fin 1024) (i : Bool) (f : JWord) (s : State) : Res := s.intOp e i f (intForm i) 1 (· - ·)

/-- AND. -/
def execAnd (e : Fin 1024) (i : Bool) (f : JWord) (s : State) : Res := s.intOp e i f (intForm i) 1 (· &&& ·)

/-- OR. -/
def execOr (e : Fin 1024) (i : Bool) (f : JWord) (s : State) : Res := s.intOp e i f (intForm i) 1 (· ||| ·)

/-- XOR. -/
def execXor (e : Fin 1024) (i : Bool) (f : JWord) (s : State) : Res := s.intOp e i f (intForm i) 1 (· ^^^ ·)

/-- SHL: zeros in. -/
def execShl (e : Fin 1024) (i : Bool) (f : JWord) (s : State) : Res := s.intOp e i f (shiftForm i) 1 (fun a b => a <<< shAmt b)

/-- SHR: zeros in. -/
def execShr (e : Fin 1024) (i : Bool) (f : JWord) (s : State) : Res := s.intOp e i f (shiftForm i) 1 (fun a b => a >>> shAmt b)

/-- SAR: the sign in. -/
def execSar (e : Fin 1024) (i : Bool) (f : JWord) (s : State) : Res :=
  s.intOp e i f (shiftForm i) 1 (fun a b => a.sshiftRight (shAmt b))

/-- MUL: the low 32 bits, two ticks. -/
def execMul (e : Fin 1024) (i : Bool) (f : JWord) (s : State) : Res := s.intOp e i f (intForm i) 2 (· * ·)

/-- The conditions of CMP (R86). -/
def cmpCond (c : Nat) (a b : Word) : Bool :=
  match c with
  | 0 => a == b
  | 1 => a != b
  | 2 => a.slt b
  | 3 => !a.slt b
  | 4 => a.ult b
  | 5 => !a.ult b
  | _ => a &&& b != 0

/-- CMP: condition 111 is illegal, and D[2:0] = 0 writes nothing. -/
def execCmp (e : Fin 1024) (i : Bool) (f : JWord) (s : State) : Res :=
  s.issuePlain e f { intForm i with dm := 7, em := 7, rd := false, pd := true } (fun _ => f.e.toNat % 8 != 7) 1
    (fun t g => t.setEng e (g.setPred (f.d.toNat % 8) (cmpCond (f.e.toNat % 8) (g.reg f.a.toNat) (g.op2 i f))))

/-- SEL: at level 1 the predicate is one of p0 to p3 (R75). -/
def execSel (e : Fin 1024) (f : JWord) (s : State) : Res :=
  s.issuePlain e f { dm := 31, am := 31, bm := 31, em := 7, rd := true, ra := true, rb := true }
    (fun g => g.level != 1 || f.e.toNat % 8 < 4) 1
    (fun t g => t.setEng e (g.setReg f.d.toNat (if g.pred (f.e.toNat % 8) then g.reg f.a.toNat else g.reg f.b.toNat)))

end Sys2Proof.Machine
end

