-- ==== Sys2Proof/Machine/Memory.lean ====
section
/-! DEFINITION. Bulk memory's rows (18) and the host's accesses to it (R301, R302): requests, errors, refresh, margins, scrubbing,
self-refresh and row-disturbance throttling. -/
namespace Sys2Proof.Machine

/-- Bulk memory answers: the device has power and is neither in BOOT nor in DORMANT. -/
def State.memUp (s : State) : Bool := s.power && s.mode != .boot && s.mode != .dormant

/-- A request reaches a group (R326, R327): it waits for a refresh stall to end, and a group in self-refresh exits. -/
def State.touchGroup (s : State) (a : Nat) : State :=
  let s1 := s.advanceTo s.mem.stallTo
  match s1.groupOf a with
  | some g => { s1 with mem := { s1.mem with
      selfRef := s1.mem.selfRef &&& ~~~(1#4 <<< g)
      lastReq := tabPut s1.mem.lastReq g s1.up } }
  | none => s1

/-- HDM_ACCESS (R302, R325, R327): a CXL.mem access of up to a line. -/
def execHdmAccess (write : Bool) (off : Nat) (data : List Byte) (s : State) : Res :=
  if !s.power || !s.flag hstLinkStatCxl then .next s
  else if s.mode = .dormant then .next (if write then s else { s with answer := some (data, true) })
  else
    let s1 := s.touchGroup off
    let lost := !s1.bulkUsable off data.length
    let s2 := if lost then s1.countReg .hstPoisonCnt else s1
    if write then .next (if lost then s2 else s2.bulkWrite off data)
    else .next { s2 with answer := some (s2.bulkBytes off data.length, lost || !s2.notPoisoned off data.length) }

/-- BAR4_ACCESS (R301, R325, R327): a lost or poisoned line, and an access beyond usable memory, reads all ones. -/
def execBar4Access (write : Bool) (off : BitVec 32) (data : List Byte) (s : State) : Res :=
  let a := s.fld hstBwinBase * 2 ^ 32 + off.toNat
  let ones := data.map (fun _ => (0xFF : Byte))
  if !s.power then .next s
  else if s.mode = .dormant then .next (if write then s else { s with answer := some (ones, false) })
  else
    let s1 := if (s.groupOf a).isSome then (s.touchGroup a).countLost a data.length else s.touchGroup a
    if write then .next (if s1.bulkUsable a data.length then s1.bulkWrite a data else s1)
    else if s1.bulkUsable a data.length && s1.notPoisoned a data.length then
      .next { s1 with answer := some (s1.bulkBytes a data.length, false) }
    else .next { s1 with answer := some (ones, false) }

/-- BULK_REQUEST (R325, R326, R328): one request of a source is served, with what its line shows. -/
def execBulkRequest (_src : BulkSrc) (write : Bool) (off : Nat) (data : List Byte) (ecc : EccEvent) (s : State) : Res :=
  if !s.memUp then .next s
  else
    let s1 := s.touchGroup off
    if !s1.bulkUsable off data.length then .next (s1.countReg .hstPoisonCnt)
    else
      let s2 := match ecc with
        | .clean => s1
        | .corrected => s1.countReg .memEccCe
        | .uncorrectable => s1.uncorrectable off
      .next (if write then s2.bulkWrite off data
        else { s2 with answer := some (s2.bulkBytes off data.length, !s2.notPoisoned off data.length) })

/-- MEM_ERROR_INTERVAL (R321, R39): the counts of uncorrectable errors restart. -/
def execMemErrorInterval (s : State) : Res :=
  if !s.power || s.mode == .dormant then .next s
  else
    let s1 := s.toInterval 1000000
    .next { s1 with mem := { s1.mem with ue := [] } }

/-- REFRESH (R326, R39): in BOOT on elapsed ticks, where no requester waits yet; then at the first tick after TT started or was
loaded, then at each multiple of the interval, every requester stalls for 280 ticks. -/
def execRefresh (s : State) : Res :=
  let p := if s.flag memStatRefX2 then 1952 else 3904
  if !s.power || s.mode == .dormant then .next s
  else if s.mode = .boot then .next (s.toInterval p)
  else
    let t := if s.mem.stallTo = 0 then max s.now s.ttFrom else (s.now / p + 1) * p
    let s1 := s.advanceTo t
    .next { s1 with mem := { s1.mem with stallTo := t + 280 } }

/-- A delay moves by at most one code of 0 to 127. -/
def nudge (v : Nat) (d : Int) : Nat := (clampInt 0 127 (v + clampInt (-1) 1 d)).toNat

/-- A channel's next margin measurement: 1 ms after its last one at the soonest (R324). -/
def State.remeasured (s : State) (c : Nat) : State :=
  let s1 := s.elapseTo (tabGet s.mem.margins c 0 + 1000000)
  { s1 with mem := { s1.mem with margins := tabPut s1.mem.margins c s1.up } }

/-- MARGIN_TRACK (R324): a channel's lanes are re-measured; a margin of 0 takes its group out of service (R321). -/
def execMarginTrack (c : Fin 16) (rd0 rd1 wr : Int) (margin : BitVec 7) (s0 : State) : Res :=
  let s := s0.remeasured c.val
  if !s0.memUp || !(s0.fld memStatInService).testBit (c.val / 4) then .next s0
  else
    let s1 := if s.flag memCtrlXen then s else
      ((s.put (memChDlyRd0 c.val) (nudge (s.fld (memChDlyRd0 c.val)) rd0)).put (memChDlyRd1 c.val)
        (nudge (s.fld (memChDlyRd1 c.val)) rd1)).put (memChDlyWr c.val) (nudge (s.fld (memChDlyWr c.val)) wr)
    let s2 := s1.put (memChDlyMargin c.val) (min (s1.fld (memChDlyMargin c.val)) margin.toNat)
    .next (if margin = 0 then s2.groupLeaves (c.val / 4) else s2)

/-- SCRUB (R325): the patrol scrubber reads one usable line. -/
def execScrub (off : Nat) (ecc : EccEvent) (s : State) : Res :=
  if !s.memUp || !s.bulkServed off then .next s
  else match ecc with
  | .clean => .next s
  | .corrected => .next (s.countReg .memEccCe)
  | .uncorrectable => .next (s.uncorrectable off)

/-- IDLE_SELF_REFRESH (R327): 100 µs without a request. -/
def execIdleSelfRefresh (g : Fin 4) (s : State) : Res :=
  if !s.memUp || !s.flag memCtrlIdleSr || !(s.mode == .standby || s.mode == .service) || !(s.fld memStatInService).testBit g.val
  then .next s
  else
    let s1 := s.elapseTo (tabGet s.mem.lastReq g.val 0 + 100000)
    .next { s1 with mem := { s1.mem with selfRef := s1.mem.selfRef ||| (1#4 <<< g.val) } }

/-- The refill of stream rings and the streaming of acquisition units keep their credits (R329). -/
def keepsCredits : BulkSrc → Bool
  | .refill .. | .acq .. => true
  | _ => false

/-- ROW_THRESHOLD (R329): refresh management is issued, and the source loses its credits for HOLD ticks. -/
def execRowThreshold (src : BulkSrc) (_channel : Fin 16) (_bank : Fin 16) (_row : BitVec 18) (s : State) : Res :=
  if !s.memUp then .next s
  else
    let s1 := s.countReg .memThrottleCnt
    if keepsCredits src then .next s1
    else
      let rest := s1.mem.noCredit.filter (fun e => e.1 != src)
      .next { s1 with mem := { s1.mem with noCredit := rest ++ [(src, s1.up + s1.xfld memCtrlXen memRhHold 1024)] } }

/-- CREDIT_HOLD_END (R329): the source's credits return. -/
def execCreditHoldEnd (src : BulkSrc) (s : State) : Res :=
  match s.mem.noCredit.find? (fun e => e.1 == src) with
  | none => .next s
  | some e =>
    let s1 := s.elapseTo e.2
    .next { s1 with mem := { s1.mem with noCredit := s1.mem.noCredit.filter (fun x => x.1 != src) } }

/-- STACK_TEMP_REPORT (R326): double-rate refresh lasts while a stack needs it. -/
def execStackTempReport (stack : Fin 4) (hot : Bool) (s : State) : Res :=
  if !s.memUp then .next s
  else
    let rest := s.mem.hot.filter (· != stack.val)
    let now := if hot then rest ++ [stack.val] else rest
    .next ({ s with mem := { s.mem with hot := now } }.put memStatRefX2 (b2n (!now.isEmpty)))

end Sys2Proof.Machine
end

