-- ==== Sys2Proof/Machine/Outputs.lean ====
section
/-! DEFINITION. Rows of the RF and flux outputs outside a program: mutes and attenuation (R121, R123), SELF_CAL (R125, R255),
flux faults, queue errors and ramps (R159 to R165). -/
namespace Sys2Proof.Machine

/-- MUTE (R123): RFO_CTRL.MUTE, in force from the next tick. -/
def execMute (o : Fin 80) (v : Bool) (s : State) : Res :=
  if s.alive then .next (s.stageWrite.put (rfoCtrlMute o.val) (b2n v)) else .next s

/-- CUE_MUTED_RELEASE (R123). -/
def execCueMutedRelease (o : Fin 80) (s : State) : Res := if s.alive then .next (s.put (rfoStatCueMuted o.val) 0) else .next s

/-- ATT_WRITE (R121): applied at once, within the 1 µs, or held back in RUN. -/
def execAttWrite (o : Fin 80) (v : BitVec 6) (s : State) : Res :=
  if !s.alive || s.mode == .boot then .next s
  else
    let s1 := s.put (rfoAttAtt o.val) v.toNat
    if s.mode == .run then .next (s1.raiseBit (rfoStatAttPend o.val)) else .next (s1.put (rfoAttAttEff o.val) v.toNat)

/-- A measured trim, which depends on the paths and is left open, is stored. -/
def State.storeTrim (s : State) (valid eff : Fld) : State :=
  let q := s.takeFree
  let w : Word := Config.freeWord q.1
  (q.2.put eff (w.bits 7 0)).put valid 1

/-- The routed lines and vector pins are measured (R125, R255). -/
def State.calPins (s : State) : State :=
  (List.range 64).foldl (fun st p =>
    match st.fld (mvpPinCfgFunc p), st.fld (mvpPinCfgMsrc p) with
    | 1, _ => st.storeTrim (mvpPinTrimValid p) (mvpPinTrimTrimEff p)
    | 2, n => if n < 1536 then st.storeTrim (lineTrimValid n) (lineTrimEff n) else st
    | _, _ => st) s

/-- SELF_CAL (R125). -/
def execSelfCal (c : Cmd) (s : State) : Res := s.admin 0x32 c (Cmd.only c []) (fun t => t.calPins.complete c.tag 0x32 .ok)

/-! Flux faults. -/

/-- A flux output parks (R163, R165): a ramp in progress goes on. -/
def State.park (s : State) (i : Nat) : State :=
  let s1 := s.raiseBit (flxStatParked i)
  if s.flag (flxStatRamping i) then s1 else s1.startRamp i (s.parkCode i)

/-- The class of a fault (R162): OPEN when the delivered current, in 1/16 code, is below 1/16 of the commanded one. -/
def faultOpen (code : Int) (delivered : Nat) : Bool := code != 0 && decide (delivered < code.natAbs)

/-- FLUX_FAULT (R162, R163, R165): the samples from `since` on are at limit, and the fault is registered with the 16th of them. A
condition that persists raises no other: its samples follow on from those of the last fault. -/
def execFluxFault (i : Fin 256) (since delivered : Nat) (s0 : State) : Res :=
  let k := i.val
  let s1 := s0.advanceTo ((since + 15) / 2)
  let s := s1.setFlx k { s1.flx k with limit := some since }
  if !s0.alive || !s0.flag (flxStatOn k) || (s0.flx k).limit == some since then .next s0
  else
    let opened := faultOpen ((s.settle (s.now + 1)).flx k).code delivered
    let s1 := if opened then (s.raiseBit (flxStatOpen k)).count (flxFaultCntOpenCnt k)
      else (s.raiseBit (flxStatCompl k)).count (flxFaultCntComplCnt k)
    let s2 := (s1.logEntry 0x30 1 k (s1.rd .flxStat k)).dieCue 907
    match s.fld (flxCtrlFact k) with
    | 1 => .next (s2.park k)
    | 2 => .next (s2.safeCause 3)
    | _ => .next s2

/-- QUEUE_ERROR (R159, R165). -/
def execQueueError (i : Fin 256) (s : State) : Res :=
  let k := i.val
  if !s.alive || !s.flag (flxStatOn k) then .next s
  else
    let s1 := s.raiseBit (flxStatQerr k)
    let s2 := s1.logEntry 0x30 1 k (s1.rd .flxStat k)
    .next (if s.flag (flxStatRamping k) then s2 else s2.park k)

/-- RAMP_END (R164): the target is reached; an output that a transition powers off is switched off then (R161). -/
def execRampEnd (i : Fin 256) (s : State) : Res :=
  match s.alive && s.flag (flxStatRamping i.val), (s.flx i.val).ramp with
  | true, some r =>
    let s1 := s.advanceTo (rampEnds r)
    .next (if r.off then s1.flxOnOff false i.val else s1.put (flxStatRamping i.val) 0)
  | _, _ => .next s

end Sys2Proof.Machine
end

