-- ==== Sys2Proof/Machine/RegWrite.lean ====
section
/-! DEFINITION. Host writes through BAR0 without a row of their own (R6, R7, R26, R376, R377 and the Registers section of every
chapter), and of engine data memories through BAR2 (R74, R378, R383). -/
namespace Sys2Proof.Machine

/-- A write window of the register tables. -/
def State.winOpen (s : State) (r : Reg) : Win → Bool
  | .any => true
  | .cmdOff => !s.flag hstCmdCfgEn
  | .cplOff => !s.flag hstCplCfgEn
  | .rrOff => !s.flag (hstRrCfgEn r.i)
  | .epoch => (s.mode == .standby || s.mode == .calibrate) && s.flag clkRefStatLocked
  | .stbyCal => s.mode == .standby || s.mode == .calibrate
  | .sca => s.mode == .standby || s.mode == .calibrate || s.mode == .armed
  | .live => s.mode != .boot && s.mode != .dormant
  | .talIdle | .talCtx => !s.flag (talStatBusy r.i)
  | .acqIdle => !s.acqArmed r.i
  | .mvpStop => !s.mvpRuns
  | .ringShut => !s.flag (rfoRingStatOpen r.i r.j)

/-- An engine that runs takes no host writes of ENG_CFG, ENG_LSR, ME_CFG and the general registers (R76). -/
def State.engTakes (s : State) (n : Nat) : Bool := !liveState (s.engP (s.windowPhys n)).state

/-- A host write of an engine's register (R76, 15): ENG_FAULT.VALID is cleared by a 1 in every state. What accumulations did in
earlier ticks stands before it (R184). -/
def State.writeEng (s : State) (r : Reg) (v : Word) : State :=
  if r.addr < 0x400000 then s else
  let p := s.windowPhys r.i
  let s := s.meSeen (s.logical p)
  let g := s.engP p
  let put (x : Eng) : State := { s with engs := tabPut s.engs p x }
  match r.k with
  | .engFault =>
    if v.bit 31 then put { g with fltValid := false, fltOvf := false, fltCode := 0, fltArg := 0, abortState := 0 } else s
  | .engCfg => if s.engTakes r.i then put { g with lateCue := v.bit 2, faultAct := v.bit 1, latePol := v.bit 0 } else s
  | .engLsr => if s.engTakes r.i then put (g.clrLsr v) else s
  | .meCfg => if s.engTakes r.i then put { g with ovCue := v.bit 0 } else s
  | .engG => if s.engTakes r.i then put (g.setReg r.j v) else s
  | _ => s

/-- A host write of one field (R6), judged on the state `at_` before the write. -/
def State.writeAcc (at_ : State) (r : Reg) (v : Word) (s : State) (f : FieldInfo) : State :=
  let open_ := at_.winOpen r f.win
  match f.acc with
  | .ro | .ros | .own | .eng => s
  | .rw | .key => if open_ then s.writeField r f v else s
  | .w1c => if open_ then s.setReg r (s.reg r &&& ~~~(v &&& Word.mask f.hi f.lo)) else s
  | .clr => if v.bits f.hi f.lo = 0 then s.setReg r ((s.reg r).put f.hi f.lo 0) else s
  | .adj => if at_.flag clkTimeCtrlServo then s else { s.markWt.writeField r f v with servoFrac := 0 }

/-- The register exists in this block: drive outputs have no slots 4 to 15 and no marker lines 8 to 31, and only MEs have the
datapath registers (06, 07, 10). -/
def State.regListed (s : State) (r : Reg) : Bool :=
  match r.k with
  | .rfoSlotFtwLo | .rfoSlotFtwHi | .rfoSlotPh | .rfoSlotAmp | .rfoSlotJmp => decide (r.j < nSlots r.i)
  | .rfoMrkTrim => decide (r.j < 2 * nSlots r.i)
  | .meCfg | .meStat | .meAcc | .meAgCfg | .meAgOff => clsOfPhys (s.windowPhys r.i) == .me
  | _ => true

/-- Domains whose source a write changes have none for now (R53). -/
def State.srcChanged (old s : State) : State :=
  [false, true].foldl (fun st b => if old.domSrc b = st.domSrc b then st else st.sourceLost b) s

/-- A host write of a whole register. -/
def State.writeReg (s : State) (r : Reg) (v : Word) : State :=
  if !s.regListed r then s
  else
    let s0 := if r.k == .rfoStat then s.judge else s
    let s1 := r.k.fields.foldl (fun st f => s0.writeAcc r v st f) ((s0.writeEng r v).stageWrite)
    let ctx := r.k == .talPos || r.k == .talRunLo || r.k == .talRunHi || r.k == .talAlive
    let s2 := if ctx && s.flag (talStatBusy r.i) then s1.raiseBit (talStatGoBad r.i) else s1
    if r.k = .clkTimeCtrl then State.srcChanged s s2 else s2

/-- A block of BAR0 answers: in DORMANT only GLB and CLK do (R26). -/
def State.answers (s : State) (a : Nat) : Bool :=
  s.power && (s.mode != .dormant || decide (a < 0x10000) || (decide (0x20000 ≤ a) && decide (a < 0x30000)))

/-- A host write of an aligned word of BAR0 (R376, R377). -/
def State.writeBar0 (s : State) (a : Nat) (v : Word) : State :=
  match s.answers a, regAt a with
  | true, some r => s.writeReg r v
  | _, _ => s

/-- REGISTER_WRITE (R6, R376): 4 bytes, or 8 as two writes in ascending order; another size or alignment is ignored. -/
def execRegisterWrite (addr : BitVec 24) (nbytes : Nat) (v : BitVec 64) (s : State) : Res :=
  let a := addr.toNat
  let lo : Word := v.setWidth 32
  let hi : Word := (v >>> 32).setWidth 32
  if a % 4 ≠ 0 then .next s
  else if nbytes = 4 then .next (s.writeBar0 a lo)
  else if nbytes = 8 then .next ((s.writeBar0 a lo).writeBar0 (a + 4) hi)
  else .next s

/-! Engine memories. -/

/-- Where a word of an engine data memory window lies in the engine's own memories, when it is in one (R382, R383). -/
def State.engDataAt (s : State) (a : Nat) : Option (Nat × Nat) :=
  let n := (a - 0x0D000000) / 0x40000
  let inner := (a - 0x0D000000) % 0x40000
  if a < 0x0D000000 ∨ 1088 ≤ n then none
  else
    let p := s.windowPhys n
    let top := if clsOfPhys p = .me then 0x28000 else 0x24000
    if 0x20000 ≤ inner ∧ inner < top then some (p, engBase p + inner) else none

/-- States in which a data memory takes BAR2 writes (R74). -/
def memTakes : EngState → Bool
  | .unloaded | .idle | .halted | .faulted => true
  | _ => false

/-- One word of an engine memory window is written, or ignored (R74). -/
def State.writeEngMem (s : State) (a : Nat) (w : Word) : State :=
  match s.engDataAt a with
  | some (p, x) =>
    if !memTakes (s.engP p).state then s
    else
      let e := s.logical p
      let s1 := (s.meSeen e).clearUpsets (x - x % 8) 8
      let off := x - engBase p
      if s.phys e = p then s1.portWrite e (decide (0x24000 ≤ off)) (off % 0x4000) s.now w
      else { s1 with sram := memSetWord s1.sram x w }
  | none => s

/-- ENGINE_MEMORY_WRITE (R74, R378, R383): words in ascending order. -/
def execEngineMemoryWrite (off : BitVec 29) (words : List Word) (s : State) : Res :=
  if !s.alive || off.toNat % 4 != 0 then .next s
  else .next (words.zipIdx.foldl (fun st e => st.writeEngMem (off.toNat + 4 * e.2) e.1) s)

end Sys2Proof.Machine
end

