-- ==== Sys2Proof/Machine/Vectors.lean ====
section
/-! DEFINITION. Rows of the marker and vector port (14): routing (R250), vector memory (R252), patterns (R253 to R257) and the
fail FIFO (R258). -/
namespace Sys2Proof.Machine

/-- The line that a pin configuration routes (R249, R250). -/
def routed (w : Word) : Option Nat := if w.bits 31 30 = 2 ∧ w.bits 10 0 < 1536 then some (w.bits 10 0) else none

/-- A measured trim of a marker line is no longer valid (R250). -/
def State.dropTrim (s : State) (line : Option Nat) : State :=
  match line with
  | some n => s.put (lineTrimValid n) 0
  | none => s

/-- PIN_CFG_WRITE (R249, R250, R255): a line already routed to another pin is refused. -/
def execPinCfgWrite (p : Fin 64) (v : Word) (s : State) : Res :=
  let k := p.val
  if !s.stbyCal then .next s
  else if v.bits 10 0 < 1536 ∧ (List.range 64).any (fun q => q != k && routed (s.rd .mvpPinCfg q) == some (v.bits 10 0)) then
    .next (s.raiseBit mvpStatRouteErr)
  else
    let old := routed (s.rd .mvpPinCfg k)
    let s1 := s.writeOwn ⟨.mvpPinCfg, k, 0⟩ v
    let new := routed (s1.rd .mvpPinCfg k)
    let s2 := if old = new then s1 else (s1.dropTrim old).dropTrim new
    .next (s2.put (mvpPinTrimValid k) 0)

/-- Where the vector memory lies in BAR2 (R382). -/
def vectorBase : Nat := 0x0C200000

/-- VECTOR_WRITE (R252). -/
def execVectorWrite (off : BitVec 21) (words : List Word) (s : State) : Res :=
  if !s.alive || off.toNat % 4 ≠ 0 then .next s
  else if s.mvpRuns then .next (s.raiseBit mvpStatVwdrop)
  else .next { s with sram := memSetWords s.sram (vectorBase + off.toNat) (words.take ((0x200000 - off.toNat) / 4)) }

/-- P of R254. -/
def State.vecPeriod (s : State) : Nat := max 2 (s.fld mvpVecPerVper)

/-- An edge of a timing set lies at or above 64 P, or the range is empty (R254, R256). -/
def State.tsRange (s : State) : Bool :=
  let lim := 64 * s.vecPeriod
  s.regs.any (fun e => e.1.k == .mvpTsPin && (decide (lim ≤ e.2.bits 15 0) || decide (lim ≤ e.2.bits 31 16)))
    || decide (s.fld mvpVecRangeVendVec < s.fld mvpVecRangeVstartVec)

/-- Pins whose function is vector. -/
def State.vecPins (s : State) : List Nat := (List.range 64).filter (fun p => s.fld (mvpPinCfgFunc p) == 1)

/-- The pattern starts as latched at GO. A vector pin leaves IDLE, or the last state it held, at its first drive edge: a driver
changes at drive edges alone (R253). -/
def State.startPattern (s : State) (next goCue : Option Nat) : State :=
  let m := s.mvp
  ({ s with mvp := { m with
      running := true
      first := s.fld mvpVecRangeVstartVec
      last := s.fld mvpVecRangeVendVec
      per := s.vecPeriod
      loops := s.fld mvpVecPerNloop
      next := next
      waitTt := next.isSome
      vec := s.fld mvpVecRangeVstartVec
      rep := 0
      loop := 0
      goCue := goCue
      stopFrom := none
      drv := s.vecPins.map (fun p => (p, [(0, s.pinOut p)]))
      lastDrv := []
      idle := false } }).wr .mvpFailCnt 0

/-- MVP_GO (R256): a write with GO = 1. -/
def execMvpGo (v : Word) (s : State) : Res :=
  let here := s.mode == .calibrate || s.mode == .armed || s.mode == .run
  if !s.power || !here || !v.bit 31 || s.mvpRuns then .next s
  else
    let s1 := ((s.put mvpVecGoSrc (b2n (v.bit 29))).put mvpVecGoFailStop (b2n (v.bit 28))).put mvpVecGoGoCue (v.bits 9 0)
    let at_ := s.rd64 .mvpVstartLo .mvpVstartHi
    let range := s.tsRange
    let late := !v.bit 29 && decide (at_ < s.now + 1000)
    let s2 := if range then s1.raiseBit mvpStatTsRange else s1
    let s3 := if late then s2.raiseBit mvpStatLate else s2
    if range || late then .next s3
    else .next (if v.bit 29 then s3.startPattern none (some (v.bits 9 0)) else s3.startPattern (some at_) none)

/-- The first period boundary at or after a tick, from a boundary `b` on. -/
def boundary (b per tick : Nat) : Nat := if tick ≤ b then b else b + (tick - b + per - 1) / per * per

/-- The sequencer stops at a boundary, or at an earlier one already set. -/
def State.stopAtBoundary (s : State) (b : Nat) : State :=
  { s with mvp := { s.mvp with stopFrom := some (match s.mvp.stopFrom with | some x => min x b | none => b) } }

/-- MVP_STOP (R257): at the next boundary at least 16 ticks later; a pattern that still waits for its cue stops at once. -/
def execMvpStop (s : State) : Res :=
  if !s.alive || !s.mvpRuns then .next s
  else match s.mvp.next with
  | some b => .next (s.stopAtBoundary (boundary b s.mvp.per (s.now + 16)))
  | none => if s.mvp.goCue.isSome then .next { s with mvp := { s.mvp with running := false, goCue := none } } else .next s

/-- The code of pin p in vector v (R252). -/
def State.vecCode (s : State) (v p : Nat) : Nat :=
  let a := vectorBase + 32 * v + 4 * (3 * p / 32)
  ((memWord s.sram a).toNat + 2 ^ 32 * (memWord s.sram (a + 4)).toNat) / 2 ^ (3 * p % 32) % 8

/-- What pin p's driver does under a code (R253). -/
def Mvp.driven (m : Mvp) (p code : Nat) : Option Bool :=
  match code with
  | 1 => some false
  | 2 => some true
  | 6 => some (tabGet m.lastDrv p false)
  | _ => none

/-- Pin p's driver takes its code at its drive edge, in 1/64 tick (R253, R254); `low`: edges up to here but one are past. -/
def Mvp.drive (m : Mvp) (low edge p code : Nat) : Mvp :=
  let d := m.driven p code
  { m with
    drv := tabPut m.drv p (logPut edge d (pruneLog low (tabGet m.drv p [])))
    lastDrv := match d with | some b => tabPut m.lastDrv p b | none => m.lastDrv }

/-- A pin's compare fails: `low` below VIL, `high` above VIH (R253). -/
def strobeFails (code : Nat) (low high : Bool) : Bool :=
  match code with
  | 3 => !low
  | 4 => !high
  | 5 => low || high
  | _ => false

/-- A failing period (R258): its entry, the cue, or the overflow. `ts` is the tick of the last failing strobe; the first, rounded up
to a tick, is `t0` (R257). -/
def State.vecFail (s : State) (pins : List Nat) (t ts t0 : Nat) : State :=
  let m := s.mvp
  let mask (lo : Nat) : Nat := ((pins.filter (fun p => lo ≤ p && p < lo + 32)).map (fun p => 2 ^ (p - lo))).sum
  let e := [BitVec.ofNat 32 (m.vec + m.loop % 65536 * 2 ^ 16)] ++ words64 t
    ++ [BitVec.ofNat 32 (mask 0), BitVec.ofNat 32 (mask 32), BitVec.ofNat 32 (m.rep + 2 ^ 31)]
  let s1 := s.countReg .mvpFailCnt
  let s2 := if m.fails.length < 256 then { s1 with mvp := { m with fails := m.fails ++ [e] } }.raiseAt 930 (ts + 10)
    else s1.raiseBit mvpStatFailOvf
  if s.flag mvpVecGoFailStop then s2.stopAtBoundary (boundary (t + m.per) m.per (t0 + 12)) else s2

/-- The place after the present period: its next repeat, vector or loop, or the end (R254, R256). -/
def Mvp.advance (m : Mvp) (rpt t : Nat) : Mvp :=
  let at_ := some (t + m.per)
  if m.rep < rpt then { m with rep := m.rep + 1, next := at_ }
  else if m.vec < m.last then { m with vec := m.vec + 1, rep := 0, next := at_ }
  else if m.loops ≠ 0 ∧ m.loops ≤ m.loop + 1 then { m with next := none, stopFrom := some (match m.stopFrom with
    | some x => min x (t + m.per)
    | none => t + m.per) }
  else { m with vec := m.first, rep := 0, loop := m.loop + 1, next := at_ }

/-- VECTOR_PERIOD (R253, R254, R257, R258): `low` and `high` say which pins' receivers are below VIL or above VIH at their
strobes. -/
def execVectorPeriod (low high : BitVec 64) (s : State) : Res :=
  match s.alive && s.mvpRuns, s.mvp.next with
  | true, some n0 =>
    let n := if s.mvp.waitTt then max s.now n0 else n0
    if s.mvp.stopFrom.any (fun b => b ≤ n) then .next s
    else
      let s1 := s.advanceTo n
      let m := s1.mvp
      let w6 := memWord s1.sram (vectorBase + 32 * m.vec + 24)
      let pins := s1.vecPins.map (fun p => (p, s1.vecCode m.vec p))
      let bad := (pins.filter (fun e => strobeFails e.2 (low.getLsbD e.1) (high.getLsbD e.1))).map (·.1)
      let ts := w6.bits 2 0
      let strobe (p : Nat) : Nat := 64 * n + s1.fld (mvpTsPinS ts p)
      let edge (p : Nat) : Nat := 64 * n + s1.fld (mvpTsPinD ts p)
      let s2 := { s1 with mvp := { pins.foldl (fun (q : Mvp) (e : Nat × Nat) => q.drive (64 * n) (edge e.1) e.1 e.2) m with waitTt := false } }
      let s3 := if pins.any (fun e => e.2 == 7) then s2.raiseBit mvpStatRsvdSeen else s2
      let s4 := if bad.isEmpty then s3 else s3.vecFail bad n ((bad.map strobe).foldl max (64 * n) / 64)
        (ceilDiv ((bad.map strobe).foldl min (64 * (n + m.per))) 64)
      .next { s4 with mvp := s4.mvp.advance (w6.bits 31 16) n }
  | _, _ => .next s

/-- MVP_FAIL_POP (R258). -/
def execMvpFailPop (s : State) : Res :=
  if s.alive then .next { s with mvp := { s.mvp with fails := s.mvp.fails.drop 1 } } else .next s

end Sys2Proof.Machine
end

