-- ==== Sys2Proof/Machine/Dispatch.lean ====
section
/-! DEFINITION. The dispatch of commands to their meanings: one arm for each row of the operation table. -/
namespace Sys2Proof.Machine

/-- The effect of a command on everything but the queue. -/
def exec (i : Instr) (s : State) : Host.Outcome State Fault Refusal :=
  match i with
  | .getStatus c => Sys2Proof.Machine.execGetStatus c s
  | .readLog c => Sys2Proof.Machine.execReadLog c s
  | .enterStandby c => Sys2Proof.Machine.execEnterStandby c s
  | .enterDormant c => Sys2Proof.Machine.execEnterDormant c s
  | .enterCalibrate c => Sys2Proof.Machine.execEnterCalibrate c s
  | .arm c => Sys2Proof.Machine.execArm c s
  | .start c => Sys2Proof.Machine.execStart c s
  | .stop c => Sys2Proof.Machine.execStop c s
  | .enterSafe c => Sys2Proof.Machine.execEnterSafe c s
  | .enterService c => Sys2Proof.Machine.execEnterService c s
  | .loadEngines c img => Sys2Proof.Machine.execLoadEngines c img s
  | .loadSegments c img => Sys2Proof.Machine.execLoadSegments c img s
  | .configCue c img => Sys2Proof.Machine.execConfigCue c img s
  | .configQuarry c img => Sys2Proof.Machine.execConfigQuarry c img s
  | .commit c => Sys2Proof.Machine.execCommit c s
  | .acqArm c => Sys2Proof.Machine.execAcqArm c s
  | .acqDisarm c => Sys2Proof.Machine.execAcqDisarm c s
  | .selfCal c => Sys2Proof.Machine.execSelfCal c s
  | .skewCal c => Sys2Proof.Machine.execSkewCal c s
  | .linkConfig c => Sys2Proof.Machine.execLinkConfig c s
  | .linkReset c => Sys2Proof.Machine.execLinkReset c s
  | .spareEngine c => Sys2Proof.Machine.execSpareEngine c s
  | .spareLane c => Sys2Proof.Machine.execSpareLane c s
  | .memRepair c => Sys2Proof.Machine.execMemRepair c s
  | .flashWrite c img => Sys2Proof.Machine.execFlashWrite c img s
  | .fwActivate c => Sys2Proof.Machine.execFwActivate c s
  | .ucsLoadOpen c img => Sys2Proof.Machine.execUcsLoadOpen c img s
  | .setThresholds c => Sys2Proof.Machine.execSetThresholds c s
  | .readTelemetry c => Sys2Proof.Machine.execReadTelemetry c s
  | .callerRestart c => Sys2Proof.Machine.execCallerRestart c s
  | .nop e f => Sys2Proof.Machine.execNop e f s
  | .jmp e f => Sys2Proof.Machine.execJmp e f s
  | .jmpc e f => Sys2Proof.Machine.execJmpc e f s
  | .call e f => Sys2Proof.Machine.execCall e f s
  | .ret e f => Sys2Proof.Machine.execRet e f s
  | .loop e f => Sys2Proof.Machine.execLoop e f s
  | .endl e f => Sys2Proof.Machine.execEndl e f s
  | .halt e f => Sys2Proof.Machine.execHalt e f s
  | .syncw e f => Sys2Proof.Machine.execSyncw e f s
  | .waitc e f => Sys2Proof.Machine.execWaitc e f s
  | .fire e f => Sys2Proof.Machine.execFire e f s
  | .trap e f => Sys2Proof.Machine.execTrap e f s
  | .uop e f => Sys2Proof.Machine.execUop e f s
  | .li e f => Sys2Proof.Machine.execLi e f s
  | .add e im f => Sys2Proof.Machine.execAdd e im f s
  | .sub e im f => Sys2Proof.Machine.execSub e im f s
  | .and e im f => Sys2Proof.Machine.execAnd e im f s
  | .or e im f => Sys2Proof.Machine.execOr e im f s
  | .xor e im f => Sys2Proof.Machine.execXor e im f s
  | .shl e im f => Sys2Proof.Machine.execShl e im f s
  | .shr e im f => Sys2Proof.Machine.execShr e im f s
  | .sar e im f => Sys2Proof.Machine.execSar e im f s
  | .mul e im f => Sys2Proof.Machine.execMul e im f s
  | .cmp e im f => Sys2Proof.Machine.execCmp e im f s
  | .sel e f => Sys2Proof.Machine.execSel e f s
  | .ld e f => Sys2Proof.Machine.execLd e f s
  | .st e f => Sys2Proof.Machine.execSt e f s
  | .ldv e f => Sys2Proof.Machine.execLdv e f s
  | .ldf e f => Sys2Proof.Machine.execLdf e f s
  | .bdma e f => Sys2Proof.Machine.execBdma e f s
  | .csrr e f => Sys2Proof.Machine.execCsrr e f s
  | .csrw e f => Sys2Proof.Machine.execCsrw e f s
  | .rdtt e f => Sys2Proof.Machine.execRdtt e f s
  | .atc e f => Sys2Proof.Machine.execAtc e f s
  | .adv e f => Sys2Proof.Machine.execAdv e f s
  | .play e f => Sys2Proof.Machine.execPlay e f s
  | .playf e f => Sys2Proof.Machine.execPlayf e f s
  | .hold e f => Sys2Proof.Machine.execHold e f s
  | .setf e f => Sys2Proof.Machine.execSetf e f s
  | .shph e f => Sys2Proof.Machine.execShph e f s
  | .setph e f => Sys2Proof.Machine.execSetph e f s
  | .seta e f => Sys2Proof.Machine.execSeta e f s
  | .tset e f => Sys2Proof.Machine.execTset e f s
  | .mark e f => Sys2Proof.Machine.execMark e f s
  | .part e f => Sys2Proof.Machine.execPart e f s
  | .flev e f => Sys2Proof.Machine.execFlev e f s
  | .wopen e f => Sys2Proof.Machine.execWopen e f s
  | .mac e f => Sys2Proof.Machine.execMac e f s
  | .macx e f => Sys2Proof.Machine.execMacx e f s
  | .clra e f => Sys2Proof.Machine.execClra e f s
  | .rda e f => Sys2Proof.Machine.execRda e f s
  | .cbset e f => Sys2Proof.Machine.execCbset e f s
  | .disc e f => Sys2Proof.Machine.execDisc e f s
  | .pubv e f => Sys2Proof.Machine.execPubv e f s
  | .pubs e f => Sys2Proof.Machine.execPubs e f s
  | .hist e f => Sys2Proof.Machine.execHist e f s
  | .recd e f => Sys2Proof.Machine.execRecd e f s
  | .routineResume e => Sys2Proof.Machine.execRoutineResume e s
  | .effectLand e => Sys2Proof.Machine.execEffectLand e s
  | .forkDeadline e => Sys2Proof.Machine.execForkDeadline e s
  | .jumpTaken t => Sys2Proof.Machine.execJumpTaken t s
  | .syncwEnd e => Sys2Proof.Machine.execSyncwEnd e s
  | .waitcTimeout e => Sys2Proof.Machine.execWaitcTimeout e s
  | .accumulationComplete e => Sys2Proof.Machine.execAccumulationComplete e s
  | .bdmaComplete e => Sys2Proof.Machine.execBdmaComplete e s
  | .engHalt n => Sys2Proof.Machine.execEngHalt n s
  | .runStart => Sys2Proof.Machine.execRunStart s
  | .stopTime => Sys2Proof.Machine.execStopTime s
  | .runComplete => Sys2Proof.Machine.execRunComplete s
  | .transitionEnd r => Sys2Proof.Machine.execTransitionEnd r s
  | .safeReq => Sys2Proof.Machine.execSafeReq s
  | .wake => Sys2Proof.Machine.execWake s
  | .glbReset key railsOk => Sys2Proof.Machine.execGlbReset key railsOk s
  | .resetN railsOk => Sys2Proof.Machine.execResetN railsOk s
  | .powerOn straps railsOk => Sys2Proof.Machine.execPowerOn straps railsOk s
  | .railRetry railsOk => Sys2Proof.Machine.execRailRetry railsOk s
  | .bootComplete r => Sys2Proof.Machine.execBootComplete r s
  | .crossingSlip die => Sys2Proof.Machine.execCrossingSlip die s
  | .syncEdge => Sys2Proof.Machine.execSyncEdge s
  | .epochArm => Sys2Proof.Machine.execEpochArm s
  | .snapTake => Sys2Proof.Machine.execSnapTake s
  | .loadWt => Sys2Proof.Machine.execLoadWt s
  | .refLoss refB => Sys2Proof.Machine.execRefLoss refB s
  | .refMeasure refB hz edge => Sys2Proof.Machine.execRefMeasure refB hz edge s
  | .refRevert => Sys2Proof.Machine.execRefRevert s
  | .refModeWrite mode edge => Sys2Proof.Machine.execRefModeWrite mode edge s
  | .holdoverUpdate => Sys2Proof.Machine.execHoldoverUpdate s
  | .servoUpdate => Sys2Proof.Machine.execServoUpdate s
  | .timeFrameSend domB => Sys2Proof.Machine.execTimeFrameSend domB s
  | .ptpMessage m => Sys2Proof.Machine.execPtpMessage m s
  | .trimWrite t => Sys2Proof.Machine.execTrimWrite t s
  | .trimResettleDone => Sys2Proof.Machine.execTrimResettleDone s
  | .skewCalTimeout => Sys2Proof.Machine.execSkewCalTimeout s
  | .mute o v => Sys2Proof.Machine.execMute o v s
  | .cueMutedRelease o => Sys2Proof.Machine.execCueMutedRelease o s
  | .attWrite o v => Sys2Proof.Machine.execAttWrite o v s
  | .descriptorWrite o d w0 w1 => Sys2Proof.Machine.execDescriptorWrite o d w0 w1 s
  | .libraryWrite off words => Sys2Proof.Machine.execLibraryWrite off words s
  | .jreq t => Sys2Proof.Machine.execJreq t s
  | .ringOpen o r => Sys2Proof.Machine.execRingOpen o r s
  | .ringClose o r => Sys2Proof.Machine.execRingClose o r s
  | .ringRefill o r => Sys2Proof.Machine.execRingRefill o r s
  | .shotInvalClear => Sys2Proof.Machine.execShotInvalClear s
  | .fluxFault im since delivered => Sys2Proof.Machine.execFluxFault im since delivered s
  | .queueError im => Sys2Proof.Machine.execQueueError im s
  | .rampEnd im => Sys2Proof.Machine.execRampEnd im s
  | .demodSample im m codes => Sys2Proof.Machine.execDemodSample im m codes s
  | .cueAppear => Sys2Proof.Machine.execCueAppear s
  | .cueFire c => Sys2Proof.Machine.execCueFire c s
  | .cueConfigWrite off v => Sys2Proof.Machine.execCueConfigWrite off v s
  | .cueCheck => Sys2Proof.Machine.execCueCheck s
  | .cueCheckDone => Sys2Proof.Machine.execCueCheckDone s
  | .pinEdge p rising => Sys2Proof.Machine.execPinEdge p rising s
  | .trigEdge line rising fine => Sys2Proof.Machine.execTrigEdge line rising fine s
  | .decisionFrame l a b => Sys2Proof.Machine.execDecisionFrame l a b s
  | .outcome => Sys2Proof.Machine.execOutcome s
  | .benchTimeout => Sys2Proof.Machine.execBenchTimeout s
  | .decodeEnd peers => Sys2Proof.Machine.execDecodeEnd peers s
  | .faceTimeout f => Sys2Proof.Machine.execFaceTimeout f s
  | .syndromeFrame l fr => Sys2Proof.Machine.execSyndromeFrame l fr s
  | .backlog => Sys2Proof.Machine.execBacklog s
  | .qryResume v => Sys2Proof.Machine.execQryResume v s
  | .qryFrameXor v => Sys2Proof.Machine.execQryFrameXor v s
  | .qryConfigWrite seam off v => Sys2Proof.Machine.execQryConfigWrite seam off v s
  | .qryCheck => Sys2Proof.Machine.execQryCheck s
  | .qryCheckDone => Sys2Proof.Machine.execQryCheckDone s
  | .acqArmTick u => Sys2Proof.Machine.execAcqArmTick u s
  | .acqTrigger u => Sys2Proof.Machine.execAcqTrigger u s
  | .acqTtTrigger u => Sys2Proof.Machine.execAcqTtTrigger u s
  | .acqSampleWrite u k codes => Sys2Proof.Machine.execAcqSampleWrite u k codes s
  | .rearmEnd u => Sys2Proof.Machine.execRearmEnd u s
  | .acqRoom u => Sys2Proof.Machine.execAcqRoom u s
  | .acqLineOut u => Sys2Proof.Machine.execAcqLineOut u s
  | .recTake u => Sys2Proof.Machine.execRecTake u s
  | .acqMissPop u => Sys2Proof.Machine.execAcqMissPop u s
  | .acqBulkRd u v => Sys2Proof.Machine.execAcqBulkRd u v s
  | .pinCfgWrite p v => Sys2Proof.Machine.execPinCfgWrite p v s
  | .vectorWrite off words => Sys2Proof.Machine.execVectorWrite off words s
  | .mvpGo v => Sys2Proof.Machine.execMvpGo v s
  | .mvpStop => Sys2Proof.Machine.execMvpStop s
  | .vectorPeriod low high => Sys2Proof.Machine.execVectorPeriod low high s
  | .mvpFailPop => Sys2Proof.Machine.execMvpFailPop s
  | .signalDetect l => Sys2Proof.Machine.execSignalDetect l s
  | .trainDone l lanes flight => Sys2Proof.Machine.execTrainDone l lanes flight s
  | .trainTimeout l => Sys2Proof.Machine.execTrainTimeout l s
  | .trainRetry l => Sys2Proof.Machine.execTrainRetry l s
  | .capabilitiesFrame l c nonce => Sys2Proof.Machine.execCapabilitiesFrame l c nonce s
  | .authResponse l tag => Sys2Proof.Machine.execAuthResponse l tag s
  | .authTimeout l => Sys2Proof.Machine.execAuthTimeout l s
  | .laneFailure l lane => Sys2Proof.Machine.execLaneFailure l lane s
  | .spareTrained l => Sys2Proof.Machine.execSpareTrained l s
  | .keepaliveSend l => Sys2Proof.Machine.execKeepaliveSend l s
  | .keepaliveTimeout l => Sys2Proof.Machine.execKeepaliveTimeout l s
  | .linkAck l seq refused => Sys2Proof.Machine.execLinkAck l seq refused s
  | .replayTimeout l => Sys2Proof.Machine.execReplayTimeout l s
  | .bulkFrame l fr => Sys2Proof.Machine.execBulkFrame l fr s
  | .timeFrame l fr => Sys2Proof.Machine.execTimeFrame l fr s
  | .mgmtFrame l fr stamps => Sys2Proof.Machine.execMgmtFrame l fr stamps s
  | .rateInterval mgmt => Sys2Proof.Machine.execRateInterval mgmt s
  | .errorInterval => Sys2Proof.Machine.execErrorInterval s
  | .bxfGo => Sys2Proof.Machine.execBxfGo s
  | .tailWrite v => Sys2Proof.Machine.execTailWrite v s
  | .commandFetch entry => Sys2Proof.Machine.execCommandFetch entry s
  | .ringAck r k => Sys2Proof.Machine.execRingAck r k s
  | .ringEnable r => Sys2Proof.Machine.execRingEnable r s
  | .rr16Post => Sys2Proof.Machine.execRr16Post s
  | .msixSend v => Sys2Proof.Machine.execMsixSend v s
  | .hostLinkDown => Sys2Proof.Machine.execHostLinkDown s
  | .hdmAccess write off data => Sys2Proof.Machine.execHdmAccess write off data s
  | .bar4Access write off data => Sys2Proof.Machine.execBar4Access write off data s
  | .engineMemoryWrite off words => Sys2Proof.Machine.execEngineMemoryWrite off words s
  | .spdmRequest q => Sys2Proof.Machine.execSpdmRequest q s
  | .ideFailure cxl => Sys2Proof.Machine.execIdeFailure cxl s
  | .bulkRequest src write off data ecc => Sys2Proof.Machine.execBulkRequest src write off data ecc s
  | .memErrorInterval => Sys2Proof.Machine.execMemErrorInterval s
  | .refresh => Sys2Proof.Machine.execRefresh s
  | .marginTrack c rd0 rd1 wr margin => Sys2Proof.Machine.execMarginTrack c rd0 rd1 wr margin s
  | .scrub off ecc => Sys2Proof.Machine.execScrub off ecc s
  | .idleSelfRefresh g => Sys2Proof.Machine.execIdleSelfRefresh g s
  | .rowThreshold src channel bank row => Sys2Proof.Machine.execRowThreshold src channel bank row s
  | .tallyGo u cont => Sys2Proof.Machine.execTallyGo u cont s
  | .tallyStop u => Sys2Proof.Machine.execTallyStop u s
  | .tallyBlock u => Sys2Proof.Machine.execTallyBlock u s
  | .tallyEnd u => Sys2Proof.Machine.execTallyEnd u s
  | .callerWatchdog => Sys2Proof.Machine.execCallerWatchdog s
  | .callerFault => Sys2Proof.Machine.execCallerFault s
  | .ghenovReady otherOk => Sys2Proof.Machine.execGhenovReady otherOk s
  | .journalAppend => Sys2Proof.Machine.execJournalAppend s
  | .housekeepingRound sensors monitors => Sys2Proof.Machine.execHousekeepingRound sensors monitors s
  | .flashRailDrop => Sys2Proof.Machine.execFlashRailDrop s
  | .ethCtrlWrite v => Sys2Proof.Machine.execEthCtrlWrite v s
  | .registerWrite addr nbytes v => Sys2Proof.Machine.execRegisterWrite addr nbytes v s
  | .commandEnd tag r => Sys2Proof.Machine.execCommandEnd tag r s
  | .hostLinkUp cxl speed width => Sys2Proof.Machine.execHostLinkUp cxl speed width s
  | .stackTempReport stack hot => Sys2Proof.Machine.execStackTempReport stack hot s
  | .creditHoldEnd src => Sys2Proof.Machine.execCreditHoldEnd src s
  | .cueFilterElapse => Sys2Proof.Machine.execCueFilterElapse s
  | .domainSourceLost domB => Sys2Proof.Machine.execDomainSourceLost domB s
  | .powerOff => Sys2Proof.Machine.execPowerOff s

end Sys2Proof.Machine
end

