-- ==== Sys2Proof/Machine/Program.lean ====
section
/-! DEFINITION. What the device does by itself in a tick without a command: engines fetch, decode and issue the words of their
memories (R56, R59, R77 to R82), what they have set going comes due, and links send. The instruction rows of the operation table
are the issue of a word that the command carries (log 4); a tick without a command takes the words from memory (DESIGN CHOICE, log
142). -/
namespace Sys2Proof.Machine

/-- The state a command leads to, or the state before where it has no next state. -/
def State.run (s : State) (i : Instr) : State :=
  match exec i s with
  | .next t => t
  | _ => s

/-! Fetch. -/

/-- The word at engine e's PC: the lower half at the lower address (R57, R77). -/
def State.fetched (s : State) (e : Nat) : BitVec 64 :=
  let a := engBase (s.phys e) + 8 * (s.eng e).pc
  memWord s.sram (a + 4) ++ memWord s.sram a

/-- No class has an opcode that is not in the map (R79). -/
def noForm : Form := { te := false, fe := false, me := false }

/-- Engine e issues the word at its PC; an opcode that is not in the map raises ILLEGAL (R79). -/
def State.issueFetched (s : State) (e : Fin 1024) : State :=
  match decodeWord e (s.fetched e) with
  | some i => s.run i
  | none =>
    match s.issue e (fieldsOf (s.fetched e)) noForm (fun _ => true) false true (fun t _ => t) (fun t _ => some t) with
    | .next t => t
    | _ => s

/-! What comes due. -/

/-- What engine e has set going that is due in the present tick: an effect to land, a fork to be selected, the end of a wait, a group
of its routine. -/
def State.dueOf (s : State) (e : Fin 1024) : Option Instr :=
  let g := s.eng e
  let fork (q : QEff) : Bool := decide (forkDeadline e q.tc < s.now)
  let waits : Option Instr :=
    match g.wait with
    | some (.syncw k) => if k ≤ s.now then some (.syncwEnd e) else none
    | some (.waitc _ (some k) _ _) => if k ≤ s.now ∧ s.cuesHere then some (.waitcTimeout e) else none
    | _ => none
  let routine : Option Instr :=
    if (g.routine.bind (s.groupTick e)).any (fun k => decide (k ≤ s.now)) then some (.routineResume e) else none
  if (g.queue.find? unchosen).any fork then some (.forkDeadline e)
  else if (popQueue g.queue).any (fun q => decide (q.1.tc ≤ s.now)) then some (.effectLand e)
  else if waits.isSome then waits
  else routine

/-- Up to `n` of these happen. -/
def State.runDue (e : Fin 1024) : Nat → State → State
  | 0, s => s
  | n + 1, s =>
    match s.dueOf e with
    | some i => State.runDue e n (s.run i)
    | none => s

/-- Engine e in the present tick: what is due, then an instruction if it is at a boundary. -/
def State.engineTick (s : State) (n : Nat) : State :=
  if h : n < 1024 then
    let e : Fin 1024 := ⟨n, h⟩
    let s1 := State.runDue e (2 * (s.eng e).queue.length + 3) s
    if s1.mayIssue e true && decide ((s1.eng e).ready ≤ s1.now) then s1.issueFetched e else s1
  else s

/-- The start and the stop of a run, and the fabric's tick, when they are due. -/
def State.fabricDue (s : State) : State :=
  let s1 := if s.startAt.any (fun t => decide (t ≤ s.now)) then s.run .runStart else s
  let s2 := if s1.stopAt.any (fun t => decide (t ≤ s1.now)) then s1.run .stopTime else s1
  let s3 := if s2.cuesHere then s2 else s2.run .cueAppear
  if s3.filterAt.any (fun t => decide (t ≤ s3.now)) then s3.run .cueFilterElapse else s3

/-! A tick. -/

/-- `n` more wrong bits in the protected word that holds a byte address: 64 bits of an engine's memories (R58), or a microword of the
open store or of patch RAM (R273). -/
def State.upset (s : State) (a n : Nat) : State :=
  let x := if engBase 0 ≤ a ∧ a < patchBase .te then a - a % 8 else a - a % 4
  { s with upsets := tabPut s.upsets x (tabGet s.upsets x 0 + n) }

/-- A memory error of a tick: where, and how many bits (R58, R273). None is assumed or ruled out. -/
def State.upsetTick (s : State) : State :=
  match Config.upset s.free with
  | some x => s.takeFree.2.upset x.1 x.2
  | none => s.takeFree.2

/-- What happens in a tick without a command: time moves on by one step of TT (40 ticks in DORMANT, R51), each link sends one frame, a
peer copy queues more, and the fabric and the engines do what is due. -/
def State.idleTick (s : State) : State :=
  if !s.power then s
  else
    let s0 := s.upsetTick
    let s1 := s0.elapseTo (s0.up + s0.ticksFor 1)
    let s2 := State.bxfPump 64 ((s1.links.map (·.1)).foldl State.sendOne s1)
    if s2.mode = .boot ∨ s2.mode = .dormant then s2
    else (s2.engs.map (fun x => s2.logical x.1)).foldl State.engineTick s2.fabricDue

end Sys2Proof.Machine
end

