-- ==== Sys2Proof/Machine/Package.lean ====
section
/-! DEFINITION. The lands of the package (R386 to R388): where each signal lies, and what every land of the 90 × 90 grid carries. -/
namespace Sys2Proof.Machine

/-- One wire of a serial lane: transmit or receive, positive or negative. -/
inductive Wire where
  | txP
  | txN
  | rxP
  | rxN
  deriving DecidableEq, Repr

/-- The signals that have a land (R386). -/
inductive Signal where
  | drv (k : Fin 64)
  | prb (k : Fin 16)
  | rfi (k : Fin 16)
  | flx (k : Fin 256)
  | pyarn (l : Fin 6) (lane : Fin 5) (w : Wire)
  | cxl (n : Fin 8) (w : Wire)
  | refclkP
  | refclkN
  | perstN
  | eth (w : Wire)
  | refA (neg : Bool)
  | refB (neg : Bool)
  | sync (neg : Bool)
  | mv (k : Fin 64)
  | trig (k : Fin 4)
  | tbus (k : Fin 4)
  | did (k : Fin 9)
  | flClk
  | flCsN
  | flIo (k : Fin 4)
  | resetN
  | faultN
  | xtalIn
  | xtalOut
  | railEn (r : Fin 16)
  deriving DecidableEq, Repr

/-- Column offset of a wire of a pair, and whether it is a receive wire. -/
def Wire.neg : Wire → Nat
  | .txP | .rxP => 0
  | .txN | .rxN => 1
def Wire.rx : Wire → Nat
  | .txP | .txN => 0
  | .rxP | .rxN => 1

/-- The land of a signal: row and column (R386). -/
def Signal.land : Signal → Nat × Nat
  | .drv k => if k.val < 32 then (1, 10 + 2 * k.val) else (90, 10 + 2 * (k.val - 32))
  | .prb k => (10 + 4 * k.val, 1)
  | .rfi k => (10 + 4 * k.val, 90)
  | .flx k => (4 + k.val / 64, 11 + k.val % 64)
  | .pyarn l j w => (11 + 10 * l.val + 2 * j.val + w.neg, 4 + w.rx)
  | .cxl n w => (11 + 4 * n.val + w.neg, 86 + w.rx)
  | .refclkP => (45, 86)
  | .refclkN => (46, 86)
  | .perstN => (48, 86)
  | .eth w => (55 + w.neg, 86 + w.rx)
  | .refA neg => (60 + b2n neg, 86)
  | .refB neg => (64 + b2n neg, 86)
  | .sync neg => (68 + b2n neg, 86)
  | .mv k => (86, 11 + k.val)
  | .trig k => (88, 11 + 2 * k.val)
  | .tbus k => (88, 21 + 2 * k.val)
  | .did k => (88, 60 + k.val)
  | .flClk => (88, 70)
  | .flCsN => (88, 71)
  | .flIo k => (88, 72 + k.val)
  | .resetN => (88, 80)
  | .faultN => (88, 82)
  | .xtalIn => (88, 84)
  | .xtalOut => (88, 86)
  | .railEn r => (87, 40 + r.val)

/-- The four wires of a lane. -/
def Wire.all : List Wire := [.txP, .txN, .rxP, .rxN]

/-- Every signal that has a land. -/
def Signal.all : List Signal :=
  (List.finRange 64).map .drv ++ (List.finRange 16).map .prb ++ (List.finRange 16).map .rfi ++ (List.finRange 256).map .flx
    ++ (List.finRange 6).flatMap (fun l => (List.finRange 5).flatMap (fun j => Wire.all.map (.pyarn l j)))
    ++ (List.finRange 8).flatMap (fun n => Wire.all.map (.cxl n)) ++ [.refclkP, .refclkN, .perstN] ++ Wire.all.map .eth
    ++ [.refA false, .refA true, .refB false, .refB true, .sync false, .sync true]
    ++ (List.finRange 64).map .mv ++ (List.finRange 4).map .trig ++ (List.finRange 4).map .tbus ++ (List.finRange 9).map .did
    ++ [.flClk, .flCsN] ++ (List.finRange 4).map .flIo ++ [.resetN, .faultN, .xtalIn, .xtalOut] ++ (List.finRange 16).map .railEn

/-- A rail's region: the rail of R389, its rows and its columns (R387). -/
structure RailArea where
  rail : Nat
  row0 : Nat
  row1 : Nat
  col0 : Nat
  col1 : Nat
  deriving DecidableEq, Repr

/-- The rail regions of R387. -/
def railAreas : List RailArea :=
  [⟨0, 30, 61, 30, 61⟩, ⟨12, 30, 61, 9, 29⟩, ⟨15, 30, 61, 62, 82⟩,
   ⟨1, 9, 29, 9, 29⟩, ⟨2, 9, 29, 62, 82⟩, ⟨3, 62, 82, 9, 29⟩, ⟨4, 62, 82, 62, 82⟩,
   ⟨5, 9, 29, 30, 45⟩, ⟨6, 9, 29, 46, 61⟩, ⟨7, 62, 82, 30, 45⟩, ⟨8, 62, 82, 46, 61⟩,
   ⟨13, 83, 84, 9, 45⟩, ⟨14, 83, 84, 46, 82⟩, ⟨9, 9, 82, 84, 84⟩, ⟨10, 8, 8, 11, 44⟩, ⟨11, 8, 8, 45, 74⟩,
   ⟨17, 88, 88, 76, 76⟩, ⟨16, 88, 88, 77, 78⟩]

/-- What a land carries. -/
inductive LandUse where
  | signal (x : Signal)
  | rail (r : Nat)
  | ground
  deriving DecidableEq, Repr

/-- A land lies in a region and carries its rail: row and column of an even sum, or any land of a single row (R387). -/
def RailArea.carries (a : RailArea) (row col : Nat) : Bool :=
  decide (a.row0 ≤ row) && decide (row ≤ a.row1) && decide (a.col0 ≤ col) && decide (col ≤ a.col1)
    && (a.row0 == a.row1 || (row + col) % 2 == 0)

/-- What the land at a row and a column carries (R386, R387). -/
def landUse (row col : Nat) : LandUse :=
  match Signal.all.find? (fun x => x.land == (row, col)) with
  | some x => .signal x
  | none => match railAreas.find? (fun a => a.carries row col) with
    | some a => .rail a.rail
    | none => .ground

/-- The level of an output land of the control group (R388, R390): RAIL_EN r, and FAULT_N, which is open-drain. -/
def State.landLevel (s : State) : Signal → Option Bool
  | .railEn r => some (s.railEn r.val)
  | .faultN => some (!s.faultLow)
  | _ => none

end Sys2Proof.Machine
end

