-- ==== Sys2Proof/Machine/Reads.lean ====
section
/-! DEFINITION. What the host reads through BAR0 and BAR2 (R8, R26, R376 to R378, R382, R383): the stored registers, and those
that show other state. The operation table has no read: reads change nothing. -/
namespace Sys2Proof.Machine

/-- HST_CPL_READY and HST_CPL_PEEK (R312): the oldest completion that is written, else the last one acknowledged. -/
def State.cplHead (s : State) : Option Completion := if s.cplOn then s.cpls.head? else none

/-- Word w of a completion entry of count k (R307). -/
def Completion.word (c : Completion) (k w : Nat) : Word :=
  if w = 0 then BitVec.ofNat 32 (c.tag.toNat + c.opcode % 256 * 2 ^ 16 + statusCode c.status * 2 ^ 24)
  else if w = 1 then c.mode
  else if w = 2 then c.detail
  else if w = 3 ∨ w = 4 then (words64 c.tt.toNat).getD (w - 3) 0
  else if w = 15 then BitVec.ofNat 32 (8 * 2 ^ 28 + k % 2 ^ 28)
  else c.results.getD (w - 5) 0

/-- Word w of HST_CPL_PEEK (R312). -/
def State.peekWord (s : State) (w : Nat) : Word :=
  match s.cplHead, s.lastCpl with
  | some c, _ => c.word (s.cplAck + 1) w
  | none, some c => c.word s.cplAck w
  | none, none => 0

/-- The code of an acquisition unit's state (ACQ_STAT). -/
def acqCode : AcqState → Nat
  | .idle => 0 | .fill => 1 | .capture => 2 | .rearm => 3 | .noSpace => 4 | .held => 5 | .hist => 6

/-- A word of ACQ_MISS (R240): the oldest entry. -/
def State.missWord (s : State) (u : Nat) (k : RegK) : Word :=
  match (s.acq u).miss.head? with
  | none => 0
  | some (t, cause) =>
    if k = .acqMissInfo then BitVec.ofNat 32 (2 ^ 31 + (s.acq u).miss.length % 128 * 2 ^ 8 + cause)
    else if k = .acqMissLo then BitVec.ofNat 32 t
    else BitVec.ofNat 32 (t >>> 32)

/-- CUE_LSN of engine n (R202). -/
def State.lsnWord (s : State) (n : Nat) : Word :=
  let g := s.eng n
  match g.listen with
  | some ch => BitVec.ofNat 32 (2 ^ 31 + b2n g.pend * 2 ^ 30 + ch * 2 ^ 16 + g.ovr % 256)
  | none => BitVec.ofNat 32 (b2n g.pend * 2 ^ 30 + g.ovr % 256)

/-- A word of engine window n as the present tick finds it (R76): accumulations and captures of earlier ticks are in it. -/
def State.windowRead (s : State) (n off : Nat) : Word := (s.meSeen (s.logical (s.windowPhys n))).windowWord n off

/-- MEM_CHc_DLY (R323, R324): under XEN the delays in force are those of MEM_CHc_OVR. -/
def State.chDly (s : State) (c : Nat) : Word :=
  let w := s.rd .memChDly c
  let o := s.regIn ⟨.memChOvr, c, 0⟩ s.now
  if s.xenOn memCtrlXen s.now then ((w.put 20 14 (o.bits 22 16)).put 13 7 (o.bits 14 8)).put 6 0 (o.bits 6 0) else w

/-- The word that a register reads. -/
def State.readReg (s : State) (r : Reg) : Word :=
  let w := s.reg r
  let i := r.i
  match r.k with
  | .glbMode => s.modeWord
  | .glbCap => s.capWord
  | .glbUidLo => BitVec.ofNat 32 Config.serial.toNat
  | .glbUidHi => BitVec.ofNat 32 (Config.serial.toNat >>> 32)
  | .glbCallerLoad =>
    let q : Word := Config.freeWord s.free
    ((w.put 14 8 s.adminQ.length).put 7 0 (q.bits 7 0 % 101)).put 31 24 (max (q.bits 7 0 % 101) (q.bits 15 8 % 101))
  | .hstCplStat => w.put 12 0 s.owed
  | .hstCplPeek => s.peekWord i
  | .hstCplReady =>
    match s.cplHead with
    | some _ => BitVec.ofNat 32 (2 ^ 31 + (s.cplAck + 1) % 2 ^ 28)
    | none => BitVec.ofNat 32 (s.cplAck % 2 ^ 28)
  | .hstRrStat => w.put 30 30 (b2n (s.ringFull i))
  | .clkTtLo => BitVec.ofNat 32 s.now
  | .clkTtHi => BitVec.ofNat 32 (s.now >>> 32)
  | .clkWtAdj => BitVec.ofInt 32 s.adj
  | .cueCellClr => let c := tabGet s.cells i {}; (w.put 31 31 (b2n c.level)).put 30 30 (b2n c.st)
  | .cueLsn => s.lsnWord i
  | .cueVerd => verdictWord (s.verdictAt i s.now)
  | .memPprStat => w.put 7 0 (if s.mode = .boot then 0 else min 255 ((List.range 256).filter (bankLeft s.mem.repairs)).length)
  | .memChDly => s.chDly i
  | .lnkKey => 0
  | .ucsEngCont => (s.engP (s.windowPhys i)).cont
  | .ucsEngGmask => (s.engP (s.windowPhys i)).gmask
  | .acqStat => w.put 31 29 (acqCode (s.acq i).state)
  | .acqMissInfo | .acqMissLo | .acqMissHi => s.missWord i r.k
  | .acqBwStat => s.acqBwWord
  | .mvpStat => w.put 6 6 (b2n s.mvpRuns)
  | .mvpFailE => (s.mvp.fails.headD []).getD i 0
  | .qryLag => (w.put 15 0 (min 65535 s.lagTicks)).put 23 16 (min 255 s.qry.uncov.length)
  | .qryFrame =>
    BitVec.ofNat 32 (((List.range 16).map (fun q => (tabGet s.pauli (16 * i + q) 0).toNat * 4 ^ q)).foldl (· + ·) 0)
  | .ethMacLo => BitVec.ofNat 32 Config.mac.toNat
  | .ethMacHi => BitVec.ofNat 32 (Config.mac.toNat >>> 32)
  | .ethStat => if s.flag ethCtrlEn then w.put 0 0 ((Config.freeWord s.free).toNat % 2) else w
  | .rfoStat => (s.judge.rd .rfoStat i).put 5 5 (b2n (s.rfMuted i))
  | .rfoClipCnt => s.judge.rd .rfoClipCnt i
  | .rfoSlotJmp => w.put 2 2 (b2n (s.slot i r.j).jump.isSome)
  | .rfoRingStat => w.put 13 0 (min 16383 (s.ring i r.j).present.length)
  | .flxLevel => BitVec.ofNat 32 (twos 18 (s.fluxLevel i))
  | .flxSegJmp => w.put 2 2 (b2n (s.flx i).jump.isSome)
  | _ => if 0x400000 ≤ r.addr then s.windowRead i (r.addr % 0x1000) else w

/-- A 32-bit read of BAR0 (R26, R376, R377): one that is not aligned returns all ones. -/
def State.bar0Word (s : State) (a : Nat) : Word :=
  if a % 4 ≠ 0 then 0xFFFFFFFF
  else match s.answers a, regAt a with
  | true, some r => if s.regListed r then s.readReg r else 0
  | _, _ => 0

/-- A node as the node store's window shows it (R227). -/
def QNode.byte (n : QNode) : Byte :=
  BitVec.ofNat 8 (b2n n.m + 2 * b2n n.conf + 4 * b2n n.present + 8 * b2n n.d + 16 * b2n n.resolved)

/-- The node store at a byte of its window: slot × A + a, the slot of bench b being b mod S (R210, R227). -/
def State.nodeByte (s : State) (x : Nat) : Byte :=
  let slot := x / s.qA
  let b := (s.qLo + (slot + s.qS - s.qLo % s.qS) % s.qS) % 65536
  if s.qS ≤ slot then 0 else (tabGet s.qry.nodes (b * 2048 + x % s.qA) {}).byte

/-- A byte of BAR2 (R378, R382, R383). -/
def State.bar2Byte (s : State) (a : Nat) : Byte :=
  if !s.alive then 0
  else if 0x0C100000 ≤ a ∧ a < 0x0C108000 then s.nodeByte (a - 0x0C100000)
  else if 0x0D000000 ≤ a then
    let n := (a - 0x0D000000) / 0x40000
    if n < 1088 then memByte s.sram (engBase (s.windowPhys n) + (a - 0x0D000000) % 0x40000) else 0
  else memByte s.sram a

/-- A read of BAR0 of n bytes at an address (R376): 4 or 8 of them at 4-byte alignment, else all ones. -/
def State.bar0Read (s : State) (a n : Nat) : List Byte :=
  if a % 4 = 0 ∧ (n = 4 ∨ n = 8) then (List.range (n / 4)).flatMap (fun i => (s.bar0Word (a + 4 * i)).bytes) else List.replicate n 0xFF

/-- A read of BAR2 of any size (R378). -/
def State.bar2Read (s : State) (a n : Nat) : List Byte := (List.range n).map (fun i => s.bar2Byte (a + i))

end Sys2Proof.Machine
end

