-- ==== Sys2Proof/Safety.lean ====
section
/-! DEFINITION. What statements say of states: canonical memories, what a command leaves as it was, how an administrative command
is answered, and how an engine instruction issues and moves on. -/
namespace Sys2Proof.Safety
open Sys2Proof.Machine

/-- Both memories are in canonical form. -/
def canonical (s : State) : Bool := Memory.wf s.sram && Memory.wf s.bulk

/-! What a command leaves as it was. -/

/-- Every bit of every register reads as before, but the bits of the fields named. -/
def bitsKept (s t : State) (fs : List Fld) : Prop :=
  ∀ (r : Reg) (i : Nat), (∀ f ∈ fs, f.reg = r → i < f.lo ∨ f.hi < i) → (t.reg r).getLsbD i = (s.reg r).getLsbD i

/-- Every register but those named reads as before. -/
def regsKept (s t : State) (rs : List Reg) : Prop := ∀ r, r ∉ rs → t.reg r = s.reg r

/-- Nothing changed but bits of the fields named. -/
def fieldsOnly (s t : State) (fs : List Fld) : Prop := t = { s with regs := t.regs } ∧ bitsKept s t fs

/-- Every byte of the static memories but `n` bytes from address a reads as before. -/
def sramKept (s t : State) (a n : Nat) : Prop := ∀ b, b < a ∨ a + n ≤ b → memByte t.sram b = memByte s.sram b

/-- Every byte of bulk memory but `n` bytes from offset a reads as before. -/
def bulkKept (s t : State) (a n : Nat) : Prop := ∀ b, b < a ∨ a + n ≤ b → memByte t.bulk b = memByte s.bulk b

/-! Administrative commands. -/

/-- The opcode and the entry of each administrative command that the Caller executes (R22): all but ENTER_SAFE (R33). -/
def adminOf : Instr → Option (Nat × Cmd)
  | .getStatus c => some (0x01, c)
  | .readLog c => some (0x02, c)
  | .enterStandby c => some (0x10, c)
  | .enterDormant c => some (0x11, c)
  | .enterCalibrate c => some (0x12, c)
  | .arm c => some (0x13, c)
  | .start c => some (0x14, c)
  | .stop c => some (0x15, c)
  | .enterService c => some (0x17, c)
  | .loadEngines c _ => some (0x20, c)
  | .loadSegments c _ => some (0x21, c)
  | .configCue c _ => some (0x22, c)
  | .configQuarry c _ => some (0x23, c)
  | .commit c => some (0x24, c)
  | .acqArm c => some (0x30, c)
  | .acqDisarm c => some (0x31, c)
  | .selfCal c => some (0x32, c)
  | .skewCal c => some (0x33, c)
  | .linkConfig c => some (0x40, c)
  | .linkReset c => some (0x41, c)
  | .spareEngine c => some (0x50, c)
  | .spareLane c => some (0x51, c)
  | .memRepair c => some (0x52, c)
  | .flashWrite c _ => some (0x60, c)
  | .fwActivate c => some (0x61, c)
  | .ucsLoadOpen c _ => some (0x62, c)
  | .setThresholds c => some (0x70, c)
  | .readTelemetry c => some (0x71, c)
  | .callerRestart c => some (0x72, c)
  | _ => none

/-- The bits of an administrative command's words that may be set (R305 and the parameter words of each command). -/
def entryBits (op : Nat) (c : Cmd) : Tab Nat :=
  match op with
  | 0x02 => [(1, wordMask)]
  | 0x13 | 0x14 | 0x15 | 0x20 | 0x22 | 0x23 => [(1, wordMask), (2, wordMask)]
  | 0x21 => [(1, 0x1FF), (2, wordMask), (3, wordMask)]
  | 0x30 => [(1, 0xFFFF), (2, wordMask), (3, wordMask)]
  | 0x31 => [(1, 0xFFFF)]
  | 0x33 => [(1, 0x1FF)]
  | 0x41 => [(1, 0x3F)]
  | 0x50 => [(1, 0x3FF), (2, 0x7FF)]
  | 0x51 => [(1, 7), (2, 7)]
  | 0x52 => [(1, 0x800000FF), (2, if (c.w 1).bit 31 then wordMask else 0x3FFFF)]
  | 0x60 => [(1, 0xF), (2, wordMask), (3, wordMask), (4, wordMask), (5, wordMask), (6, wordMask)]
  | 0x61 => [(1, 0x8000000F)]
  | 0x62 => [(1, 3), (2, wordMask), (3, wordMask)]
  | 0x70 => [(1, 0x8000000F), (2, wordMask), (3, 0xFF)]
  | _ => []

/-- What an administrative command's words name exists: an output, a link and its lane, a kind of image and its place, a store
class, a zone (R138, R271, R278, R305, R349, R362). -/
def entryNames (op : Nat) (c : Cmd) : Bool :=
  match op with
  | 0x21 => decide ((c.w 1).bits 8 0 < 336)
  | 0x51 => decide ((c.w 1).bits 2 0 < 6) && decide ((c.w 2).bits 2 0 < 5)
  | 0x60 => decide (1 ≤ (c.w 1).bits 3 0) && decide ((c.w 1).bits 3 0 ≤ 3)
      && (if (c.w 1).bits 3 0 = 3 then decide (c.w64 5 % 65536 = 0) && decide (0x1000000 ≤ c.w64 5) else decide (c.w64 5 = 0))
  | 0x61 => decide (1 ≤ (c.w 1).bits 3 0) && decide ((c.w 1).bits 3 0 ≤ 2)
  | 0x62 => decide ((c.w 1).bits 1 0 ≠ 3)
  | 0x70 => decide ((c.w 1).bits 3 0 < 10) || decide ((c.w 1).bits 3 0 = 15)
  | _ => true

/-- An administrative command is legal in itself (R305). -/
def entryOk (op : Nat) (c : Cmd) : Bool := Cmd.only c (entryBits op c) && entryNames op c

/-- The Caller serves, and its queue is empty or has this command's entry at the head. These are conditions on the state and the
entry alone, and u is computed from the state: s without the entry, undefined opcodes that then stand at the head completed
(R22, R305, R340). With an empty queue u is s. -/
def served (s : State) (op : Nat) (c : Cmd) (u : State) : Prop :=
  s.callerServing = true
    ∧ s.adminQ.head?.all (fun q => decide (q.tag = c.tag ∧ q.opcode = op ∧ q.rsvd = c.rsvd ∧ (pad16 q.words).take 15 = c.params)) = true
    ∧ u = { s with adminQ := s.adminQ.tail }.skimQ

/-- What an administrative command needs in order to execute: it is served, every word and bit of its entry outside `ms` is 0, and
mode, transition and Caller let it (`verdict`). All are conditions on the state and the entry alone; u, in which it executes, is
`served`'s (R22, R28, R305). -/
def runs (s : State) (op : Nat) (c : Cmd) (ms : Tab Nat) (u : State) : Prop :=
  served s op c u ∧ Cmd.only c ms = true ∧ u.verdict op = none

/-- u with one completion more, and vector 0 waiting if it is due; nothing else (R307, R315). -/
def completed (u t : State) (tag : BitVec 16) (op : Nat) (st : Status) (detail : Nat := 0) (res : List Word := []) : Prop :=
  t = { u with cpls := u.cpls ++ [⟨tag, op, st, u.modeWord, BitVec.ofNat 32 detail, u.tt, res⟩], msix := t.msix }
    ∧ (t.msix = u.msix ∨ t.msix = u.msix ++ [0])

/-- One completion more is waiting, of this command with this status and these result words (R307). -/
def answered (u t : State) (tag : BitVec 16) (op : Nat) (st : Status) (res : List Word := []) : Prop :=
  ∃ e, t.cpls = u.cpls ++ [e] ∧ e.tag = tag ∧ e.opcode = op ∧ e.status = st ∧ e.results = res

/-- A transition to m has begun for a command, and nothing else but ramps of flux outputs that are to go off (R25, R29, R161). -/
def beginning (u t : State) (m : Mode) (tag : BitVec 16) (op : Nat) (set : List Nat) : Prop :=
  t = { u with trans := some ⟨m, some (tag, op), set, u.convertersOn.flx⟩, startAt := none, flux := t.flux, regs := t.regs }
    ∧ bitsKept u t ((List.range 256).map flxStatRamping)

/-! Configuration images (R201, R226). -/

/-- The registers that an image names, with its values. -/
def imageRegs (reg : Nat → Option Reg) (img : CfgImage) : List (Reg × Word) := img.regs.filterMap (fun x => (reg x.1).map (fun r => (r, x.2)))

/-- The registers as an image would leave them. -/
def imageWritten (reg : Nat → Option Reg) (img : CfgImage) (u : State) : State :=
  (imageRegs reg img).foldl (fun st e => st.writeOwn e.1 e.2) u

/-- The registers whose value in an image sets a reserved bit. -/
def imageReserved (reg : Nat → Option Reg) (img : CfgImage) : List Reg :=
  ((imageRegs reg img).filter (fun e => reservedSet e.1.k e.2)).map (·.1)

/-- The seam table as an image would leave it. -/
def seamsWritten (img : CfgImage) (u : State) : State :=
  { u with sram := img.seams.foldl (fun m x => memSetWords m (seamBase + 8 * x.1) [x.2.1, x.2.2]) u.sram }

/-- Physical engine p has stopped by tick t (R29, R31, R71), or is inside a running micro-routine, which stops it at its next safe
point and deposits nothing more (R269). -/
def stopped (u : State) (p t : Nat) : Prop :=
  liveState (u.engP p).state = true → (u.engP p).state = .running ∧ (u.engP p).haltReq = true
    ∧ ∃ r, (u.engP p).routine = some r ∧ r.drop = some t

/-! Engine instructions. -/

/-- Time has come to the tick in which engine e can issue its next instruction (R59). -/
def atIssue (s : State) (e : Nat) : State := s.advanceTo (s.issueTick e)

/-- No microword of patch RAM holds a wrong bit (R273). -/
def soundPatch (u : State) : Prop := ∀ a, patchBase .te ≤ a → tabGet u.upsets a 0 = 0

/-- No word of engine e's memories, nor of patch RAM, holds a wrong bit (R58, R273). -/
def soundMemory (u : State) (e : Nat) : Prop :=
  (∀ a, engBase (u.phys e) ≤ a → a < engBase (u.phys e) + 0x28000 → tabGet u.upsets a 0 = 0) ∧ soundPatch u

/-- Engine e may issue an instruction, no fault of an earlier one is due, and its memories hold no wrong bit (R58, R59, R89). -/
def atBoundary (s : State) (e : Nat) (timeline : Bool := false) : Prop :=
  s.mayIssue e timeline = true ∧ ((atIssue s e).eng e).bdmaBad = none ∧ ((atIssue s e).eng e).eccBad = none ∧ soundMemory (atIssue s e) e

/-- Engine e issues an instruction: it is at a boundary, and the fields suit the form (R59, R79, R81, R104). -/
def issues (s : State) (e : Nat) (f : JWord) (F : Form) (timeline : Bool := false) : Prop :=
  atBoundary s e timeline
    ∧ legalForm F (clsOf e) ((atIssue s e).eng e).level f = true

/-- Its condition is 1 (R59, R78). -/
def holds (s : State) (e : Nat) (f : JWord) : Prop := ((atIssue s e).eng e).cond f = true

/-- It is not the last instruction of the store (R56). -/
def goesOn (s : State) (e : Nat) : Prop := ((atIssue s e).eng e).pc ≠ 16383

/-- An engine instruction issues with condition 1 and falls through. -/
def runsOn (s : State) (e : Nat) (f : JWord) (F : Form) (timeline : Bool := false) : Prop :=
  issues s e f F timeline ∧ holds s e f ∧ goesOn s e

/-- Engine e is g with PC and the next issue tick set and RUNNING; no other engine and nothing else changed. -/
def engineOnly (u t : State) (e : Nat) (g : Eng) : Prop :=
  t = { u with engs := t.engs } ∧ t.eng e = g ∧ ∀ p, p ≠ u.phys e → t.engP p = u.engP p

/-- Engine e moved on by one instruction: g but for PC, the next issue tick and RUNNING; nothing else changed. -/
def movedOn (u t : State) (e : Nat) (g : Eng) (cost : Nat) : Prop :=
  engineOnly u t e { g with pc := (u.eng e).pc + 1, ready := u.now + cost, state := .running }

/-- Engine e jumped: g but for PC, the next issue tick and RUNNING; nothing else changed. -/
def jumped (u t : State) (e : Nat) (g : Eng) (pc cost : Nat) : Prop :=
  engineOnly u t e { g with pc := pc, ready := u.now + cost, state := .running }

/-- Engine e moved on, and of its registers only d changed, to w. -/
def wrote (u t : State) (e d : Nat) (w : Word) (cost : Nat) : Prop :=
  movedOn u t e { u.eng e with g := (t.eng e).g } cost ∧ ∀ r, (t.eng e).reg r = if r = d then w else (u.eng e).reg r

/-- Engine e faulted with a code (R69): FAULTED at the instruction's index, the first fault kept, cue 905 and a log entry, and
nothing else. With FAULT_ACT the SAFE cause ENG is latched as well. -/
def faults (u t : State) (e code : Nat) (arg : Nat := 0) : Prop :=
  ((u.eng e).faultAct = true → (t.rd .glbSafeCause).getLsbD 7 = true)
    ∧ ((u.eng e).faultAct = false →
      t = { u with engs := t.engs, due := u.due ++ [⟨u.now + 1, 905⟩], sram := t.sram, regs := t.regs, rr16 := t.rr16 }
        ∧ (t.eng e).state = .faulted ∧ t.eng e = (u.eng e).faulted code arg (u.eng e).pc
        ∧ ((u.eng e).fltValid = false → (t.eng e).fltValid = true ∧ (t.eng e).fltCode = code ∧ (t.eng e).fltArg = arg
            ∧ (t.eng e).fltPc = (u.eng e).pc)
        ∧ (∀ p, p ≠ u.phys e → t.engP p = u.engP p) ∧ sramKept u t 0x0C500000 0x20000
        ∧ ∀ r : Reg, r.k ≠ .svcLogNext → r.k ≠ .svcLogStat → r.k ≠ .hstRr16Drop → t.reg r = u.reg r)

/-- The engine, fields, form and cost of the instructions whose fields alone decide whether they are legal (R79 to R88). -/
def basicOf : Instr → Option (Fin 1024 × JWord × Form × Nat)
  | .nop e f => some (e, f, {}, 1)
  | .jmp e f => some (e, f, { am := 31, em := 1, im := 0x3FFF, ra := true }, 2)
  | .jmpc e f => some (e, f, { bm := 31, em := 31, im := 0x3FFF }, 1)
  | .call e f => some (e, f, { im := 0x3FFF }, 2)
  | .ret e f => some (e, f, {}, 2)
  | .halt e f => some (e, f, {}, 1)
  | .syncw e f => some (e, f, { im := 0xFFFFFF }, 1)
  | .waitc e f => some (e, f, { dm := 7, bm := 31, em := 31, im := 0xFFFFFF, pd := true }, 1)
  | .fire e f => some (e, f, { im := 0xFF }, 1)
  | .trap e f => some (e, f, { im := 0xFF }, 1)
  | .uop e f => some (e, f, { dm := 31, am := 31, bm := 31, im := 0xFF, rd := true, ra := true, rb := true, l1 := false }, 1)
  | .li e f => some (e, f, { dm := 31, im := 0xFFFFFFFF, rd := true }, 1)
  | .add e i f => some (e, f, intForm i, 1)
  | .sub e i f => some (e, f, intForm i, 1)
  | .and e i f => some (e, f, intForm i, 1)
  | .or e i f => some (e, f, intForm i, 1)
  | .xor e i f => some (e, f, intForm i, 1)
  | .shl e i f => some (e, f, shiftForm i, 1)
  | .shr e i f => some (e, f, shiftForm i, 1)
  | .sar e i f => some (e, f, shiftForm i, 1)
  | .mul e i f => some (e, f, intForm i, 2)
  | .ld e f => some (e, f, { dm := 31, am := 31, em := mField (clsOf e), im := 0xFFFF, rd := true, ra := true }, 2)
  | .st e f => some (e, f, { dm := 31, am := 31, em := mField (clsOf e), im := 0xFFFF, rd := true, ra := true }, 1)
  | .ldv e f => some (e, f, { dm := 31, bm := 31, em := 1, im := 0x1FF, rd := true, rb := true }, 2)
  | .ldf e f => some (e, f, { dm := 31, bm := 31, em := 1, im := 0xFF, rd := true, rb := true, l1 := false }, 2)
  | .csrr e f => some (e, f, { dm := 31, im := 0x3F, rd := true }, 2)
  | .csrw e f => some (e, f, { am := 31, im := 0x3F, ra := true }, 1)
  | .adv e f => some (e, f, { bm := 31, em := 1, im := 0xFFFFFFFF, rb := true }, 1)
  | .clra e f => some (e, f, { te := false, fe := false }, 1)
  | .hist e f => some (e, f, { am := 31, bm := 31, ra := true, rb := true, te := false, fe := false }, 1)
  | .pubv e f => some (e, f, { am := 31, bm := 31, ra := true, rb := true, te := false, fe := false }, 1)
  | .pubs e f => some (e, f, { am := 31, bm := 31, ra := true, rb := true, l1 := false, te := false, fe := false }, 1)
  | _ => none

/-! Timeline instructions. -/

/-- Engine e issues a timeline instruction that deposits its effect: it runs on, its queue has room, and its lead lies in time
(R63 to R65). -/
def timely (s : State) (e : Nat) (f : JWord) (F : Form) : Prop :=
  let u := atIssue s e
  runsOn s e f F true ∧ (u.eng e).depth < (if clsOf e = .me then 8 else 32)
    ∧ (u.eng e).tc.toNat ≤ u.now + 2 ^ 31 ∧ (∀ l, (u.eng e).lastTc = some l → l ≤ (u.eng e).tc.toNat)
    ∧ u.now + (if clsOf e = .me then 24 else 40) ≤ (u.eng e).tc.toNat

/-- The effect is queued at tc, which moves on, and engine e moves on; nothing else changed. -/
def deposits (u t : State) (e : Nat) (eff : Eff) (adv cost : Nat) (played : Bool := false) : Prop :=
  movedOn u t e { u.eng e with
    queue := (u.eng e).queue ++ [⟨(u.eng e).tc.toNat, eff⟩]
    lastTc := some (u.eng e).tc.toNat
    tc := (u.eng e).tc + BitVec.ofNat 64 adv
    played := (u.eng e).played || played } cost

/-- Engine, fields, form, whether the fields are legal beyond the form, and how far tc moves, of the timeline instructions whose
effect depends on their fields and registers alone (R91, R94, R96). -/
def timelineOf : Instr → Option (Fin 1024 × JWord × Form × Bool × Nat)
  | .seta e f => some (e, f, { bm := 31, em := 1, im := 0xFFFF, rb := true, me := false }, true, 0)
  | .tset e f => some (e, f, { im := 7, fe := false, me := false }, true, 0)
  | .mark e f => some (e, f, { im := 0xFFFF0007, me := false }, f.imm.bits 2 1 != 3 || f.imm.bits 31 16 != 0, 0)
  | .wopen e f => some (e, f, { im := 0x1FFF, te := false, fe := false }, decide (1 ≤ f.imm.bits 11 0) && decide (f.imm.bits 11 0 ≤ 4000),
      2 * f.imm.bits 11 0)
  | _ => none

/-! Resets and links. -/

/-- A device reset (R29, R380, R388): every register takes its reset value but the straps, the error log's counters and HKP_TRIP;
the log and the flash stand; everything else is as after reset, but for rails that do not come up. -/
def wasReset (s t : State) (railsOk : Bool) : Prop :=
  t = { State.reset with
        pending := s.pending, free := s.free, half := s.half, regs := t.regs, sram := t.sram, flash := { s.flash with todo := [] }
        power := railsOk, railWait := !railsOk }
    ∧ (∀ r : Reg, t.reg r = if r.k ∈ [RegK.lnkId, .svcLogNext, .svcLogStat, .hkpTrip] then s.reg r else BitVec.ofNat 32 r.reset)
    ∧ ∀ a, memByte t.sram a = if 0x0C500000 ≤ a ∧ a < 0x0C520000 then memByte s.sram a else 0

/-- Link l has room for n more flits of a class (R283). -/
def hasRoom (s : State) (l cls n : Nat) : Prop :=
  ((s.link l).out.filter (fun x => x.cls == cls)).foldl (fun k x => k + x.size) 0 + n ≤ 1024

/-- What a host would see of completions: tag, opcode and status of each. -/
def statuses (s : State) : List (BitVec 16 × Nat × Status) := s.cpls.map (fun e => (e.tag, e.opcode, e.status))

end Sys2Proof.Safety
end

