-- ==== Sys2Proof/Certificates/Slice0/Obligations.lean ====
section
/-! DEFINITION. The statements about the JV2 model, for the provers: `Obligations.<Name>`. Every one is about all states and
operands that meet its hypotheses. -/
open Sys2Proof Sys2Proof.Machine Sys2Proof.Safety

/-! Steps. -/

/-- A step runs the command at the front of the queue, with the rest of the queue waiting. -/
def Obligations.StepRunsFront : Prop :=
  ∀ (c : Instr) (rest : List Instr) (s : State), s.pending = c :: rest → step s = exec c { s with pending := rest }

/-- On an empty queue time passes (the model's choice, log entries 2 and 142): one tick, in
DORMANT up to the next crystal cycle of 40 (R51), none without power, and a tick more only where an engine whose FAULT_ACT is set
can fault and bring SAFE in the next tick; the queue stays empty. -/
def Obligations.IdleStepIsTime : Prop :=
  ∀ s : State, s.pending = [] → ∃ t, step s = .next t ∧ t.pending = []
    ∧ (s.power = false → t = s)
    ∧ (s.power = true → (if s.mode = .dormant then 40 * (s.up / 40 + 1) else s.up + 1) ≤ t.up)
    ∧ (s.power = true → (∀ x ∈ s.engs, x.2.faultAct = false) →
        t.up = (if s.mode = .dormant then 40 * (s.up / 40 + 1) else s.up + 1))

/-- What the first reads after a device reset show, both memories canonical and empty. -/
def Obligations.ResetState : Prop :=
  State.reset.bar0Word 0x000000 = 0x4A560002 ∧ State.reset.bar0Word 0x000010 = 0x00000120 ∧ State.reset.bar0Word 0x000018 = 0x001F0000
    ∧ State.reset.pending = [] ∧ State.reset.mode = .boot ∧ State.reset.tt = 0 ∧ canonical State.reset = true
    ∧ ∀ a, memByte State.reset.sram a = 0 ∧ memByte State.reset.bulk a = 0

/-- Every step keeps both memories in canonical form. -/
def Obligations.StepKeepsCanonical : Prop :=
  ∀ s t : State, canonical s = true → step s = .next t → canonical t = true

/-- Every step takes the command at the front of the queue, and no command adds, removes or reorders others. The fused
minimum SVN of an image kind never falls, whatever the step. -/
def Obligations.EveryStepKeeps : Prop :=
  (∀ s t : State, step s = .next t → t.pending = s.pending.tail)
    ∧ (∀ s t : State, step s = .next t → s.flash.minGh ≤ t.flash.minGh ∧ s.flash.minPa ≤ t.flash.minPa)

/-- The address of every register of BAR0 decodes to that register. -/
def Obligations.RegisterAddresses : Prop :=
  ∀ r : Reg, r.i < r.k.place.n1 → r.j < r.k.place.n2 → regAt r.addr = some r

/-- A read of BAR0 that is not aligned to 4 bytes returns all ones, and in DORMANT a block other than GLB and CLK reads 0. -/
def Obligations.Bar0Reads : Prop :=
  (∀ (s : State) (a : Nat), a % 4 ≠ 0 → s.bar0Word a = 0xFFFFFFFF)
    ∧ ∀ (s : State) (a : Nat), a % 4 = 0 → s.mode = .dormant → 0x10000 ≤ a → (a < 0x20000 ∨ 0x30000 ≤ a) → s.bar0Word a = 0

/-! Administrative commands. -/

/-- A command whose entry is not legal in itself completes with FORMAT, whatever the mode, and nothing else happens. One that is
legal in itself but not in the present mode completes with STATE; its only traces are the completion and one count in
SVC_STATE_REJ. While a transition runs, a mode command (opcodes 0x10 to 0x17) completes with BUSY and has no other effect. -/
def Obligations.RefusedCommands : Prop :=
  (∀ (i : Instr) (op : Nat) (c : Cmd) (s u : State), adminOf i = some (op, c) → served s op c u → entryOk op c = false →
     ∃ t, exec i s = .next t ∧ completed u t c.tag op .format)
    ∧ (∀ (i : Instr) (op : Nat) (c : Cmd) (s u : State), adminOf i = some (op, c) → served s op c u → entryOk op c = true →
         u.trans = none → u.bootFailed = false → u.fld glbCallerStatState ≠ 4 → legal op u.mode = false →
         ∃ t, exec i s = .next t ∧ completed (u.countReg .svcStateRej) t c.tag op .state
           ∧ t.rdn .svcStateRej = min (2 ^ 32 - 1) (u.rdn .svcStateRej + 1) ∧ regsKept u t [⟨.svcStateRej, 0, 0⟩])
    ∧ (∀ (i : Instr) (op : Nat) (c : Cmd) (s u : State) (x : Trans), adminOf i = some (op, c) → 0x10 ≤ op → op ≤ 0x17 →
         served s op c u → entryOk op c = true → u.trans = some x → u.bootFailed = false → u.fld glbCallerStatState ≠ 4 →
         ∃ t, exec i s = .next t ∧ completed u t c.tag op .busy)

/-- GET_STATUS completes with its eight result words; READ_LOG with the eight words of an entry that the log holds, and with RANGE for
another number; COMMIT with OK; READ_TELEMETRY with ten free values (log entry 8). Each takes its entry from the queue and adds its
completion; READ_TELEMETRY also advances the counter behind the free values; nothing else changes. SET_THRESHOLDS writes the
thresholds of one zone, or of all ten for zone 15, and completes with OK; out of order or of range it completes with RANGE and
changes nothing. The round in progress is still judged by the thresholds that stood before. With PERSIST, while the flash-write window
is open, its records are appended to the journal, or every current value is written to the other region (the choice between them is
open but after a torn record, log entry 18); with the window closed they wait, PEND is set and the result word is 1. Without PERSIST
neither the journal nor the flash changes. -/
def Obligations.ReadsAndThresholds : Prop :=
  ((∀ (c : Cmd) (s u : State), runs s 0x01 c [] u → ∃ t, exec (.getStatus c) s = .next t ∧ completed u t c.tag 0x01 .ok 0
       [u.modeWord, u.rd .glbSafeCause, u.rd .glbXingStat, u.rd .clkEpoch, u.rd .clkRefStat, u.rd .glbStreamStat, u.rd .qryStat,
        u.rd .hstLinkStat])
     ∧ (∀ (c : Cmd) (s u : State), runs s 0x02 c [(1, wordMask)] u → ∃ t, exec (.readLog c) s = .next t ∧
         (if (c.w 1).toNat < u.rdn .svcLogNext ∧ u.rdn .svcLogNext ≤ (c.w 1).toNat + u.fld svcLogStatHeld then
           completed u t c.tag 0x02 .ok 0 (memWords u.sram (0x0C500000 + 32 * ((c.w 1).toNat % 4096)) 8)
         else completed u t c.tag 0x02 .range))
     ∧ (∀ (c : Cmd) (s u : State), runs s 0x24 c [] u → ∃ t, exec (.commit c) s = .next t ∧ completed u t c.tag 0x24 .ok)
     ∧ ∀ (c : Cmd) (s u : State), runs s 0x71 c [] u → ∃ t, exec (.readTelemetry c) s = .next t ∧
         completed { u with free := t.free } t c.tag 0x71 .ok 0 ((List.range 10).map (fun i => Config.freeWord (u.free + i))))
    ∧ (∀ (c : Cmd) (s u : State), runs s 0x70 c [(1, 0x8000000F), (2, wordMask), (3, 0xFF)] u →
         ((c.w 1).bits 3 0 < 10 ∨ (c.w 1).bits 3 0 = 15) →
         (thrOk (c.w 2) (c.w 3) = false → ∃ t, exec (.setThresholds c) s = .next t ∧ completed u t c.tag 0x70 .range)
         ∧ (thrOk (c.w 2) (c.w 3) = true → ∃ t res, exec (.setThresholds c) s = .next t ∧ answered u t c.tag 0x70 .ok res
             ∧ (∀ z, z < 10 → ((c.w 1).bits 3 0 = 15 ∨ (c.w 1).bits 3 0 = z) → t.rd .hkpThrA z = c.w 2 ∧ t.rd .hkpThrB z = c.w 3)
             ∧ (∀ r : Reg, r.k ≠ .hkpThrA → r.k ≠ .hkpThrB → r.k ≠ .glbPersist → t.reg r = u.reg r)
             ∧ (∀ z, (c.w 1).bits 3 0 ≠ 15 → (c.w 1).bits 3 0 ≠ z → t.rd .hkpThrA z = u.rd .hkpThrA z ∧ t.rd .hkpThrB z = u.rd .hkpThrB z)
             ∧ t = { u with regs := t.regs, flash := t.flash, free := t.free, cpls := t.cpls, msix := t.msix, hkp := t.hkp }
             ∧ t.hkp = { u.hkp with thr := t.hkp.thr } ∧ (∀ z k, z < 10 → t.threshold z k = u.threshold z k)
             ∧ ((c.w 1).bit 31 = false → res = [] ∧ t.flash = u.flash ∧ t.free = u.free ∧ t.rd .glbPersist = u.rd .glbPersist)
             ∧ ∀ recs, (c.w 1).bit 31 = true →
                 recs = ((if (c.w 1).bits 3 0 = 15 then List.range 10 else [(c.w 1).bits 3 0]).map (fun z => JRec.thr z (c.w 2) (c.w 3))) →
                 (u.flashOpen = true → res = [] ∧ t.flash.torn = false
                     ∧ (u.flash.torn = false ∧ t.flash.region = u.flash.region ∧ t.flash.recs = u.flash.recs ++ recs
                       ∨ t.flash.region = !u.flash.region ∧ t.flash.recs = t.journalNow))
                 ∧ (u.flashOpen = false → res = [1] ∧ t.flash.recs = u.flash.recs ∧ t.flag glbPersistPend = true
                     ∧ ∃ old, t.flash.todo = old ++ recs ∧ ∀ r ∈ old, r ∈ u.flash.todo)))

/-- ENTER_STANDBY, ENTER_DORMANT, ENTER_CALIBRATE and ENTER_SERVICE begin a transition where their guards hold, the mode itself
unchanged. Where the device already is in the mode, ENTER_STANDBY and ENTER_CALIBRATE complete at once with OK. A guard that fails
completes the command: BUSY for a ramp, a flash write, an armed unit or an open ring, FAULT for an asserted cause or the power
guard. -/
def Obligations.EnterModesBegin : Prop :=
  (∀ (c : Cmd) (s u : State), runs s 0x10 c [] u → u.mode = .standby →
      ∃ t, exec (.enterStandby c) s = .next t ∧ completed u t c.tag 0x10 .ok)
    ∧ (∀ (c : Cmd) (s u : State), runs s 0x10 c [] u → (u.mode = .calibrate ∨ u.mode = .armed) →
        ∃ t, exec (.enterStandby c) s = .next t ∧ beginning u t .standby c.tag 0x10 [])
    ∧ (∀ (c : Cmd) (s u : State), runs s 0x10 c [] u → u.mode = .safe → (∀ i, i < 256 → u.flag (flxStatRamping i) = false) →
        u.safeAsserted = false → ∃ t, exec (.enterStandby c) s = .next t ∧ beginning u t .standby c.tag 0x10 [])
    ∧ (∀ (c : Cmd) (s u : State), runs s 0x10 c [] u → u.mode = .safe →
        ((∃ i, i < 256 ∧ u.flag (flxStatRamping i) = true) → ∃ t, exec (.enterStandby c) s = .next t ∧ completed u t c.tag 0x10 .busy)
        ∧ ((∀ i, i < 256 → u.flag (flxStatRamping i) = false) → u.safeAsserted = true →
            ∃ t, exec (.enterStandby c) s = .next t ∧ completed u t c.tag 0x10 .fault))
    ∧ (∀ (c : Cmd) (s u : State), runs s 0x10 c [] u → (u.mode = .dormant ∨ (u.mode = .service ∧ ∀ b ∈ u.bg, flashJob b.job = false)) →
        ∃ t x, exec (.enterStandby c) s = .next t ∧ t.mode = u.mode ∧ t.trans = some x ∧ x.cmd = some (c.tag, 0x10)
          ∧ x.target = (if u.safePending then .safe else .standby) ∧ t.cpls = u.cpls)
    ∧ (∀ (c : Cmd) (s u : State), runs s 0x10 c [] u → u.mode = .service → (∃ b ∈ u.bg, flashJob b.job = true) →
        ∃ t, exec (.enterStandby c) s = .next t ∧ completed u t c.tag 0x10 .busy)
    ∧ (∀ (c : Cmd) (s u : State), runs s 0x11 c [] u → u.armedUnits = [] → u.fld glbStreamStatOpenCnt = 0 →
        ∃ t, exec (.enterDormant c) s = .next t ∧ beginning u t .dormant c.tag 0x11 [])
    ∧ (∀ (c : Cmd) (s u : State), runs s 0x11 c [] u → (u.armedUnits ≠ [] ∨ u.fld glbStreamStatOpenCnt ≠ 0) →
        ∃ t, exec (.enterDormant c) s = .next t ∧ completed u t c.tag 0x11 .busy)
    ∧ (∀ (c : Cmd) (s u : State), runs s 0x12 c [] u → u.mode = .standby → u.powerGuard = true →
        ∃ t, exec (.enterCalibrate c) s = .next t ∧ completed u t c.tag 0x12 .fault)
    ∧ (∀ (c : Cmd) (s u : State), runs s 0x12 c [] u → u.mode = .calibrate →
        ∃ t, exec (.enterCalibrate c) s = .next t ∧ completed u t c.tag 0x12 .ok)
    ∧ (∀ (c : Cmd) (s u : State), runs s 0x12 c [] u → (u.mode = .armed ∨ (u.mode = .standby ∧ u.powerGuard = false)) →
        ∃ t, exec (.enterCalibrate c) s = .next t ∧ beginning u t .calibrate c.tag 0x12 [])
    ∧ (∀ (c : Cmd) (s u : State), runs s 0x17 c [] u → u.fld glbStreamStatOpenCnt = 0 →
        ∃ t, exec (.enterService c) s = .next t ∧ beginning u t .service c.tag 0x17 [])
    ∧ ∀ (c : Cmd) (s u : State), runs s 0x17 c [] u → u.fld glbStreamStatOpenCnt ≠ 0 →
        ∃ t, exec (.enterService c) s = .next t ∧ completed u t c.tag 0x17 .busy

/-- ARM checks its guards and begins the transition to ARMED with the start set of its map; START is accepted with T_s at least
10,000 ticks ahead and at most 2^40; STOP is accepted with T_stop at least 64 ticks ahead, 0 meaning 64. -/
def Obligations.ArmStartStop : Prop :=
  (∀ (c : Cmd) (s u : State), runs s 0x13 c [(1, wordMask), (2, wordMask)] u → u.bulkUsable (c.w64 1) 128 = true →
      u.notPoisoned (c.w64 1) 128 = true → u.armGuard (u.startMap (c.w64 1)) = true →
      ∃ t x, exec (.arm c) s = .next t ∧ t.trans = some x ∧ x.target = .armed ∧ x.cmd = some (c.tag, 0x13)
        ∧ x.startSet = u.startMap (c.w64 1) ∧ t.mode = u.mode ∧ t.startAt = none ∧ t.cpls = u.cpls
        ∧ t.sram = u.sram ∧ t.bulk = u.bulk ∧ t.engs = u.engs)
    ∧ (∀ (c : Cmd) (s u : State), runs s 0x13 c [(1, wordMask), (2, wordMask)] u → u.bulkUsable (c.w64 1) 128 = true →
        u.notPoisoned (c.w64 1) 128 = true → u.armGuard (u.startMap (c.w64 1)) = false →
        ∃ t, exec (.arm c) s = .next t ∧ completed u t c.tag 0x13 .fault)
    ∧ (∀ (c : Cmd) (s u : State), runs s 0x14 c [(1, wordMask), (2, wordMask)] u → ∃ t, exec (.start c) s = .next t ∧
        (if c.w64 1 < u.now + 10000 then completed u t c.tag 0x14 .late
        else if u.now + 2 ^ 40 < c.w64 1 then completed u t c.tag 0x14 .range
        else if u.loadingAny u.startSet = true ∨ u.startAt.isSome = true then completed u t c.tag 0x14 .busy
        else if u.flag hkpStatLowCritAny = true then completed u t c.tag 0x14 .fault
        else completed { u with startAt := some (c.w64 1) } t c.tag 0x14 .ok))
    ∧ ∀ (c : Cmd) (s u : State), runs s 0x15 c [(1, wordMask), (2, wordMask)] u → ∃ t, exec (.stop c) s = .next t ∧
        (if c.w64 1 ≠ 0 ∧ c.w64 1 < u.now + 64 then completed u t c.tag 0x15 .late
        else t = { u with trans := some ⟨.armed, some (c.tag, 0x15), u.startSet, []⟩,
                          stopAt := some (if c.w64 1 = 0 then u.now + 64 else c.w64 1) })

/-! SAFE, runs and transitions. -/

/-- A SAFE request in STANDBY, CALIBRATE, ARMED or RUN: the device is in SAFE in the same tick, every engine has stopped, but for one
inside a running micro-routine, which has a halt request for its next safe point and whose later deposits are dropped; no effect
with tc of that tick or later is left, no transition, START or STOP is left, the cause is latched and vector 18 waits. ENTER_SAFE
enters SAFE and completes with OK from STANDBY, CALIBRATE, ARMED and RUN, needs no place in the queue, completes with OK in SAFE
without another effect, latches the request in DORMANT and SERVICE, and completes with STATE in BOOT. -/
def Obligations.EnteringSafe : Prop :=
  (∀ s : State, s.power = true → (s.mode = .standby ∨ s.mode = .calibrate ∨ s.mode = .armed ∨ s.mode = .run) →
     ∃ t, exec .safeReq s = .next t ∧ t.mode = .safe ∧ t.trans = none ∧ t.startAt = none ∧ t.stopAt = none ∧ t.tt = s.tt
       ∧ t.modeSeq = s.modeSeq + 1 ∧ t.safePending = false ∧ (t.rd .glbSafeCause).getLsbD 1 = true ∧ 18 ∈ t.msix
       ∧ (∀ p, stopped t p s.now ∧ ∀ q ∈ (t.engP p).queue, q.tc < s.now)
       ∧ (∀ b ∈ t.bg, interrupted b.job = false) ∧ t.bulk = s.bulk)
    ∧ ((∀ (c : Cmd) (s : State), s.power = true → Cmd.only c [] = true →
           (s.mode = .standby ∨ s.mode = .calibrate ∨ s.mode = .armed ∨ s.mode = .run) →
           ∃ t e, exec (.enterSafe c) s = .next t ∧ t.mode = .safe ∧ t.trans = none ∧ t.adminQ = s.adminQ
             ∧ (t.rd .glbSafeCause).getLsbD 0 = true ∧ t.cpls.getLast? = some e ∧ e.tag = c.tag ∧ e.opcode = 0x16 ∧ e.status = .ok)
         ∧ (∀ (c : Cmd) (s : State), s.power = true → Cmd.only c [] = true → s.mode = .safe → s.trans = none →
             ∃ t, exec (.enterSafe c) s = .next t ∧ completed s t c.tag 0x16 .ok)
         ∧ (∀ (c : Cmd) (s : State), s.power = true → Cmd.only c [] = true → (s.mode = .dormant ∨ s.mode = .service) →
             ∃ t, exec (.enterSafe c) s = .next t ∧ t.mode = s.mode ∧ t.safePending = true ∧ answered s t c.tag 0x16 .ok
               ∧ (t.rd .glbSafeCause).getLsbD 0 = true)
         ∧ ∀ (c : Cmd) (s : State), s.power = true → Cmd.only c [] = true → s.mode = .boot → s.bootFailed = false →
             ∃ t, exec (.enterSafe c) s = .next t ∧ completed (s.countReg .svcStateRej) t c.tag 0x16 .state)

/-- At T_s of an accepted START the device is in RUN and each HELD engine of the start set is RUNNING with tc = T_s + 128,
only p0 set and every general register 0, to issue its first instruction in that tick. At T_stop every engine stops, but for one
inside a running micro-routine, which does so at its next safe point, and effects with tc of T_stop or later are gone; a run whose
engines have all stopped begins its return to ARMED. -/
def Obligations.RunsBeginAndEnd : Prop :=
  (∀ (s : State) (ts : Nat), s.power = true → s.mode = .armed → s.trans = none → s.startAt = some ts →
     ∃ t, exec .runStart s = .next t ∧ t.mode = .run ∧ t.startAt = none ∧ t.ts = (s.advanceTo ts).now ∧ t.modeSeq = s.modeSeq + 1
       ∧ t.bulk = s.bulk
       ∧ ∀ e ∈ s.startSet, s.logical (s.phys e) = e → ((s.advanceTo ts).eng e).state = .held →
           (t.eng e).state = .running ∧ (t.eng e).tc = BitVec.ofNat 64 (t.ts + 128) ∧ (t.eng e).preds = 1 ∧ (t.eng e).ready = t.ts
             ∧ (t.eng e).queue = [] ∧ (t.eng e).stack = [] ∧ (t.eng e).loops = [] ∧ ∀ r, (t.eng e).reg r = 0)
    ∧ ((∀ (s : State) (ts : Nat), s.power = true → s.mode = .run → s.stopAt = some ts →
           s.engs.any (fun e => e.2.queue.any (fun q => q.tc < ts)) = false →
           ∃ t, exec .stopTime s = .next t ∧ t.stopAt = none ∧ t.mode = .run ∧ t.trans = s.trans
             ∧ ∀ p, stopped t p ts ∧ (t.engP p).queue = [])
         ∧ ∀ s : State, s.power = true → s.mode = .run → s.trans = none → s.runDone = true →
             exec .runComplete s = .next { s.advanceTo s.lastEnd with trans := some ⟨.armed, none, s.startSet, []⟩ })

/-- The end of a transition, with every unit aligned, no cause latched and, for ARM, its checks not spoilt by a configuration write:
the device is in the mode, MODE_SEQ has counted it, and the command that began it completes with OK, or, ARM and ENTER_CALIBRATE,
with DEGRADED while a memory group is out of service. An ARM whose checks have been spoilt completes with FAULT in the mode it began
in. WAKE begins the return of a DORMANT device, and its links in keep-alive train. -/
def Obligations.TransitionsEndAndWake : Prop :=
  (∀ (s : State) (x : Trans), s.power = true → s.trans = some x → s.stopAt = none → s.safePending = false →
     ((s.mode = .dormant ∨ s.mode = .service) ∧ x.target = .standby ∨ s.mode = .run ∧ x.target = .armed
       ∨ (s.mode = .standby ∨ s.mode = .calibrate ∨ s.mode = .armed ∨ s.mode = .safe)
         ∧ (x.target = .dormant ∨ x.target = .service ∨ x.target = .calibrate ∨ x.target = .armed ∨ x.target = .standby)) →
     (x.target = .armed → s.mode ≠ .run → s.armChecked = true) →
     ∃ t, exec (.transitionEnd {}) s = .next t ∧ t.mode = x.target ∧ t.trans = none ∧ t.modeSeq = s.modeSeq + 1
       ∧ ∀ tag op, x.cmd = some (tag, op) → ∃ e, t.cpls.getLast? = some e ∧ e.tag = tag ∧ e.opcode = op
           ∧ e.status = (if s.mode ≠ .run ∧ (x.target = .calibrate ∨ x.target = .armed) ∧ s.fld memStatInService ≠ 0xF then .degraded
             else .ok))
    ∧ (∀ (s : State) (x : Trans) (tag : BitVec 16), s.power = true → s.trans = some x → s.stopAt = none → x.target = .armed →
         x.cmd = some (tag, 0x13) → (s.mode = .standby ∨ s.mode = .calibrate ∨ s.mode = .armed) → s.armChecked = false →
         ∃ t e, exec (.transitionEnd {}) s = .next t ∧ t.mode = s.mode ∧ t.trans = none ∧ t.modeSeq = s.modeSeq
           ∧ t.cpls.getLast? = some e ∧ e.tag = tag ∧ e.opcode = 0x13 ∧ e.status = .fault)
    ∧ (∀ s : State, s.power = true → s.mode = .dormant → s.trans = none →
         ∃ t x, exec .wake s = .next t ∧ t.trans = some x ∧ x.cmd = none ∧ x.target = (if s.safePending then .safe else .standby)
           ∧ t.mode = .dormant ∧ t.sram = s.sram ∧ t.bulk = s.bulk ∧ t.cpls = s.cpls
           ∧ ∀ l, l < 6 → s.linkState l = 6 → t.linkState l = 1)



/-! Background commands and loads. -/

/-- LOAD_ENGINES begins with the images that pass: their engines are UNLOADED, every other engine is as before, and one job
is added. LOAD_SEGMENTS of one entry: written whole at its descriptor, its granules and its marker words, or dropped whole
and counted if the gate closes its descriptor; nothing else is stored, and the completion comes with the job. UCS_LOAD_OPEN,
MEM_REPAIR and FLASH_WRITE begin their jobs when their checks pass, FLASH_WRITE of a firmware kind with its target copy no longer
valid; a store image that fails completes with FORMAT and its reason, which UCS_LOAD_STAT shows too, a repair with no resource with
ABSENT, a container that fails with its status; none of these has another effect. -/
def Obligations.LoadsAndStoresBegin : Prop :=
  (∀ (c : Cmd) (img : List EngineImage) (s u : State), runs s 0x20 c [(1, wordMask), (2, wordMask)] u →
     u.imageAt (c.w64 1) = true → u.startAt = none → (img = [] ∨ ∃ i ∈ img, EngineImage.ok i (clsOf i.engine) = true) →
     ∃ t good, exec (.loadEngines c img) s = .next t ∧ good = img.filter (fun i => EngineImage.ok i (clsOf i.engine))
       ∧ t = { u with engs := t.engs, bg := u.bg ++ [⟨c.tag, 0x20, .loadEngines good (good.length != img.length)⟩] }
       ∧ (∀ i ∈ good, (t.eng i.engine).state = .unloaded ∧ (t.eng i.engine).img = none)
       ∧ ∀ p, (∀ i ∈ good, p ≠ u.phys i.engine) → t.engP p = u.engP p)
    ∧ (∀ (c : Cmd) (x : SegEntry) (s u : State) (o : Nat), runs s 0x21 c [(1, 0x1FF), (2, wordMask), (3, wordMask)] u →
         u.imageAt (c.w64 2) = true → o = (c.w 1).bits 8 0 → o < 336 → SegEntry.ok x o = true →
         (u.gateDesc o x.desc.toNat = true →
           ∃ t, exec (.loadSegments c [x]) s = .next t ∧ t.bg = u.bg ++ [⟨c.tag, 0x21, .loadSegments o [] 1⟩]
             ∧ t = { u with regs := t.regs, bg := t.bg } ∧ t.flag (wdrop o) = true
             ∧ ∀ r : Reg, r ≠ (wdrop o).reg → r ≠ ⟨.rfoSegWdropCnt, o, 0⟩ → r ≠ ⟨.flxSegWdropCnt, o - 80, 0⟩ → t.reg r = u.reg r)
         ∧ (u.gateDesc o x.desc.toNat = false → u.gateRegions o = [] →
           ∃ t, exec (.loadSegments c [x]) s = .next t
             ∧ t = { u with sram := t.sram, gate := t.gate,
                            bg := u.bg ++ [⟨c.tag, 0x21, .loadSegments o [x.desc.toNat] 0⟩] }
             ∧ t.desc0 o x.desc.toNat = x.word0 ∧ t.desc1 o x.desc.toNat = x.word1
             ∧ memWords t.sram (libAddr o + 64 * dStart x.word0) x.samples.length = x.samples
             ∧ memWords t.sram (markAddr o + 4 * dStart x.word0) x.markers.length = x.markers
             ∧ ∀ b, (b < descAddr o x.desc.toNat ∨ descAddr o x.desc.toNat + 8 ≤ b) →
                 (b < libAddr o + 64 * dStart x.word0 ∨ libAddr o + 64 * dStart x.word0 + 4 * x.samples.length ≤ b) →
                 (b < markAddr o + 4 * dStart x.word0 ∨ markAddr o + 4 * dStart x.word0 + 4 * x.markers.length ≤ b) →
                 memByte t.sram b = memByte u.sram b))
    ∧ ((∀ (c : Cmd) (img : UcsImage) (s u : State) (k : EngClass), runs s 0x62 c [(1, 3), (2, wordMask), (3, wordMask)] u →
           classOf ((c.w 1).bits 1 0) = some k → u.imageAt (c.w64 2) = true →
           (ucsCheck k img (UcsImage.table img) = none →
             exec (.ucsLoadOpen c img) s = .next { u with bg := u.bg ++ [⟨c.tag, 0x62, .loadOpen k img⟩] })
           ∧ ∀ why item, ucsCheck k img (UcsImage.table img) = some (why, item) →
             ∃ t, exec (.ucsLoadOpen c img) s = .next t
               ∧ completed { u with regs := t.regs } t c.tag 0x62 .format (checkDetail why item)
               ∧ bitsKept u t [ucsLoadStatReason, ucsLoadStatClass, ucsLoadStatItem]
               ∧ t.fld ucsLoadStatReason = why ∧ t.fld ucsLoadStatClass = clsCode k)
         ∧ (∀ (c : Cmd) (s u : State) (rows : List Nat), runs s 0x52 c [(1, 0x800000FF), (2, if (c.w 1).bit 31 then wordMask else 0x3FFFF)] u →
             rows = (if (c.w 1).bit 31 then u.mem.cands
                     else [(c.w 1).bits 3 0 * 2 ^ 22 + (c.w 1).bits 7 4 * 2 ^ 18 + (c.w 2).bits 17 0]) →
             ((∃ r ∈ rows, bankLeft u.mem.repairs (bankOf r) = true) →
               exec (.memRepair c) s = .next { u with bg := u.bg ++ [⟨c.tag, 0x52, .memRepair rows⟩] })
             ∧ ((∀ r ∈ rows, bankLeft u.mem.repairs (bankOf r) = false) →
               ∃ t, exec (.memRepair c) s = .next t ∧ completed u t c.tag 0x52 .absent))
         ∧ ∀ (c : Cmd) (img : Container) (s u : State) (kind : Nat),
             runs s 0x60 c [(1, 0xF), (2, wordMask), (3, wordMask), (4, wordMask), (5, wordMask), (6, wordMask)] u →
             kind = (c.w 1).bits 3 0 → ((kind = 1 ∨ kind = 2) ∧ c.w64 5 = 0 ∨ kind = 3 ∧ c.w64 5 % 65536 = 0 ∧ 0x1000000 ≤ c.w64 5) →
             u.flashOpen = true → u.flashBusy = false →
             u.regionUsable (c.w64 2) (c.w 4).toNat = true → u.notPoisoned (c.w64 2) (c.w 4).toNat = true →
             (∀ st, u.containerStatus img kind (c.w64 2) (c.w64 5) (c.w 4).toNat = some st →
               ∃ t, exec (.flashWrite c img) s = .next t ∧ completed u t c.tag 0x60 st)
             ∧ (u.containerStatus img kind (c.w64 2) (c.w64 5) (c.w 4).toNat = none → ∃ t, exec (.flashWrite c img) s = .next t
               ∧ t = { u with regs := t.regs, flash := t.flash,
                              bg := u.bg ++ [⟨c.tag, 0x60, .flashWrite kind (!u.flash.active kind) (c.w64 5) (u.boxCopy (c.w64 2))
                                img.readBackOk⟩] }
               ∧ bitsKept u t [glbFlashInfoWrAct, glbImgStatGhenov, glbImgStatPatch, ucsPatchSvnMin] ∧ t.flag glbFlashInfoWrAct = true
               ∧ t.flash = { u.flash with ghA := t.flash.ghA, ghB := t.flash.ghB, paA := t.flash.paA, paB := t.flash.paB,
                                          user := t.flash.user }
               ∧ (kind ≠ 3 → (t.flash.copy kind (!u.flash.active kind)).valid = false
                   ∧ t.flash.copy kind (u.flash.active kind) = u.flash.copy kind (u.flash.active kind) ∧ t.flash.user = u.flash.user)))

/-- FW_ACTIVATE makes the other copy active when it is good and completes with AUTH otherwise; for Ghenov, as CALLER_RESTART, it
restarts the Caller: background work is cut, and one job is left, whose end completes the command. -/
def Obligations.CallerRestarts : Prop :=
  (∀ (c : Cmd) (s u : State), runs s 0x72 c [] u → ∃ t, exec (.callerRestart c) s = .next t
      ∧ t.bg = [⟨c.tag, 0x72, .callerRestart⟩] ∧ t.skew = none ∧ t.fld glbCallerStatState = 3 ∧ t.fld glbCallerStatCause = 1
      ∧ t.caller.cut = u.caller.cut ++ u.bg.map (fun b => (b.tag, b.opcode)) ++ (u.skew.map (fun k => (k.tag, 0x33))).toList
      ∧ t = { u with regs := t.regs, sram := t.sram, caller := t.caller, skew := none, bg := t.bg })
    ∧ (∀ (c : Cmd) (s u : State), runs s 0x61 c [(1, 0x8000000F)] u → (c.w 1).bits 3 0 = 1 → u.flashOpen = true →
        u.flashBusy = false → u.flash.good 1 (!u.flash.actGh) = true → ∃ t, exec (.fwActivate c) s = .next t
        ∧ t.bg = [⟨c.tag, 0x61, .fwActivate 1 ((c.w 1).bit 31)⟩] ∧ t.flash.actGh = !u.flash.actGh ∧ t.flash.actPa = u.flash.actPa
        ∧ t.flash = { u.flash with dirA := t.flash.dirA, dirB := t.flash.dirB }
        ∧ t.fld glbCallerStatState = 3 ∧ t.flag glbCallerStatGhCopy = !u.flash.actGh ∧ t.skew = none ∧ t.cpls = u.cpls
        ∧ t = { u with regs := t.regs, sram := t.sram, caller := t.caller, skew := none, bg := t.bg, flash := t.flash })
    ∧ (∀ (c : Cmd) (s u : State), runs s 0x61 c [(1, 0x8000000F)] u → (c.w 1).bits 3 0 = 2 → u.flashOpen = true →
        u.flashBusy = false → u.flash.good 2 (!u.flash.actPa) = true → ∃ t, exec (.fwActivate c) s = .next t
        ∧ t.bg = u.bg ++ [⟨c.tag, 0x61, .fwActivate 2 ((c.w 1).bit 31)⟩] ∧ t.flash.actPa = !u.flash.actPa ∧ t.flash.actGh = u.flash.actGh
        ∧ t.flash = { u.flash with dirA := t.flash.dirA, dirB := t.flash.dirB }
        ∧ t.fld ucsPatchStatState = (if u.flash.actPa then 1 else 2) ∧ t.cpls = u.cpls ∧ t.sram = u.sram ∧ t.engs = u.engs)
    ∧ ∀ (c : Cmd) (s u : State) (kind : Nat), runs s 0x61 c [(1, 0x8000000F)] u → kind = (c.w 1).bits 3 0 →
        (kind = 1 ∨ kind = 2) →
        ((u.flashOpen = false ∨ u.flashBusy = true) → ∃ t, exec (.fwActivate c) s = .next t ∧ completed u t c.tag 0x61 .busy)
        ∧ (u.flashOpen = true → u.flashBusy = false → u.flash.good kind (!u.flash.active kind) = false →
            ∃ t, exec (.fwActivate c) s = .next t ∧ completed u t c.tag 0x61 .auth)

/-- The end of a background command, while Ghenov runs: its job is gone, its completion is the last one waiting, and an image
load has filled the engine's memories and no others, the engine IDLE, or HELD at the entry in ARMED. -/
def Obligations.CommandsEnd : Prop :=
  ∀ (tag : BitVec 16) (r : CmdOutcome) (s : State) (b : Bg), s.ghenovRuns = true → s.bgOf tag = some b →
    ∃ t e, exec (.commandEnd tag r) s = .next t ∧ t.bg = dropBg b s.bg ∧ t.cpls.getLast? = some e ∧ e.tag = b.tag
      ∧ e.opcode = b.opcode ∧ t.mode = s.mode ∧ t.trans = s.trans ∧ t.tt = s.tt
      ∧ (∀ o ds n, b.job = .loadSegments o ds n → e.status = (if n = 0 then .ok else .busy) ∧ e.detail = BitVec.ofNat 32 n
          ∧ t.sram = s.sram ∧ t.engs = s.engs)
      ∧ (∀ k img, b.job = .loadOpen k img → e.status = .ok ∧ t.fld ⟨⟨.ucsOpenVer, clsCode k, 0⟩, 15, 0⟩ = img.version.toNat
          ∧ t.engs = s.engs ∧ t.bulk = s.bulk)
      ∧ (∀ rows, b.job = .memRepair rows → e.status = (if r = .ok then .ok else .fault) ∧ t.sram = s.sram ∧ t.engs = s.engs)
      ∧ (∀ k cp off img rb, b.job = .flashWrite k cp off img rb → t.flag glbFlashInfoWrAct = false ∧ t.sram = s.sram ∧ t.bulk = s.bulk
          ∧ e.status = (if rb = true ∧ r = .ok then .ok else .fault)
          ∧ (rb = true → r = .ok → (k = 1 ∨ k = 2) → t.flash.copy k cp = img))
      ∧ ∀ i bad, b.job = .loadEngines [i] bad → i.code.length ≤ 16384 → i.x.length ≤ 4096 → i.y.length ≤ 4096 →
          e.status = (if bad then .format else .ok) ∧ t.bulk = s.bulk ∧ t.regs = s.regs
          ∧ (t.eng i.engine).state = (if s.mode = .armed ∧ i.engine.val ∈ s.startSet then .held else .idle)
          ∧ (t.eng i.engine).img = some ⟨i.level, i.entry, i.base1, i.winOff, i.winLen⟩
          ∧ (∀ p, p ≠ s.phys i.engine → t.engP p = s.engP p)
          ∧ memWords t.sram (engBase (s.phys i.engine)) (2 * i.code.length) = codeWords i.code
          ∧ memWords t.sram (dataBase (s.phys i.engine) false) i.x.length = i.x
          ∧ sramKept s t (engBase (s.phys i.engine)) 0x28000

/-- A CONFIG_CUE or CONFIG_QUARRY image that is not well formed completes with FORMAT and the detail of its content failure; one whose
registers, written over those that stand, fail the check completes with FORMAT and the check's reason and item; neither changes
anything else. A CONFIG_CUE image that passes completes with OK, its registers hold its values, PASSED is 1, and nothing but registers
of the CUE block and the time of the next evaluation changes. A CONFIG_QUARRY image that passes completes with OK with PASSED 1, its
seams in the seam table, and in ARMED the Quarry reset. -/
def Obligations.ConfigurationImages : Prop :=
  (∀ (c : Cmd) (img : CfgImage) (s u v : State), runs s 0x22 c [(1, wordMask), (2, wordMask)] u →
     u.bulkUsable (c.w64 1) 64 = true → u.notPoisoned (c.w64 1) 64 = true → v = imageWritten cueReg img u →
     ((img.wellFormed = false ∨ img.seams ≠ [] ∨ ∃ x ∈ img.regs, cueReg x.1 = none) →
       ∃ t, exec (.configCue c img) s = .next t ∧ completed u t c.tag 0x22 .format (5 * 2 ^ 24))
     ∧ (img.wellFormed = true → img.seams = [] → (∀ x ∈ img.regs, cueReg x.1 ≠ none) →
       (∀ why item, v.cueCheck ((imageReserved cueReg img).map cueItem) = some (why, item) →
         ∃ t, exec (.configCue c img) s = .next t ∧ completed u t c.tag 0x22 .format (why * 2 ^ 24 + item))
       ∧ (v.cueCheck ((imageReserved cueReg img).map cueItem) = none →
         ∃ t, exec (.configCue c img) s = .next t ∧ answered u t c.tag 0x22 .ok ∧ t.flag cueStatPassed = true ∧ t.fld cueStatReason = 0
           ∧ t.flag cueStatChecking = false ∧ (∀ r : Reg, cueConfigReg r.k = true → t.reg r = v.reg r)
           ∧ (∀ r : Reg, cueConfigReg r.k = false → r.k ≠ .cueStat → t.reg r = u.reg r)
           ∧ t = { u with regs := t.regs, cueChk := false, evalAt := some u.now, cpls := t.cpls, msix := t.msix })))
    ∧ ∀ (c : Cmd) (img : CfgImage) (s u v : State), runs s 0x23 c [(1, wordMask), (2, wordMask)] u → u.imageAt (c.w64 1) = true →
         v = seamsWritten img (imageWritten qryReg img u) →
         ((img.wellFormed = false ∨ (∃ x ∈ img.regs, qryReg x.1 = none) ∨ ∃ x ∈ img.seams, 131072 ≤ x.1) →
           ∃ t, exec (.configQuarry c img) s = .next t ∧ completed u t c.tag 0x23 .format (8 * 2 ^ 24))
         ∧ (img.wellFormed = true → (∀ x ∈ img.regs, qryReg x.1 ≠ none) → (∀ x ∈ img.seams, x.1 < 131072) →
           (∀ why item, v.qryCheck (!(imageReserved qryReg img).isEmpty) = some (why, item) →
             ∃ t, exec (.configQuarry c img) s = .next t ∧ completed u t c.tag 0x23 .format (why * 2 ^ 24 + item))
           ∧ (v.qryCheck (!(imageReserved qryReg img).isEmpty) = none →
             ∃ t, exec (.configQuarry c img) s = .next t
               ∧ answered u t c.tag 0x23 .ok ∧ t.flag qryCheckPassed = true ∧ t.fld qryCheckReason = 0 ∧ t.engs = u.engs
               ∧ t.qry.dec = none ∧ t.qry.chk = false ∧ (u.mode = .armed → t.qry.nodes = [] ∧ t.pauli = [])
               ∧ (u.mode ≠ .armed → t.pauli = u.pauli ∧ t.qry.nodes = u.qry.nodes)
               ∧ t.sram = v.sram ∧ sramKept u t 0x0C000000 0x100000 ∧ t.bulk = u.bulk
               ∧ ∀ x, img.seams = [x] → memWord t.sram (0x0C000000 + 8 * x.1) = x.2.1 ∧ memWord t.sram (0x0C000004 + 8 * x.1) = x.2.2))


/-! Arming, links, spares, calibration: commands that end at once. -/

/-- ACQ_ARM completes with the first code its checks find, and nothing changes; with none, each unit named waits for T_a (8 ticks later
for 0, the model's choice within R234's 1 µs, log entry 70). ACQ_DISARM leaves each unit named IDLE without a record or an arm tick, and no other unit changed. -/
def Obligations.AcqArmDisarm : Prop :=
  (∀ (c : Cmd) (s u : State), runs s 0x30 c [(1, 0xFFFF), (2, wordMask), (3, wordMask)] u → ∃ t, exec (.acqArm c) s = .next t ∧
      (if u.acqArmStatus (unitsOf (c.w 1).toNat) (c.w64 2) = .ok then
        answered u t c.tag 0x30 .ok ∧ t = { u with acqs := t.acqs, cpls := t.cpls, msix := t.msix }
          ∧ ∀ k, t.acq k = (if k < 16 ∧ (c.w 1).bit k = true then
              { u.acq k with armAt := some (if c.w64 2 = 0 then u.now + 8 else c.w64 2) } else u.acq k)
      else completed u t c.tag 0x30 (u.acqArmStatus (unitsOf (c.w 1).toNat) (c.w64 2))))
    ∧ ∀ (c : Cmd) (s u : State), runs s 0x31 c [(1, 0xFFFF)] u → ∃ t, exec (.acqDisarm c) s = .next t ∧ answered u t c.tag 0x31 .ok
        ∧ (∀ k, k < 16 → (c.w 1).bit k = true → (t.acq k).state = .idle ∧ (t.acq k).armAt = none ∧ (t.acq k).rcd = none)
        ∧ (∀ k, (16 ≤ k ∨ (c.w 1).bit k = false) → t.acq k = u.acq k)
        ∧ t.engs = u.engs ∧ t.bulk = u.bulk ∧ t.mode = u.mode ∧ t.links = u.links ∧ t.flash = u.flash
        ∧ ∀ b, (∀ k, k < 16 → (c.w 1).bit k = true → b < acqBase k ∨ acqBase k + 0x400000 ≤ b) → memByte t.sram b = memByte u.sram b

/-- LINK_RESET takes an ISOLATED, DOWN or UP link that it names to DOWN, or to DISABLED on a ring of one device, with its queues
empty and its lanes as at reset; every other link is as before. LINK_CONFIG puts the staged configuration in force; a link that it changes is DOWN or DISABLED, or stays ISOLATED. -/
def Obligations.LinkCommands : Prop :=
  (∀ (c : Cmd) (s u : State), runs s 0x41 c [(1, 0x3F)] u → ∃ t, exec (.linkReset c) s = .next t
      ∧ completed { u with regs := t.regs, links := t.links } t c.tag 0x41 .ok
      ∧ (∀ r : Reg, r.k ≠ .lnkStat → r.k ≠ .lnkLane → t.reg r = u.reg r)
      ∧ ∀ l, l < 6 →
          (if (c.w 1).bit l = true ∧ (u.linkState l = 5 ∨ u.linkState l = 0 ∨ u.linkState l = 4) then
            t.linkState l = (if u.neighbour l = u.ownId then 7 else 0) ∧ t.fld (lnkLaneFailed l) = 0 ∧ t.fld (lnkLaneActive l) = 0xF ∧ (t.link l).out = [] ∧ (t.link l).dec = []
              ∧ (t.link l).pipe = [] ∧ (t.link l).sent = []
          else t.rd .lnkStat l = u.rd .lnkStat l ∧ t.rd .lnkLane l = u.rd .lnkLane l ∧ t.link l = u.link l))
    ∧ ∀ (c : Cmd) (s u : State), runs s 0x40 c [] u → ∃ t res, exec (.linkConfig c) s = .next t ∧ answered u t c.tag 0x40 .ok res
        ∧ t.linkCfg = u.staged ∧ t.flag lnkKeyIdSet = u.staged.keySet
        ∧ t = { u with regs := t.regs, linkCfg := t.linkCfg, links := t.links, flash := t.flash, free := t.free, cpls := t.cpls,
                       msix := t.msix }
        ∧ (∀ r : Reg, r.k ≠ .lnkStat → r.k ≠ .lnkKeyId → r.k ≠ .glbPersist → t.reg r = u.reg r)
        ∧ ∀ l, l < 6 →
            (linkChanged u.linkCfg u.staged l = false → t.linkState l = u.linkState l ∧ t.link l = u.link l)
            ∧ (linkChanged u.linkCfg u.staged l = true → t.linkState l =
                (if u.staged.en.getLsbD l = false ∨ ({ u with linkCfg := u.staged }).neighbour l = u.ownId then 7
                 else if u.linkState l = 5 then 5 else 0))

/-- SPARE_LANE takes an active lane out of service and trains the spare for it, and with fewer than two lanes left an UP link goes
DOWN; with the lane not active it answers RANGE, at version 1 ABSENT, with the spare in use BUSY. SPARE_ENGINE moves a logical engine to a spare of its class, the lowest free
one for 0: the engine is UNLOADED there, the physical engine it leaves is retired, the result is the spare's number, and no
other engine is touched. -/
def Obligations.Sparing : Prop :=
  (∀ (c : Cmd) (s u : State) (l n : Nat), runs s 0x51 c [(1, 7), (2, 7)] u → l = (c.w 1).bits 2 0 → n = (c.w 2).bits 2 0 →
     l < 6 → n < 5 → ∃ t, exec (.spareLane c) s = .next t ∧
       (if (u.fld (lnkLaneActive l)).testBit n = false then completed u t c.tag 0x51 .range
       else if u.fld (lnkStatVer l) = 1 then completed u t c.tag 0x51 .absent
       else if u.spareFree l = false then completed u t c.tag 0x51 .busy
       else answered u t c.tag 0x51 .ok
         ∧ t.fld (lnkLaneActive l) = u.fld (lnkLaneActive l) - 2 ^ n ∧ (t.fld (lnkLaneFailed l)).testBit n = true
         ∧ (∀ k, k ≠ l → t.link k = u.link k)
         ∧ (2 ≤ popCount 5 (u.fld (lnkLaneActive l) - 2 ^ n) → completed { u with regs := t.regs, links := t.links } t c.tag 0x51 .ok
             ∧ t.link l = { u.link l with training := true } ∧ regsKept u t [⟨.lnkLane, l, 0⟩])
         ∧ (popCount 5 (u.fld (lnkLaneActive l) - 2 ^ n) < 2 → u.linkState l = 4 →
             t.linkState l = 0 ∧ (t.link l).training = false ∧ (t.link l).out = [] ∧ (t.link l).sent = [])))
    ∧ (∀ (c : Cmd) (s u : State) (n want lo cnt : Nat), runs s 0x50 c [(1, 0x3FF), (2, 0x7FF)] u → n = (c.w 1).bits 9 0 →
         want = (c.w 2).bits 10 0 → (lo, cnt) = sparesOf (clsOf n) →
         ((want ≠ 0 ∧ (want < lo ∨ lo + cnt ≤ want)) → ∃ t, exec (.spareEngine c) s = .next t ∧ completed u t c.tag 0x50 .range)
         ∧ (lo ≤ want → want < lo + cnt → u.engSpareFree want = false →
             ∃ t, exec (.spareEngine c) s = .next t ∧ completed u t c.tag 0x50 .busy)
         ∧ (want = 0 → u.loadingAny [n] = false → (∀ q, lo ≤ q → q < lo + cnt → u.engSpareFree q = false) →
             ∃ t, exec (.spareEngine c) s = .next t ∧ completed u t c.tag 0x50 .absent)
         ∧ ∀ p, lo ≤ p → p < lo + cnt → u.engSpareFree p = true → u.loadingAny [n] = false →
             (want = p ∨ want = 0 ∧ ∀ q, lo ≤ q → q < p → u.engSpareFree q = false) →
             ∃ t, exec (.spareEngine c) s = .next t ∧ answered u t c.tag 0x50 .ok [BitVec.ofNat 32 p] ∧ t.phys n = p
               ∧ t.eng n = {} ∧ t.isRetired (u.phys n) = true ∧ (∀ m, m ≠ n → t.phys m = u.phys m)
               ∧ (∀ q, q ≠ p → q ≠ u.phys n → t.engP q = u.engP q) ∧ t.bulk = u.bulk ∧ sramKept u t 0x0C500000 0x20000)

/-- SELF_CAL measures every routed line and vector pin: its trim is VALID, its value free (log entry 9), and nothing else but
trims changes. SKEW_CAL: the root of its network is done at once with TRIM_CAL 4,096; without a route it answers ABSENT, and
while another runs BUSY (log entry 30); otherwise its exchanges begin. SKEW_CAL_TIMEOUT ends it with ABSENT. -/
def Obligations.Calibrations : Prop :=
  (∀ (c : Cmd) (s u : State), runs s 0x32 c [] u → ∃ t, exec (.selfCal c) s = .next t ∧ answered u t c.tag 0x32 .ok
     ∧ t = { u with regs := t.regs, free := t.free, cpls := t.cpls, msix := t.msix }
     ∧ (∀ r : Reg, r.k ≠ .mvpPinTrim → r.k ≠ .rfoMrkTrim → r.k ≠ .flxMrkTrim → t.reg r = u.reg r)
     ∧ ∀ p, p < 64 → (u.fld (mvpPinCfgFunc p) = 1 → t.flag (mvpPinTrimValid p) = true)
         ∧ (u.fld (mvpPinCfgFunc p) = 2 → u.fld (mvpPinCfgMsrc p) < 1536 → t.flag (lineTrimValid (u.fld (mvpPinCfgMsrc p))) = true))
    ∧ ((∀ (c : Cmd) (s u : State), runs s 0x33 c [(1, 0x1FF)] u → u.skew.isSome = true →
           ∃ t, exec (.skewCal c) s = .next t ∧ completed u t c.tag 0x33 .busy)
         ∧ (∀ (c : Cmd) (s u : State), runs s 0x33 c [(1, 0x1FF)] u → u.skew = none → (c.w 1).bits 8 0 = u.ownId →
           ∃ t, exec (.skewCal c) s = .next t ∧ answered u t c.tag 0x33 .ok ∧ t.skew = none ∧ t.fld clkSkewCalTrimCal = 4096
             ∧ t.flag clkSkewCalValid = true ∧ t.flag clkEpochSkewDone = true ∧ t.engs = u.engs ∧ t.bulk = u.bulk ∧ t.tt = u.tt)
         ∧ (∀ (c : Cmd) (s u : State), runs s 0x33 c [(1, 0x1FF)] u → u.skew = none → (c.w 1).bits 8 0 ≠ u.ownId →
           u.route ((c.w 1).bits 8 0) none = none → ∃ t, exec (.skewCal c) s = .next t ∧ completed u t c.tag 0x33 .absent)
         ∧ (∀ (c : Cmd) (s u : State) (l : Nat), runs s 0x33 c [(1, 0x1FF)] u → u.skew = none → (c.w 1).bits 8 0 ≠ u.ownId →
           u.route ((c.w 1).bits 8 0) none = some l → ∃ t, exec (.skewCal c) s = .next t ∧ t.cpls = u.cpls
             ∧ t.skew = some { tag := c.tag, root := (c.w 1).bits 8 0, link := some l }
             ∧ t = { u with skew := t.skew, links := t.links, regs := t.regs }
             ∧ ((u.link l).out = [] → (t.link l).out = [u.mgmtFrameTo (u.neighbour l) 5] ∧ t.regs = u.regs))
         ∧ ∀ (s : State) (k : Skew), s.skew = some k → k.up = none →
             ∃ t, exec .skewCalTimeout s = .next t ∧ completed { s with skew := none } t k.tag 0x33 .absent)



/-! Engine instructions. -/

/-- An instruction that an engine may not issue does not occur. With condition 0 it only moves PC and the issue tick on; with a
reserved bit set, or outside its classes and level, it is ILLEGAL; at the last index a fall through is IADDR; after a failed
transfer the engine faults with BDMA at that transfer's index. A word with more than one wrong bit faults with ECC; one wrong bit
sets ECC1, counts in SVC_ENG_ECC, and the instruction goes on. -/
def Obligations.SkipsAndIllegals : Prop :=
  ∀ (i : Instr) (e : Fin 1024) (f : JWord) (F : Form) (cost : Nat) (s : State), basicOf i = some (e, f, F, cost) →
    (s.mayIssue e false = false → exec i s = .next s)
    ∧ (s.mayIssue e false = true → ∀ pc, ((atIssue s e).eng e).bdmaBad = some pc → ((atIssue s e).eng e).fltValid = false →
        ((atIssue s e).eng e).faultAct = false → ∃ t, exec i s = .next t ∧ (t.eng e).state = .faulted ∧ (t.eng e).fltCode = 13
          ∧ (t.eng e).fltPc = pc ∧ (t.eng e).bdmaBad = none)
    ∧ (s.mayIssue e false = true → ((atIssue s e).eng e).bdmaBad = none → ((atIssue s e).eng e).eccBad = none →
        ∀ n, n = tabGet (atIssue s e).upsets (engBase (s.phys e) + 8 * ((atIssue s e).eng e).pc) 0 →
        (2 ≤ n → ∃ t, exec i s = .next t ∧ faults (atIssue s e) t e 10)
        ∧ (n = 1 → soundPatch (atIssue s e) → legalForm F (clsOf e) ((atIssue s e).eng e).level f = true → ¬ holds s e f → goesOn s e →
            ∃ t, exec i s = .next t ∧ movedOn { atIssue s e with regs := t.regs } t e (((atIssue s e).eng e).setLsr 6) cost
              ∧ t.rdn .svcEngEcc = min (2 ^ 32 - 1) (s.rdn .svcEngEcc + 1)
              ∧ regsKept (atIssue s e) t [⟨.svcEngEcc, 0, 0⟩]))
    ∧ (atBoundary s e → legalForm F (clsOf e) ((atIssue s e).eng e).level f = false →
        ∃ t, exec i s = .next t ∧ faults (atIssue s e) t e 4)
    ∧ (issues s e f F → ¬ holds s e f → goesOn s e → ∃ t, exec i s = .next t ∧ movedOn (atIssue s e) t e ((atIssue s e).eng e) cost)
    ∧ (issues s e f F → ¬ holds s e f → ¬ goesOn s e → ∃ t, exec i s = .next t ∧ faults (atIssue s e) t e 5)

/-- LI and the integer instructions write gD with their result, wrapping to 32 bits, and move on; no other register and nothing
else changes. -/
def Obligations.IntegerResults : Prop :=
  (∀ (e : Fin 1024) (f : JWord) (s : State), runsOn s e f { dm := 31, im := 0xFFFFFFFF, rd := true } →
      ∃ t, exec (.li e f) s = .next t ∧ wrote (atIssue s e) t e f.d.toNat f.imm 1)
    ∧ ∀ (e : Fin 1024) (i : Bool) (f : JWord) (s u : State) (a b : Word), u = atIssue s e → a = (u.eng e).reg f.a.toNat →
        b = (if i then f.imm else (u.eng e).reg f.b.toNat) →
        (runsOn s e f (intForm i) →
          (∃ t, exec (.add e i f) s = .next t ∧ wrote u t e f.d.toNat (a + b) 1)
          ∧ (∃ t, exec (.sub e i f) s = .next t ∧ wrote u t e f.d.toNat (a - b) 1)
          ∧ (∃ t, exec (.and e i f) s = .next t ∧ wrote u t e f.d.toNat (a &&& b) 1)
          ∧ (∃ t, exec (.or e i f) s = .next t ∧ wrote u t e f.d.toNat (a ||| b) 1)
          ∧ (∃ t, exec (.xor e i f) s = .next t ∧ wrote u t e f.d.toNat (a ^^^ b) 1)
          ∧ ∃ t, exec (.mul e i f) s = .next t ∧ wrote u t e f.d.toNat (a * b) 2)
        ∧ (runsOn s e f (shiftForm i) →
          (∃ t, exec (.shl e i f) s = .next t ∧ wrote u t e f.d.toNat (a <<< (b.toNat % 32)) 1)
          ∧ (∃ t, exec (.shr e i f) s = .next t ∧ wrote u t e f.d.toNat (a >>> (b.toNat % 32)) 1)
          ∧ ∃ t, exec (.sar e i f) s = .next t ∧ wrote u t e f.d.toNat (a.sshiftRight (b.toNat % 32)) 1)

/-- CMP writes predicate D with its comparison, nothing for D = 0, and SEL picks gA or gB by the predicate it names; a CMP of
condition 111 is ILLEGAL. -/
def Obligations.ComparesAndSelects : Prop :=
  (∀ (e : Fin 1024) (i : Bool) (f : JWord) (s u : State) (a b : Word) (k : Nat), u = atIssue s e → a = (u.eng e).reg f.a.toNat →
      b = (if i then f.imm else (u.eng e).reg f.b.toNat) → k = f.e.toNat →
      runsOn s e f { intForm i with dm := 7, em := 7, rd := false, pd := true } →
      (k ≠ 7 → ∃ t, exec (.cmp e i f) s = .next t ∧ movedOn u t e { u.eng e with preds := (t.eng e).preds } 1
        ∧ (t.eng e).pred 0 = true ∧ (∀ p, p < 8 → p ≠ f.d.toNat → (t.eng e).pred p = (u.eng e).pred p)
        ∧ (f.d.toNat ≠ 0 → (t.eng e).pred f.d.toNat = decide
            (k = 0 ∧ a = b ∨ k = 1 ∧ a ≠ b ∨ k = 2 ∧ a.toInt < b.toInt ∨ k = 3 ∧ b.toInt ≤ a.toInt
              ∨ k = 4 ∧ a.toNat < b.toNat ∨ k = 5 ∧ b.toNat ≤ a.toNat ∨ k = 6 ∧ a &&& b ≠ 0)))
      ∧ (k = 7 → ∃ t, exec (.cmp e i f) s = .next t ∧ faults u t e 4))
    ∧ ∀ (e : Fin 1024) (f : JWord) (s u : State), u = atIssue s e →
        runsOn s e f { dm := 31, am := 31, bm := 31, em := 7, rd := true, ra := true, rb := true } →
        ((u.eng e).level ≠ 1 ∨ f.e.toNat < 4) → ∃ t, exec (.sel e f) s = .next t
          ∧ wrote u t e f.d.toNat (if (u.eng e).pred f.e.toNat then (u.eng e).reg f.a.toNat else (u.eng e).reg f.b.toNat) 1

/-- NOP, JMP, CALL, RET, LOOP and ENDL: where PC goes, when the next instruction issues, what becomes of the stack and of the loop
counters, and where STACK, IADDR and LOOP faults rise. -/
def Obligations.ControlFlow : Prop :=
  (∀ (e : Fin 1024) (f : JWord) (s : State), runsOn s e f {} →
      ∃ t, exec (.nop e f) s = .next t ∧ movedOn (atIssue s e) t e ((atIssue s e).eng e) 1)
    ∧ (∀ (e : Fin 1024) (f : JWord) (s u : State) (g : Eng) (dest : Nat), u = atIssue s e → g = u.eng e →
        issues s e f { am := 31, em := 1, im := 0x3FFF, ra := true } → holds s e f →
        dest = (if f.e.getLsbD 0 then (g.reg f.a.toNat).toNat else f.imm.bits 13 0) →
        (dest < 2 ^ 14 → ∃ t, exec (.jmp e f) s = .next t ∧ jumped u t e g dest 2)
        ∧ (2 ^ 14 ≤ dest → ∃ t, exec (.jmp e f) s = .next t ∧ faults u t e 5))
    ∧ (∀ (e : Fin 1024) (f : JWord) (s u : State) (g : Eng), u = atIssue s e → g = u.eng e → issues s e f { im := 0x3FFF } →
        holds s e f →
        (g.stack.length < 8 → ∃ t, exec (.call e f) s = .next t ∧ jumped u t e { g with stack := (g.pc + 1) :: g.stack } (f.imm.bits 13 0) 2)
        ∧ (8 ≤ g.stack.length → ∃ t, exec (.call e f) s = .next t ∧ faults u t e 9))
    ∧ (∀ (e : Fin 1024) (f : JWord) (s u : State) (g : Eng), u = atIssue s e → g = u.eng e → issues s e f {} → holds s e f →
        (∀ a rest, g.stack = a :: rest → a < 2 ^ 14 → ∃ t, exec (.ret e f) s = .next t ∧ jumped u t e { g with stack := rest } a 2)
        ∧ (∀ a rest, g.stack = a :: rest → 2 ^ 14 ≤ a → ∃ t, exec (.ret e f) s = .next t ∧ faults u t e 5)
        ∧ (g.stack = [] → ∃ t, exec (.ret e f) s = .next t ∧ faults u t e 9))
    ∧ (∀ (e : Fin 1024) (f : JWord) (s u : State) (g : Eng) (n dest : Nat), u = atIssue s e → g = u.eng e →
        issues s e f { am := 31, bm := 31, em := 31, im := 0x80FFFFFF, ra := true } → holds s e f →
        dest = f.b.toNat * 32 + f.e.toNat → dest ≠ 0 →
        n = (if f.imm.bit 31 then (g.reg f.a.toNat).bits 23 0 else f.imm.bits 23 0) →
        (n = 0 → g.loops.length < (if g.level = 1 then 2 else 4) → g.pc + dest + 1 ≤ 16383 →
            ∃ t, exec (.loop e f) s = .next t ∧ jumped u t e g (g.pc + dest + 1) 2)
        ∧ (n ≠ 0 → g.loops.length < (if g.level = 1 then 2 else 4) → g.pc ≠ 16383 →
            ∃ t, exec (.loop e f) s = .next t ∧ movedOn u t e { g with loops := ⟨n, g.pc + 1, g.pc + dest⟩ :: g.loops } 1)
        ∧ ((if g.level = 1 then 2 else 4) ≤ g.loops.length → ∃ t, exec (.loop e f) s = .next t ∧ faults u t e 8))
    ∧ ∀ (e : Fin 1024) (f : JWord) (s u : State) (g : Eng), u = atIssue s e → g = u.eng e → issues s e f {} → holds s e f →
        (∀ c rest, g.loops = c :: rest → c.count ≠ 1 → c.count ≠ 0 → ∃ t, exec (.endl e f) s = .next t
          ∧ jumped u t e { g with loops := { c with count := c.count - 1 } :: rest } c.start 1)
        ∧ (∀ c rest, g.loops = c :: rest → c.count = 1 → g.pc ≠ 16383 → ∃ t, exec (.endl e f) s = .next t
          ∧ movedOn u t e { g with loops := rest } 1)
        ∧ (g.loops = [] → ∃ t, exec (.endl e f) s = .next t ∧ faults u t e 4)

/-- HALT stops the engine, FIRE raises its cue for the next tick, TRAP faults with its argument, SYNCW and WAITC wait unless
their tick or cue is here, and JMPC jumps on a cue that it consumes: one pending on the channel it names, or, where the engine listened
to another, one that appeared on it in this very tick. WAITC and JMPC do not occur before the fabric has judged their tick (the
model's order of rows). A SYNCW wait ends in its tick, a WAITC wait at its timeout. -/
def Obligations.WaitsAndCues : Prop :=
  (∀ (e : Fin 1024) (f : JWord) (s u : State), u = atIssue s e → runsOn s e f {} → (u.eng e).wait = none →
      ∃ t, exec (.halt e f) s = .next t ∧ engineOnly u t e { u.eng e with state := .halted, haltReq := false })
    ∧ (∀ (e : Fin 1024) (f : JWord) (s u : State), u = atIssue s e → runsOn s e f { im := 0xFF } → ∃ t, exec (.fire e f) s = .next t
        ∧ movedOn { u with due := u.due ++ [⟨u.now + 1, 256 + f.imm.bits 7 0⟩] } t e (u.eng e) 1)
    ∧ (∀ (e : Fin 1024) (f : JWord) (s : State), issues s e f { im := 0xFF } → holds s e f →
        ∃ t, exec (.trap e f) s = .next t ∧ faults (atIssue s e) t e 11 (f.imm.bits 7 0))
    ∧ (∀ (e : Fin 1024) (f : JWord) (s u : State) (g : Eng) (k : Nat), u = atIssue s e → g = u.eng e → runsOn s e f { im := 0xFFFFFF } →
        k = g.tc.toNat - f.imm.bits 23 0 →
        (k ≤ u.now → ∃ t, exec (.syncw e f) s = .next t ∧ movedOn u t e g 1)
        ∧ (u.now < k → ∃ t, exec (.syncw e f) s = .next t
            ∧ engineOnly u t e { g with pc := g.pc + 1, state := .waiting, wait := some (.syncw k) }))
    ∧ (∀ (u : State) (g : Eng) (ch : Nat), g.lostAt = none →
        (g.listen = some ch → u.consume g ch = (g.pend, { g with pend := false }))
        ∧ (g.listen ≠ some ch →
            u.consume g ch = (decide (tabGet u.lastCue ch (-1) = (u.now : Int)), { g with listen := some ch, pend := false })))
    ∧ (∀ (e : Fin 1024) (f : JWord) (s u : State) (g : Eng) (c : Bool × Eng), u = atIssue s e → g = u.eng e →
        c = u.consume g (f.b.toNat * 32 + f.e.toNat) →
        runsOn s e f { dm := 7, bm := 31, em := 31, im := 0xFFFFFF, pd := true } →
        (u.cuesHere = false → exec (.waitc e f) s = .next s)
        ∧ (u.cuesHere = true → c.1 = true → ∃ t, exec (.waitc e f) s = .next t ∧ movedOn u t e (c.2.setPred f.d.toNat true) 1)
        ∧ (u.cuesHere = true → c.1 = false → ∃ t, exec (.waitc e f) s = .next t ∧ engineOnly u t e
            { c.2 with pc := g.pc + 1, state := .waiting,
                       wait := some (.waitc f.d.toNat (if f.imm.bits 23 0 = 0 then none else some (u.now + f.imm.bits 23 0)) g.listen g.pend) }))
    ∧ (∀ (e : Fin 1024) (f : JWord) (s u : State) (c : Bool × Eng), u = atIssue s e →
        c = u.consume (u.eng e) (f.b.toNat * 32 + f.e.toNat) → runsOn s e f { bm := 31, em := 31, im := 0x3FFF } →
        (u.cuesHere = false → exec (.jmpc e f) s = .next s)
        ∧ (u.cuesHere = true → c.1 = true → ∃ t, exec (.jmpc e f) s = .next t ∧ jumped u t e c.2 (f.imm.bits 13 0) 2)
        ∧ (u.cuesHere = true → c.1 = false → ∃ t, exec (.jmpc e f) s = .next t ∧ movedOn u t e c.2 1))
    ∧ (∀ (e : Fin 1024) (s u : State) (k : Nat), s.power = true → (s.eng e).state = .waiting → (s.eng e).wait = some (.syncw k) →
        u = s.advanceTo k → ∃ t, exec (.syncwEnd e) s = .next t
          ∧ engineOnly u t e { u.eng e with state := .running, wait := none, ready := u.now })
    ∧ ∀ (e : Fin 1024) (s u : State) (p k : Nat) (l : Option Nat) (b : Bool), s.power = true → (s.eng e).state = .waiting →
        (s.eng e).wait = some (.waitc p (some k) l b) →
        u = s.advanceTo k → (∀ c, s.fabricOn = true → s.fabricNext = some c → k < c) → ∃ t, exec (.waitcTimeout e) s = .next t
          ∧ engineOnly u t e { ((u.eng e).setPred p false) with state := .running, wait := none, ready := u.now + 1 }


/-- As time passes to a tick, the outputs play on: cues are added, sticky bits of engines set, status and counts of the outputs
and of stream rings move. No other register, no memory, no mode and nothing else of an engine changes, but that an engine with a
halt request stops at its boundary; TT reaches the tick, in DORMANT in steps of 40. -/
def Obligations.TimeFrame : Prop :=
  ∀ (s : State) (k : Nat),
    s.advanceTo k = { s with due := (s.advanceTo k).due, engs := (s.advanceTo k).engs, flux := (s.advanceTo k).flux,
                             regs := (s.advanceTo k).regs, rfSettled := (s.advanceTo k).rfSettled, rings := (s.advanceTo k).rings,
                             slots := (s.advanceTo k).slots, tt := (s.advanceTo k).tt, up := (s.advanceTo k).up,
                             wtSec := (s.advanceTo k).wtSec, wtNs := (s.advanceTo k).wtNs, wtFrac := (s.advanceTo k).wtFrac }
    ∧ (s.mode ≠ .boot → s.mode ≠ .dormant → k < 2 ^ 64 → (s.advanceTo k).now = max k s.now)
    ∧ (s.mode = .dormant → k + 40 < 2 ^ 64 → (s.advanceTo k).now = s.now + 40 * ((k - s.now + 39) / 40))
    ∧ (∃ l, (s.advanceTo k).due = s.due ++ l)
    ∧ (∀ p g, g = { s.engP p with lsr := ((s.advanceTo k).engP p).lsr } →
        (s.advanceTo k).engP p = g ∨ (s.engP p).haltReq = true ∧ (s.advanceTo k).engP p = g.stop .halted)
    ∧ ∀ r : Reg, r.k ∉ [.rfoStat, .rfoClipCnt, .rfoSegStat, .rfoRingStat, .rfoRingUcnt, .glbStreamUcnt, .glbStreamStat, .flxStat,
        .flxClipCnt, .flxSegStat] → (s.advanceTo k).reg r = s.reg r

/-- Bringing an ME up to date changes its datapath, its sticky bits and, by captures, its memories, and may raise cues; only a wrong
bit in memory counts in SVC_ENG_ECC or makes an ECC fault due; nothing else, and nothing at all without an accumulation or a capture.
The accumulator instructions of an ME wait for the interlock; released, MAC and MACX begin an accumulation of the window or of memory
operands, a skipped or missing window sets SKIPWIN and the invalid condition instead, CLRA clears ACC and the invalid condition, RDA
shifts a part of ACC out and clamps it. An accumulation whose operands are all there ends in the tick after its last product: one
product of memory operands adds the complex product of the words its generators name to ACC, saturating to 48 bits. -/
def Obligations.Accumulation : Prop :=
  (∀ (s : State) (e k : Nat),
     s.meTo e k = { s with engs := (s.meTo e k).engs, due := (s.meTo e k).due, sram := (s.meTo e k).sram,
                           upsets := (s.meTo e k).upsets, regs := (s.meTo e k).regs }
     ∧ (∃ l, (s.meTo e k).due = s.due ++ l)
     ∧ (s.meTo e k).eng e = { s.eng e with me := ((s.meTo e k).eng e).me, lsr := ((s.meTo e k).eng e).lsr,
                                           eccBad := ((s.meTo e k).eng e).eccBad }
     ∧ (∀ p, p ≠ s.phys e → (s.meTo e k).engP p = s.engP p)
     ∧ regsKept s (s.meTo e k) [⟨.svcEngEcc, 0, 0⟩]
     ∧ (s.upsets = [] → (s.meTo e k).regs = s.regs ∧ ((s.meTo e k).eng e).eccBad = (s.eng e).eccBad)
     ∧ ((s.eng e).me.caps = [] → (s.meTo e k).sram = s.sram ∧ (s.meTo e k).upsets = s.upsets)
     ∧ ((s.eng e).me.run = none → (s.eng e).me.caps = [] → s.meSeen e = s))
    ∧ ((∀ (e : Fin 1024) (f : JWord) (s : State), (atIssue s e).interlocked e = true →
           (runsOn s e f { em := 1, im := 0xFFF, te := false, fe := false } → exec (.mac e f) s = .next s)
           ∧ (runsOn s e f { te := false, fe := false } → exec (.clra e f) s = .next s)
           ∧ (runsOn s e f { dm := 31, em := 1, im := 0x3F, rd := true, te := false, fe := false } → f.imm.bits 5 0 ≤ 47 →
               exec (.rda e f) s = .next s))
         ∧ ∀ (e : Fin 1024) (f : JWord) (s v : State) (g : Eng), v = (atIssue s e).meSeen e → g = v.eng e →
             (atIssue s e).interlocked e = false →
             (runsOn s e f { te := false, fe := false } → ∃ t, exec (.clra e f) s = .next t
               ∧ movedOn v t e { g with me := { g.me with accI := 0, accQ := 0, inv := false } } 1)
             ∧ (runsOn s e f { em := 1, im := 0xFFF, te := false, fe := false } →
                 (∀ w, g.me.wins.find? winPending = some w → w.skipped = false → ∃ t, exec (.mac e f) s = .next t
                   ∧ movedOn v t e { g with me := { g.me with run := some ⟨f.e.toNat, 0, false, some w.id,
                       if f.imm.bits 11 0 = 0 then w.len - w.consumed else min (f.imm.bits 11 0) (w.len - w.consumed), v.now + 1, false, g.pc⟩ } } 1)
                 ∧ ((∀ w, g.me.wins.find? winPending = some w → w.skipped = true) → ∃ t, exec (.mac e f) s = .next t
                   ∧ (t.eng e).me.inv = true ∧ (t.eng e).lsr.getLsbD 5 = true ∧ (t.eng e).me.run = g.me.run
                   ∧ (t.eng e).me.accI = g.me.accI ∧ (t.eng e).me.accQ = g.me.accQ ∧ (t.eng e).pc = g.pc + 1))
             ∧ (runsOn s e f { em := 0x17, im := 0x1FFF, te := false, fe := false, l1 := false } → f.e.getLsbD 4 = false →
                 1 ≤ f.imm.bits 12 0 → f.imm.bits 12 0 ≤ 4096 → ∃ t, exec (.macx e f) s = .next t
                   ∧ movedOn v t e { g with me := { g.me with run := some ⟨f.e.toNat % 2, 2 + (if f.e.getLsbD 1 then 1 else 0), f.e.getLsbD 2,
                       none, f.imm.bits 12 0, v.now + 1, false, g.pc⟩ } } 1)
             ∧ (runsOn s e f { dm := 31, em := 1, im := 0x3F, rd := true, te := false, fe := false } → f.imm.bits 5 0 ≤ 47 →
                 ∀ x : Int, x = (if f.e.getLsbD 0 then g.me.accQ else g.me.accI) / 2 ^ f.imm.bits 5 0 →
                 (-(2 ^ 31) ≤ x → x < 2 ^ 31 → ∃ t, exec (.rda e f) s = .next t ∧ wrote v t e f.d.toNat (BitVec.ofInt 32 x) 2)
                 ∧ ((x < -(2 ^ 31) ∨ 2 ^ 31 ≤ x) → ∃ t, exec (.rda e f) s = .next t
                   ∧ (t.eng e).reg f.d.toNat = (if x < 0 then 0x80000000 else 0x7FFFFFFF) ∧ (t.eng e).me.inv = true
                   ∧ (t.eng e).lsr.getLsbD 3 = true ∧ (t.eng e).pc = g.pc + 1)))
    ∧ ((∀ (e : Fin 1024) (s : State) (k : Nat), s.power = true → s.mode ≠ .boot → s.mode ≠ .dormant → (s.eng e).accEnd = some k →
           s.now ≤ k → k < 2 ^ 64 → s.upsets = [] → ∃ t, exec (.accumulationComplete e) s = .next t ∧ (t.eng e).me.run = none
             ∧ (t.eng e).me.lastDone = k ∧ t.now = k ∧ ((s.eng e).me.caps = [] → t.sram = s.sram) ∧ t.bulk = s.bulk ∧ t.mode = s.mode)
         ∧ ∀ (e : Fin 1024) (s : State) (r : AccRun) (a b : Word), s.power = true → s.mode ≠ .boot → s.mode ≠ .dormant →
             s.upsets = [] → (s.eng e).me.caps = [] → (s.eng e).me.wrote = [] → (s.eng e).me.cbs = [] → (s.eng e).haltReq = false →
             (s.eng e).me.run = some r →
             r.win = none → r.left = 1 → r.x = 0 → r.y = 2 → r.conj = false → s.now ≤ r.next → r.next + 1 < 2 ^ 64 →
             (s.eng e).me.ag0.off < (s.eng e).me.ag0.len → (s.eng e).me.ag2.off < (s.eng e).me.ag2.len →
             a = memWord s.sram (dataBase (s.phys e) false + (s.eng e).me.ag0.base + 4 * (s.eng e).me.ag0.off) →
             b = memWord s.sram (dataBase (s.phys e) true + (s.eng e).me.ag2.base + 4 * (s.eng e).me.ag2.off) →
             ∃ t, exec (.accumulationComplete e) s = .next t
               ∧ (t.eng e).me.accI = satS 48 ((s.eng e).me.accI + (sext 16 (a.bits 15 0) * sext 16 (b.bits 15 0)
                   - sext 16 (a.bits 31 16) * sext 16 (b.bits 31 16)))
               ∧ (t.eng e).me.accQ = satS 48 ((s.eng e).me.accQ + (sext 16 (a.bits 15 0) * sext 16 (b.bits 31 16)
                   + sext 16 (a.bits 31 16) * sext 16 (b.bits 15 0)))
               ∧ (t.eng e).g = (s.eng e).g ∧ (t.eng e).pc = (s.eng e).pc)

/-- LD reads and ST stores one word of data memory, a word outside 0x0000 to 0x3FFC faults with DADDR (an address both outside and
unaligned too: the model's choice, log entry 132) and an unaligned one with ALIGN; one that an outstanding transfer holds waits, an LD
while an accumulation has the read port of its memory and an ST while a capture has the write port of Y wait as well. ST changes its
four bytes and no other byte. -/
def Obligations.DataMemory : Prop :=
  ∀ (e : Fin 1024) (f : JWord) (s u v : State) (g : Eng) (a : Nat) (y : Bool), u = atIssue s e → g = u.eng e → v = u.meSeen e →
    a = (g.reg f.a.toNat + BitVec.ofInt 32 (sext 16 (f.imm.bits 15 0))).toNat → y = decide (f.e.toNat % 2 = 1) →
    runsOn s e f { dm := 31, am := 31, em := mField (clsOf e), im := 0xFFFF, rd := true, ra := true } →
    (0x3FFC < a → (∃ t, exec (.ld e f) s = .next t ∧ faults u t e 6) ∧ ∃ t, exec (.st e f) s = .next t ∧ faults u t e 6)
    ∧ (a ≤ 0x3FFC → a % 4 ≠ 0 → (∃ t, exec (.ld e f) s = .next t ∧ faults u t e 7) ∧ ∃ t, exec (.st e f) s = .next t ∧ faults u t e 7)
    ∧ (a ≤ 0x3FFC → a % 4 = 0 → g.bdmaTouches y a = true → exec (.ld e f) s = .next s ∧ exec (.st e f) s = .next s)
    ∧ (a ≤ 0x3FFC → a % 4 = 0 → g.bdmaTouches y a = false →
      ((v.eng e).me.reads y u.now = true → exec (.ld e f) s = .next s)
      ∧ ((v.eng e).me.reads y u.now = false → ∃ t, exec (.ld e f) s = .next t
        ∧ wrote v t e f.d.toNat (memWord v.sram (dataBase (u.phys e) y + a)) 2)
      ∧ (y = true → (v.eng e).me.captures u.now = true → exec (.st e f) s = .next s)
      ∧ ((y = true → (v.eng e).me.captures u.now = false) → ∃ t, exec (.st e f) s = .next t
        ∧ movedOn { v with sram := t.sram, upsets := t.upsets } t e { v.eng e with me := (t.eng e).me } 1
        ∧ memWord t.sram (dataBase (u.phys e) y + a) = g.reg f.d.toNat ∧ sramKept v t (dataBase (u.phys e) y + a) 4
        ∧ ((v.eng e).me.run = none → (v.eng e).me.caps = [] → (t.eng e).me = (v.eng e).me)))

/-- LDV, LDF, CSRR, CSRW, RDTT: the verdict entry and the Pauli frame as of before the issue tick, a word of the engine's
window, ENG_LSR cleared by ones, a general register, and TT or tc into a register pair. -/
def Obligations.SpecialReads : Prop :=
  (∀ (e : Fin 1024) (f : JWord) (s u : State), u = atIssue s e →
      runsOn s e f { dm := 31, bm := 31, em := 1, im := 0x1FF, rd := true, rb := true } → ∃ t w, exec (.ldv e f) s = .next t
        ∧ wrote u t e f.d.toNat w 2
        ∧ (u.verdictAt (((u.eng e).opB f).bits 8 0) (u.now - 1) = none → w = 0)
        ∧ ∀ x, u.verdictAt (((u.eng e).opB f).bits 8 0) (u.now - 1) = some x →
            w.bit 31 = x.valid ∧ w.bits 15 8 = x.seq % 256 ∧ w.bit 2 = x.conf ∧ w.bits 1 0 = x.state % 4)
    ∧ (∀ (e : Fin 1024) (f : JWord) (s u : State) (q : Nat), u = atIssue s e → q = ((u.eng e).opB f).bits 7 0 →
        runsOn s e f { dm := 31, bm := 31, em := 1, im := 0xFF, rd := true, rb := true, l1 := false } →
        ∃ t, exec (.ldf e f) s = .next t ∧ wrote u t e f.d.toNat
          (BitVec.ofNat 32 (if u.pauliTick = u.now then tabGet u.pauliOld q 0 else tabGet u.pauli q 0).toNat) 2)
    ∧ (∀ (e : Fin 1024) (f : JWord) (s u : State), u = atIssue s e → runsOn s e f { dm := 31, im := 0x3F, rd := true } →
        ∃ t w, exec (.csrr e f) s = .next t ∧ wrote u t e f.d.toNat w 2
          ∧ w = ((u.meSeen e).modEng e (fun x => { x with pc := x.pc + 1 })).windowWord e (4 * f.imm.bits 5 0)
          ∧ (f.imm.bits 5 0 = 5 → w = BitVec.ofNat 32 (u.eng e).tc.toNat)
          ∧ (32 ≤ f.imm.bits 5 0 → w = (u.eng e).reg (f.imm.bits 5 0 - 32)))
    ∧ (∀ (e : Fin 1024) (f : JWord) (s u z : State) (v : Word) (k : Nat), u = atIssue s e → z = u.meSeen e → v = (u.eng e).reg f.a.toNat →
        k = f.imm.bits 5 0 → runsOn s e f { am := 31, im := 0x3F, ra := true } → ∃ t, exec (.csrw e f) s = .next t
          ∧ (k = 9 → movedOn z t e { z.eng e with lsr := (z.eng e).lsr &&& ~~~(v &&& 0x7F) } 1)
          ∧ (32 ≤ k → wrote u t e (k - 32) v 1) ∧ (k ≠ 9 → k < 32 → movedOn u t e (u.eng e) 1))
    ∧ ∀ (e : Fin 1024) (f : JWord) (s u : State) (v : Nat), u = atIssue s e → v = (if f.e.getLsbD 0 then (u.eng e).tc.toNat else u.now) →
        f.d.toNat % 2 = 0 → runsOn s e f { dm := 31, em := 1, rd := true } → ∃ t, exec (.rdtt e f) s = .next t
          ∧ movedOn u t e { u.eng e with g := (t.eng e).g } 1
          ∧ ∀ r, (t.eng e).reg r = (if r = f.d.toNat then BitVec.ofNat 32 v
              else if r = f.d.toNat + 1 then BitVec.ofNat 32 (v >>> 32) else (u.eng e).reg r)

/-- BDMA checks its ranges in order, clears its predicate and begins; at its end every word has moved, no other byte of either
memory has changed and the predicate is 1, or a line was lost: an engine at an instruction boundary faults with BDMA at the
transfer's index, another is to fault at its next one. -/
def Obligations.BulkTransfers : Prop :=
  (∀ (e : Fin 1024) (f : JWord) (s u : State) (g : Eng) (n a off wo wl : Nat), u = atIssue s e → g = u.eng e →
      runsOn s e f { dm := 7, am := 31, bm := 31, em := mField (clsOf e), im := 0x80001FFF, ra := true, rb := true, pd := true,
                     l1 := false } →
      f.b.toNat % 2 = 0 → n = f.imm.bits 12 0 → 1 ≤ n → n ≤ 4096 → a = (g.reg f.a.toNat).toNat →
      off = (g.reg f.b.toNat).toNat + 2 ^ 32 * (g.reg (f.b.toNat + 1)).bits 3 0 →
      (wo, wl) = (match g.img with | some i => (i.winOff, i.winLen) | none => (0, 0)) →
      (g.bdma ≠ none → exec (.bdma e f) s = .next s)
      ∧ (g.bdma = none → 0x4000 < a + 4 * n → ∃ t, exec (.bdma e f) s = .next t ∧ faults u t e 6)
      ∧ (g.bdma = none → a + 4 * n ≤ 0x4000 → (a % 4 ≠ 0 ∨ off % 4 ≠ 0) → ∃ t, exec (.bdma e f) s = .next t ∧ faults u t e 7)
      ∧ (g.bdma = none → a + 4 * n ≤ 0x4000 → a % 4 = 0 → off % 4 = 0 → wl < off + 4 * n →
          ∃ t, exec (.bdma e f) s = .next t ∧ faults u t e 13)
      ∧ (g.bdma = none → a + 4 * n ≤ 0x4000 → a % 4 = 0 → off % 4 = 0 → off + 4 * n ≤ wl → ∃ t, exec (.bdma e f) s = .next t
          ∧ movedOn u t e { g.setPred f.d.toNat false with
              bdma := some ⟨f.d.toNat, decide (f.e.toNat % 2 = 1), a, wo + off, n, f.imm.bit 31, g.pc⟩ } 1))
    ∧ (∀ (e : Fin 1024) (s v : State) (b : Bdma) (loc : Nat), s.power = true → (s.eng e).bdma = some b → v = s.meSeen e →
        loc = dataBase (s.phys e) b.y + b.loc →
        (∀ i, i < b.n → s.bulkServed (b.bulk + 4 * i) = true ∧ s.notPoisoned (b.bulk + 4 * i) 4 = true) → b.bulk % 4 = 0 →
        (b.out = false → ∃ t, exec (.bdmaComplete e) s = .next t
          ∧ engineOnly { v with sram := t.sram, upsets := t.upsets } t e
              { (v.eng e).setPred b.pd true with bdma := none, me := (t.eng e).me }
          ∧ memWords t.sram loc b.n = memWords s.bulk b.bulk b.n ∧ sramKept v t loc (4 * b.n))
        ∧ (b.out = true → ∃ t, exec (.bdmaComplete e) s = .next t
          ∧ engineOnly { v with bulk := t.bulk, poison := t.poison, regs := t.regs } t e
              { (v.eng e).setPred b.pd true with bdma := none }
          ∧ memWords t.bulk b.bulk b.n = memWords v.sram loc b.n ∧ bulkKept s t b.bulk (4 * b.n)))
    ∧ ∀ (e : Fin 1024) (s : State) (b : Bdma) (i : Nat), s.power = true → (s.eng e).bdma = some b → i < b.n →
        s.bulkServed (b.bulk + 4 * i) = false → (s.eng e).faultAct = false → ∃ t, exec (.bdmaComplete e) s = .next t
          ∧ (t.eng e).bdma = none ∧ (t.eng e).preds = (s.eng e).preds
          ∧ ∀ w, w = (liveState (s.eng e).state && (s.eng e).routine.isNone && ((s.eng e).state != .running || decide ((s.eng e).ready ≤ s.now))) →
            (w = false → (t.eng e).bdmaBad = some b.pc ∧ (t.eng e).state = (s.eng e).state)
            ∧ (w = true → (t.eng e).state = .faulted ∧ ((s.eng e).fltValid = false → (t.eng e).fltCode = 13 ∧ (t.eng e).fltPc = b.pc))

/-- CBSET sets a generator, or keeps it and faults; DISC writes the state, confidence and invalid condition of its table; PUBV and
PUBS publish for the next tick; HIST counts a point; REC forms a record, and waits with four held. -/
def Obligations.MeasurementResults : Prop :=
  (∀ (e : Fin 1024) (f : JWord) (s v : State) (g : Eng) (base len : Nat), v = (atIssue s e).meSeen e → g = v.eng e →
      base = (g.reg f.a.toNat).toNat → len = (g.reg f.b.toNat).toNat →
      runsOn s e f { am := 31, bm := 31, em := 3, im := 1, ra := true, rb := true, te := false, fe := false } →
      ((len = 0 ∨ 4096 < len ∨ 0x4000 < base + 4 * len) → ∃ t, exec (.cbset e f) s = .next t ∧ faults v t e 6)
      ∧ (1 ≤ len → len ≤ 4096 → base + 4 * len ≤ 0x4000 → base % 4 ≠ 0 → ∃ t, exec (.cbset e f) s = .next t ∧ faults v t e 7)
      ∧ (1 ≤ len → len ≤ 4096 → base + 4 * len ≤ 0x4000 → base % 4 = 0 → ∃ t, exec (.cbset e f) s = .next t
        ∧ movedOn v t e { g with me := { g.me with cbs := g.me.cbs ++ [⟨v.now, f.e.toNat, base, len, f.imm.bit 0⟩] } } 1
        ∧ (∀ k p, p ≤ v.now → (t.eng e).me.agAt k p = g.me.agAt k p)
        ∧ ∀ p, v.now < p → (t.eng e).me.agAt f.e.toNat p = ⟨base, len, if f.imm.bit 0 then 0 else (g.me.agAt f.e.toNat p).off⟩))
    ∧ (∀ (e : Fin 1024) (f : JWord) (s v : State) (g : Eng) (a : Nat) (y : Bool), v = (atIssue s e).meSeen e →
        g = v.eng e → a = f.imm.bits 13 0 → y = f.e.getLsbD 0 →
        runsOn s e f { dm := 31, am := 31, bm := 31, em := 1, im := 0x3FFF, rd := true, ra := true, rb := true, te := false,
                       fe := false } →
        (0x4000 < a + (if y then 2060 else 32) → ∃ t, exec (.disc e f) s = .next t ∧ faults (atIssue s e) t e 6)
        ∧ (a + (if y then 2060 else 32) ≤ 0x4000 → a % 4 ≠ 0 → ∃ t, exec (.disc e f) s = .next t ∧ faults (atIssue s e) t e 7)
        ∧ (a + (if y then 2060 else 32) ≤ 0x4000 → a % 4 = 0 → g.me.reads y v.now = true → exec (.disc e f) s = .next s)
        ∧ (a + (if y then 2060 else 32) ≤ 0x4000 → a % 4 = 0 → g.me.reads y v.now = false → ∃ t r, exec (.disc e f) s = .next t
          ∧ r = v.discriminate e y a (g.reg f.a.toNat).toInt (g.reg f.b.toNat).toInt
          ∧ wrote v t e f.d.toNat (BitVec.ofNat 32 (r.1 % 4 + b2n (r.2 && !v.meInv g) * 4 + b2n (v.meInv g) * 8)) 3))
    ∧ (∀ (e : Fin 1024) (f : JWord) (s v : State) (g : Eng) (a b : Word), v = (atIssue s e).meSeen e → g = v.eng e →
        a = g.reg f.a.toNat → b = g.reg f.b.toNat →
        (runsOn s e f { am := 31, bm := 31, ra := true, rb := true, te := false, fe := false } → ∃ t, exec (.pubv e f) s = .next t
          ∧ movedOn { v with verdicts := t.verdicts, newVerdicts := t.newVerdicts, due := v.due ++ [⟨v.now + 1, e.val - 768⟩] } t e g 1
          ∧ t.verdictAt (e.val - 768) (v.now + 1) = some ⟨b.bits 7 0, a.bit 2 && !v.meInv g, a.bits 1 0, true⟩)
        ∧ (runsOn s e f { am := 31, bm := 31, ra := true, rb := true, te := false, fe := false, l1 := false } →
          ∃ t, exec (.pubs e f) s = .next t
          ∧ movedOn { v with pubs := v.pubs ++ [⟨v.now + 1, b.bits 10 0, b.bits 27 12, a.bit 0, a.bit 2 && !v.meInv g⟩] } t e g 1)
        ∧ (runsOn s e f { am := 31, bm := 31, ra := true, rb := true, te := false, fe := false } → ∃ t, exec (.hist e f) s = .next t
          ∧ movedOn (v.histAdd (inputOf e) (chanOf e) a b) t e g 1 ∧ ((v.acq (inputOf e)).state ≠ .hist → movedOn v t e g 1)
          ∧ t.bulk = s.bulk ∧ sramKept v t (acqBase (inputOf e) + chanOf e * 0x40000) 0x40000))
    ∧ ∀ (e : Fin 1024) (f : JWord) (s u v : State) (g : Eng), u = atIssue s e → v = u.meSeen e → g = v.eng e →
        runsOn s e f { am := 31, em := 1, im := 7, ra := true, te := false, fe := false } →
        f.a.toNat + f.imm.bits 2 0 ≤ (if g.level = 1 then 15 else 31) →
        ((4 ≤ (u.eng e).me.recs.length ∨ f.e.getLsbD 0 = true ∧ u.interlocked e = true) → exec (.recd e f) s = .next s)
        ∧ ((u.eng e).me.recs.length < 4 → (f.e.getLsbD 0 = true → u.interlocked e = false) → ∃ t r, exec (.recd e f) s = .next t
          ∧ movedOn v t e { g with me := { g.me with recs := g.me.recs ++ [r] } } 1 ∧ r.me = e.val ∧ r.tt = v.tt ∧ r.inv = v.meInv g
          ∧ r.regs = (List.range (f.imm.bits 2 0 + 1)).map (fun i => g.reg (f.a.toNat + i))
          ∧ r.acc = (if f.e.getLsbD 0 then some (g.me.accI, g.me.accQ) else none))


/-! Timeline instructions. -/

/-- AT and ADV set tc, to any value, and deposit nothing; with condition 0 they leave tc unchanged. A timeline instruction
with condition 1 and a full queue stalls its engine; then TC_FAR goes before TC_BACK, which a smaller tc than the last raises,
before LATE; a LATE one with LATE_POL = 0 deposits nothing that lands, is counted, and moves tc on; with condition 0 it only
moves tc. -/
def Obligations.TimelineIssue : Prop :=
  ((∀ (e : Fin 1024) (f : JWord) (s u : State) (g : Eng), u = atIssue s e → g = u.eng e →
       runsOn s e f { dm := 1, am := 31, bm := 31, em := 31, im := 0xFFFFFFFF, ra := true } →
       (f.d = 0 → ∃ t, exec (.atc e f) s = .next t ∧ movedOn u t e { g with
         tc := BitVec.ofNat 64 (u.ts + (f.b.toNat * 32 + f.e.toNat) * 2 ^ 32 + f.imm.toNat) } 1)
       ∧ (f.d = 1 → f.a.toNat % 2 = 0 → f.b = 0 → f.e = 0 → f.imm = 0 → ∃ t, exec (.atc e f) s = .next t ∧ movedOn u t e { g with
         tc := BitVec.ofNat 64 ((g.reg f.a.toNat).toNat + 2 ^ 32 * (g.reg (f.a.toNat + 1)).toNat) } 1))
     ∧ (∀ (e : Fin 1024) (f : JWord) (s u : State), u = atIssue s e →
         issues s e f { dm := 1, am := 31, bm := 31, em := 31, im := 0xFFFFFFFF, ra := true } →
         (f.d = 0 ∨ (f.d = 1 ∧ f.a.toNat % 2 = 0 ∧ f.b = 0 ∧ f.e = 0 ∧ f.imm = 0)) → ¬ holds s e f → goesOn s e →
         ∃ t, exec (.atc e f) s = .next t ∧ movedOn u t e (u.eng e) 1)
     ∧ (∀ (e : Fin 1024) (f : JWord) (s u : State), u = atIssue s e → issues s e f { bm := 31, em := 1, im := 0xFFFFFFFF, rb := true } →
         ¬ holds s e f → goesOn s e → ∃ t, exec (.adv e f) s = .next t ∧ movedOn u t e (u.eng e) 1)
     ∧ ∀ (e : Fin 1024) (f : JWord) (s u : State) (g : Eng), u = atIssue s e → g = u.eng e →
         runsOn s e f { bm := 31, em := 1, im := 0xFFFFFFFF, rb := true } → ∃ t, exec (.adv e f) s = .next t
           ∧ movedOn u t e { g with tc := g.tc + (if f.e.getLsbD 0 then g.reg f.b.toNat else f.imm).setWidth 64 } 1)
    ∧ (∀ (i : Instr) (e : Fin 1024) (f : JWord) (F : Form) (ok : Bool) (adv : Nat) (s u : State) (g : Eng),
         timelineOf i = some (e, f, F, ok, adv) → u = atIssue s e → g = u.eng e →
         (issues s e f F true → ok = false → ∃ t, exec i s = .next t ∧ faults u t e 4)
         ∧ (issues s e f F true → ok = true → ¬ holds s e f → goesOn s e → ∃ t, exec i s = .next t
             ∧ movedOn u t e { g with tc := g.tc + BitVec.ofNat 64 adv } 1)
         ∧ (runsOn s e f F true → ok = true → (if clsOf e = .me then 8 else 32) ≤ g.depth → ∃ t, exec i s = .next t
             ∧ engineOnly u t e { g with state := .stalled })
         ∧ (runsOn s e f F true → ok = true → g.depth < (if clsOf e = .me then 8 else 32) →
             (u.now + 2 ^ 31 < g.tc.toNat → ∃ t, exec i s = .next t ∧ faults u t e 3)
             ∧ (g.tc.toNat ≤ u.now + 2 ^ 31 → (∃ l, g.lastTc = some l ∧ g.tc.toNat < l) → ∃ t, exec i s = .next t ∧ faults u t e 2)
             ∧ (g.tc.toNat ≤ u.now + 2 ^ 31 → (∀ l, g.lastTc = some l → l ≤ g.tc.toNat) →
                 g.tc.toNat < u.now + (if clsOf e = .me then 24 else 40) → g.lateCue = false →
                 (g.latePol = true → ∃ t, exec i s = .next t ∧ faults u t e 1)
                 ∧ (g.latePol = false → ∃ t, exec i s = .next t ∧ (t.eng e).tc = g.tc + BitVec.ofNat 64 adv
                     ∧ (t.eng e).lsr.getLsbD 0 = true ∧ (t.eng e).lateCnt = min (2 ^ 32 - 1) (g.lateCnt + 1) ∧ (t.eng e).depth = g.depth
                     ∧ (t.eng e).pc = g.pc + 1 ∧ (t.eng e).g = g.g ∧ (t.eng e).state = .running
                     ∧ t = { u with engs := t.engs } ∧ ∀ p, p ≠ u.phys e → t.engP p = u.engP p))))

/-- What each timeline instruction deposits in time at tc, and how far tc moves. A PLAY whose segment is invalid, and a PLAYF
with both, deposits only what sets NOSEG. -/
def Obligations.Deposits : Prop :=
  (∀ (e : Fin 1024) (f : JWord) (s u v : State) (g : Eng) (seg d : Nat), u = atIssue s e → g = u.eng e →
      seg = (if f.e.getLsbD 0 then (g.reg f.b.toNat).bits 10 0 else f.imm.bits 10 0) → v = u.activate (ownerOf e) [seg] →
      d = v.dur (ownerOf e) seg → timely s e f { bm := 31, em := 1, im := 0x7FFFF, rb := true, me := false } →
      ∃ t, exec (.play e f) s = .next t ∧ deposits v t e
        (if d = 0 then .noseg else .play seg (f.imm.bits 18 11 + 1) d) ((f.imm.bits 18 11 + 1) * d) 1 true)
    ∧ (∀ (e : Fin 1024) (f : JWord) (s u v : State) (g : Eng) (a b da db : Nat), u = atIssue s e → g = u.eng e → a = f.imm.bits 10 0 →
      b = f.imm.bits 21 11 → v = u.activate (ownerOf e) [a, b] → da = v.dur (ownerOf e) a → db = v.dur (ownerOf e) b →
      timely s e f { am := 31, em := 31, im := 0xFFFFFFFF, ra := true, me := false } →
      ∃ t, exec (.playf e f) s = .next t ∧ deposits v t e
        (if da = 0 ∧ db = 0 then .noseg else .playf a b da db (f.imm.bits 30 22) (f.imm.bit 31) (f.e.setWidth 4) (f.e.getLsbD 4)
          ((g.reg f.a.toNat).bits 7 0) none) (max da db) 2 true)
    ∧ (∀ (e : Fin 1024) (f : JWord) (s u : State) (g : Eng) (h : Nat), u = atIssue s e → g = u.eng e →
      h = (if f.e.getLsbD 0 then g.reg f.b.toNat else f.imm).bits 23 0 →
      timely s e f { bm := 31, em := 1, im := 0xFFFFFF, rb := true, me := false } →
      (h ≠ 0 → ∃ t, exec (.hold e f) s = .next t ∧ deposits u t e (.hold h) h 1 true)
      ∧ (h = 0 → ∃ t, exec (.hold e f) s = .next t ∧ movedOn u t e { g with played := true } 1))
    ∧ (∀ (e : Fin 1024) (f : JWord) (s u : State) (g : Eng), u = atIssue s e → g = u.eng e → g.level ≠ 1 →
      (timely s e f { am := 30, fe := false, me := false } → ∃ t, exec (.setf e f) s = .next t ∧ deposits u t e
        (.setf (((g.reg f.a.toNat).toNat + 2 ^ 32 * (g.reg (f.a.toNat + 1)).toNat) % 2 ^ 48)) 0 1)
      ∧ (timely s e f { bm := 31, em := 1, im := 0xFFFFFFFF, rb := true, fe := false, me := false } →
        (∃ t, exec (.shph e f) s = .next t ∧ deposits u t e (.shph (if f.e.getLsbD 0 then g.reg f.b.toNat else f.imm).toNat) 0 1)
        ∧ ∃ t, exec (.setph e f) s = .next t ∧ deposits u t e (.setph (if f.e.getLsbD 0 then g.reg f.b.toNat else f.imm).toNat) 0 1))
    ∧ (∀ (e : Fin 1024) (f : JWord) (s u : State) (g : Eng), u = atIssue s e → g = u.eng e → g.level = 1 →
      (timely s e f { im := 0xFFFFFFFF, fe := false, me := false } → ∀ im, g.img = some im → ∃ t, exec (.setf e f) s = .next t
        ∧ deposits u t e (.setf (((im.base1.toNat : Int) + f.imm.toInt * 2 ^ 14) % 2 ^ 48).toNat) 0 1)
      ∧ (timely s e f { im := 0xFFFF, fe := false, me := false } →
        (∃ t, exec (.shph e f) s = .next t ∧ deposits u t e (.shph (f.imm.bits 15 0 * 2 ^ 16)) 0 1)
        ∧ ∃ t, exec (.setph e f) s = .next t ∧ deposits u t e (.setph (f.imm.bits 15 0 * 2 ^ 16)) 0 1))
    ∧ ∀ (e : Fin 1024) (f : JWord) (s u : State) (g : Eng), u = atIssue s e → g = u.eng e →
      (timely s e f { bm := 31, em := 1, im := 0xFFFF, rb := true, me := false } → ∃ t, exec (.seta e f) s = .next t
        ∧ deposits u t e (.seta ((if f.e.getLsbD 0 then g.reg f.b.toNat else f.imm).bits 15 0)) 0 1)
      ∧ (timely s e f { im := 7, fe := false, me := false } → ∃ t, exec (.tset e f) s = .next t
        ∧ deposits u t e (.tset (f.imm.bits 2 0)) 0 1)
      ∧ (timely s e f { im := 0xFFFF0007, me := false } → (f.imm.bits 2 1 ≠ 3 ∨ f.imm.bits 31 16 ≠ 0) → ∃ t, exec (.mark e f) s = .next t
        ∧ deposits u t e (.mark (f.imm.bits 0 0) (if f.imm.bits 2 1 = 0 then none else some (decide (f.imm.bits 2 1 ≠ 1)))
            (if f.imm.bits 2 1 = 3 then some (f.imm.bits 31 16) else none)) 0 1)
      ∧ (timely s e f { am := 31, im := if e.val < 512 then 0xFFF else 0xFF, ra := true, me := false, l1 := false } →
        partOk e f.imm g = true → ∃ t, exec (.part e f) s = .next t ∧ deposits u t e
          (if e.val < 512 then .term (f.imm.bits 10 9) (if f.imm.bit 11 then some (f.imm.bits 8 0, g.reg f.a.toNat) else none)
           else .coef (f.imm.bits 7 0) (g.reg f.a.toNat)) 0 1)
      ∧ (timely s e f { bm := 31, em := 1, im := 0x3FFFF, rb := true, te := false, me := false } → ∃ t, exec (.flev e f) s = .next t
        ∧ deposits u t e (.flev (sext 18 ((if f.e.getLsbD 0 then g.reg f.b.toNat else f.imm).bits 17 0))) 0 1 true)
      ∧ (timely s e f { im := 0x1FFF, te := false, fe := false } → 1 ≤ f.imm.bits 11 0 → f.imm.bits 11 0 ≤ 4000 →
        ∃ t, exec (.wopen e f) s = .next t ∧ deposits u t e (.wopen (f.imm.bits 11 0) (f.imm.bit 12) false) (2 * f.imm.bits 11 0) 1)


/-! Micro-routines, effects that land, forks, jumps, halts. -/

/-- UOP without a valid directory entry faults with UOP_ABSENT; with one its routine begins in the next tick, GMASK 0, and the
engine's other registers as they were. A group that meets UEND ends the routine: PC moves on, and the next instruction issues in the
tick after; a computation before it has written the register it names, marked in GMASK. Four microwords that only go on fill a group,
and the routine goes on in the next tick. -/
def Obligations.MicroRoutines : Prop :=
  (∀ (e : Fin 1024) (f : JWord) (s u : State) (d : Word), u = atIssue s e →
      runsOn s e f { dm := 31, am := 31, bm := 31, im := 0xFF, rd := true, ra := true, rb := true, l1 := false } →
      d = memWord u.sram (ucsDir (clsOf e) + 4 * f.imm.bits 7 0) →
      (d.bit 31 = false → ∃ t, exec (.uop e f) s = .next t ∧ faults u t e 12)
      ∧ (d.bit 31 = true → ∃ t r, exec (.uop e f) s = .next t
          ∧ engineOnly u t e { u.eng e with gmask := 0, cont := (t.eng e).cont, routine := some r } ∧ (t.eng e).cont.bit 31 = false
          ∧ r.num = f.imm.bits 7 0 ∧ r.start = d.bits 10 0 ∧ r.pc = d.bits 10 0 ∧ r.d = f.d.toNat ∧ r.a = f.a.toNat ∧ r.b = f.b.toNat
          ∧ r.resume = some (u.now + 1) ∧ r.visible = false ∧ r.temps = []))
    ∧ ∀ (e : Fin 1024) (s u : State) (r : Routine) (k : Nat) (g : Eng) (w : Nat → Word), s.power = true → s.upsets = [] →
        (s.eng e).routine = some r → r.resume = some k → liveState (s.eng e).state = true → r.rolling = none → r.drop = none →
        s.stopAt = none → (s.eng e).haltReq = false → u = s.advanceTo k → u.cuesHere = true → g = u.eng e →
        w = (fun i => memWord s.sram (ucsStore (clsOf e) + 4 * (r.pc + i))) →
        (uMop (w 0) = 5 → ∃ t, exec (.routineResume e) s = .next t ∧ engineOnly u t e
            { g with routine := none, state := .running, pc := g.pc + 1, ready := u.now + 1, cont := (t.eng e).cont })
        ∧ (0x08 ≤ uMop (w 0) → uMop (w 0) ≤ 0x13 → uX (w 0) < 32 → uY (w 0) < 32 → uZ (w 0) 13 13 = 1 → uMop (w 1) = 5 →
            ∃ t, exec (.routineResume e) s = .next t ∧ engineOnly u t e
              { g with routine := none, state := .running, pc := g.pc + 1, ready := u.now + 1, cont := (t.eng e).cont, g := (t.eng e).g,
                       gmask := g.gmask ||| BitVec.ofNat 32 (2 ^ uX (w 0)) }
            ∧ ∀ i, (t.eng e).reg i = (if i = uX (w 0) then
                microAlu (uMop (w 0)) (g.reg (uY (w 0))) (BitVec.ofInt 32 (sext 13 (uZ (w 0) 12 0))) else g.reg i))
        ∧ (uMop (w 0) = 0 → uMop (w 1) = 0 → uMop (w 2) = 0 → uMop (w 3) = 0 → ∃ t, exec (.routineResume e) s = .next t ∧ engineOnly u t e
            { g with routine := some { r with pc := r.pc + 4, resume := some (u.now + 1) }, state := .running, cont := (t.eng e).cont })

/-- The earliest effect of a TE's queue lands in the tick equal to its tc, and the next follow: what a frequency, phase,
amplitude, marker or term instruction sets is in force on the slot from sample tc × 32 + k0 on, and not before it, a timing set for
later effects, and a PLAY or HOLD begins there; the phase entries of a slot stay in order. Effects of an FE land on its flux output,
and of an ME on its windows; those of a parked flux output are discarded. -/
def Obligations.EffectsLand : Prop :=
  (∀ (e : Fin 1024) (s u : State) (q : QEff) (rest : List QEff) (o k n : Nat) (x : Slot), s.power = true → e.val < 512 →
     popQueue (s.eng e).queue = some (q, rest) → u = s.advanceTo q.tc → o = rfOf e → k = slotOf e → x = u.slot o k →
     n = q.tc * 32 + u.fld (rfoTsetK0 o x.tset) → unchosen q = false →
     ∃ t y, exec (.effectLand e) s = .next t ∧ y = t.slot o k ∧ (t.eng e).queue = rest ∧ (t.eng e).g = (s.eng e).g
       ∧ t.sram = s.sram ∧ t.bulk = s.bulk ∧ t.mode = s.mode ∧ t.now = u.now ∧ (∀ p, p ≠ s.phys e → t.engP p = u.engP p)
       ∧ ((s.eng e).state = .running → (s.eng e).haltReq = false → (t.eng e).state = .running ∧ (t.eng e).ready = (s.eng e).ready)
       ∧ (∀ v, q.eff = .setf v → y = { x with ftws := y.ftws } ∧ y.ftwAt n = v ∧ ∀ m, m < n → n ≤ m + carrierKeep → y.ftwAt m = x.ftwAt m)
       ∧ (x.offs.Pairwise (fun a b => b.1 ≤ a.1) →
           y.offs.Pairwise (fun a b => b.1 ≤ a.1)
           ∧ (∀ v, q.eff = .shph v → y = { x with offs := y.offs } ∧ y.offAt n = (x.offAt n + v) % 2 ^ 32
               ∧ ∀ m, m < n → n ≤ m + carrierKeep → y.offAt m = x.offAt m)
           ∧ (∀ v, q.eff = .setph v → y = { x with offs := y.offs } ∧ y.offAt n = v
               ∧ ∀ m, m < n → n ≤ m + carrierKeep → y.offAt m = x.offAt m))
       ∧ (∀ v, q.eff = .seta v → y = { x with amps := y.amps } ∧ y.ampAt (16 * n) = v
           ∧ ∀ m, m < 16 * n → 16 * n ≤ m + 65536 → y.ampAt m = x.ampAt m)
       ∧ (∀ v, q.eff = .tset v → y = { x with tset := v })
       ∧ (∀ lv w, q.eff = .mark 0 lv w → y = { x with mark0 := y.mark0 } ∧ logAt .free (16 * n) y.mark0 = markOv (16 * n) lv w)
       ∧ (∀ lv w, q.eff = .mark 1 lv w → y = { x with mark1 := y.mark1 } ∧ logAt .free (16 * n) y.mark1 = markOv (16 * n) lv w)
       ∧ (∀ i src, q.eff = .term i src → y = { x with parts := y.parts } ∧ (∀ m, 2 * q.tc ≤ m → y.partAt i m = src)
           ∧ ∀ j m, j ≠ i → y.partAt j m = x.partAt j m)
       ∧ (∀ h, q.eff = .hold h → ∃ p, y.play = some p ∧ p.hold.isSome = true ∧ p.b = q.tc ∧ p.dur = h ∧ p.tset = x.tset)
       ∧ ∀ seg reps d, q.eff = .play seg reps d → 0 < d → ∃ p, y.play = some p ∧ p.seg = seg ∧ p.b = q.tc ∧ p.dur = d
           ∧ p.reps = reps - 1 ∧ p.hold = none ∧ p.w0 = s.desc0 o seg ∧ p.tset = x.tset)
    ∧ ((∀ (e : Fin 1024) (s u : State) (q : QEff) (rest : List QEff), s.power = true → 512 ≤ e.val → e.val < 768 →
           popQueue (s.eng e).queue = some (q, rest) → u = s.advanceTo q.tc → unchosen q = false →
           ∃ t, exec (.effectLand e) s = .next t ∧ (t.eng e).queue = rest ∧ t.sram = s.sram ∧ t.bulk = s.bulk ∧ t.mode = s.mode
             ∧ (u.flag (flxStatParked (e - 512)) = true → t.flux = u.flux ∧ t.slots = u.slots ∧ t.regs = u.regs)
             ∧ (u.flag (flxStatParked (e - 512)) = false →
                 (∀ v, q.eff = .seta v → t.flx (e - 512) = { u.flx (e - 512) with amp := v })
                 ∧ (∀ c, q.eff = .flev c → (t.flx (e - 512)).p = c ∧ (t.flx (e - 512)).play = none)
                 ∧ (∀ i v, i < 64 → q.eff = .coef i v → t.rd .flxFir (e - 512) i = v &&& 0xFFFFF ∧ t.flux = u.flux)
                 ∧ (∀ i v, 64 ≤ i → q.eff = .coef i v → t.rd .flxIir (e - 512) (i - 64) = v ∧ t.flux = u.flux)
                 ∧ (∀ h, q.eff = .hold h → ∃ p, (t.flx (e - 512)).play = some p ∧ p.hold.isSome = true ∧ p.b = q.tc ∧ p.dur = h)
                 ∧ ∀ seg reps d, q.eff = .play seg reps d → 0 < d → ∃ p, (t.flx (e - 512)).play = some p ∧ p.seg = seg ∧ p.b = q.tc
                     ∧ p.dur = d ∧ p.reps = reps - 1 ∧ p.hold = none ∧ p.w0 = s.desc0 (80 + (e.val - 512)) seg))
         ∧ ∀ (e : Fin 1024) (s : State) (q : QEff) (rest : List QEff) (len : Nat) (cap skip : Bool), s.power = true → 768 ≤ e.val →
             popQueue (s.eng e).queue = some (q, rest) → q.eff = .wopen len cap skip → ∃ t, exec (.effectLand e) s = .next t
               ∧ (t.eng e).queue = rest ∧ (t.eng e).me.wins = (s.eng e).me.wins ++ [⟨(s.eng e).me.nextWin, (q.tc + 1) / 2, len, cap, 0, 0, skip⟩]
               ∧ (t.eng e).me.nextWin = (s.eng e).me.nextWin + 1 ∧ t.sram = s.sram ∧ t.bulk = s.bulk)

/-- At its deadline a fork takes the branch that the mask gives for a verdict of the expected sequence (and confidence, if it
asks for one); without one it takes its default, sets FORK_LATE and raises cue 909. A jump request is registered once and
counted while one is registered; it commits 8 ticks before the end of an instance whose descriptor has JEN, if its land tick is before
that, and the target follows that instance; one that a later effect has cut is cut there too, with JCUT. A host halt stops a live
engine at an instruction boundary, a wait undone; while an instruction's cost or a running routine goes on it is requested for the next
boundary or safe point, and an engine that is not live ignores it. -/
def Obligations.ForksJumpsHalts : Prop :=
  (∀ (e : Fin 1024) (s : State) (q : QEff) (a b da db v seq : Nat) (dflt conf : Bool) (mask : BitVec 4), s.power = true →
     (s.eng e).queue.find? unchosen = some q → q.eff = .playf a b da db v dflt mask conf seq none →
     ∃ t, exec (.forkDeadline e) s = .next t ∧ (t.eng e).queue.length = (s.eng e).queue.length
       ∧ ((s.eng e).haltReq = false → (t.eng e).state = (s.eng e).state)
       ∧ t.sram = s.sram ∧ t.bulk = s.bulk ∧ t.slots = (s.advanceTo (forkDeadline e q.tc)).slots
       ∧ (∀ x, s.verdictAt v (forkDeadline e q.tc) = some x → x.valid = true → x.seq % 256 = seq → (conf = false ∨ x.conf = true) →
           ⟨q.tc, .playf a b da db v dflt mask conf seq (some (if mask.getLsbD (x.state % 4) then b else a))⟩ ∈ (t.eng e).queue
           ∧ t.due = (s.advanceTo (forkDeadline e q.tc)).due)
       ∧ ((∀ x, s.verdictAt v (forkDeadline e q.tc) = some x →
             x.valid = false ∨ x.seq % 256 ≠ seq ∨ conf = true ∧ x.conf = false) →
           ⟨q.tc, .playf a b da db v dflt mask conf seq (some (if dflt then b else a))⟩ ∈ (t.eng e).queue
           ∧ (t.eng e).lsr.getLsbD 1 = true ∧ ∃ d ∈ t.due, d.ch = 909))
    ∧ ((∀ (o : Fin 80) (k : Fin 16) (s : State), s.alive = true → k.val < nSlots o →
           ((s.slot o k).jump = none → ∃ t, exec (.jreq (.slot o k)) s = .next t ∧ t = { s with slots := t.slots }
             ∧ t.slot o k = { s.slot o k with jump := some (s.now + 32) })
           ∧ ((s.slot o k).jump ≠ none → ∃ t, exec (.jreq (.slot o k)) s = .next t ∧ fieldsOnly s t [rfoSlotJmpOvr o k]
             ∧ t.fld (rfoSlotJmpOvr o k) = min 255 (s.fld (rfoSlotJmpOvr o k) + 1)))
         ∧ (∀ (i : Fin 256) (s : State), s.alive = true → (s.flx i).jump = none → ∃ t, exec (.jreq (.flx i)) s = .next t
             ∧ t = { s with flux := t.flux } ∧ t.flx i = { s.flx i with jump := some (s.now + 40) })
         ∧ (∀ (i : Fin 256) (s : State), s.alive = true → (s.flx i).jump ≠ none → ∃ t, exec (.jreq (.flx i)) s = .next t
             ∧ fieldsOnly s t [flxSegJmpOvr i] ∧ t.fld (flxSegJmpOvr i) = min 255 (s.fld (flxSegJmpOvr i) + 1))
         ∧ (∀ (o : Fin 80) (k : Fin 16) (s : State) (r c : Nat) (p : Play), (s.slot o k).jump = some r → (s.slot o k).play = some p →
             (s.slot o k).commits = [] → dJen p.w0 = true → p.hold = none → p.taken = false → p.reps = 0 → c = p.b + p.dur - 8 →
             s.nextJump o k = (if r < c ∧ s.now ≤ c then some (c, false) else none))
         ∧ ∀ (o : Fin 80) (k : Fin 16) (s u : State) (c : Nat) (cut : Bool), s.power = true → s.nextJump o k = some (c, cut) →
             u = s.advanceTo c → ∃ t, exec (.jumpTaken (.slot o k)) s = .next t
               ∧ t = { u with slots := t.slots, regs := t.regs } ∧ bitsKept u t (if cut then [jcut o] else [])
               ∧ (cut = true → t.flag (jcut o) = true)
               ∧ t.slot o k = { u.slot o k with
                   jump := none
                   play := if cut then (u.slot o k).play else (u.slot o k).play.map (fun x => { x with taken := true, reps := 0 }) })
    ∧ (∀ (n : Fin 1088) (s : State) (p : Nat) (g : Eng), s.alive = true → p = s.windowPhys n → g = s.engP p →
         (liveState g.state = false → exec (.engHalt n) s = .next s)
         ∧ (liveState g.state = true → g.routine = none → (g.state = .running → g.ready ≤ s.now) → ∃ t, exec (.engHalt n) s = .next t
             ∧ t = { s with engs := t.engs } ∧ (∀ r, r ≠ p → t.engP r = s.engP r)
             ∧ (g.wait = none → t.engP p = { g with state := .halted, haltReq := false })
             ∧ (∀ k, g.wait = some (.syncw k) → t.engP p = { g with state := .halted, haltReq := false, wait := none, pc := g.pc - 1 })
             ∧ ∀ d k l b, g.wait = some (.waitc d k l b) → t.engP p =
                 { g with state := .halted, haltReq := false, wait := none, pc := g.pc - 1, listen := l, pend := b })
         ∧ (liveState g.state = true → g.state ≠ .running → ∀ r, g.routine = some r → ∃ t, exec (.engHalt n) s = .next t
             ∧ t = { s with engs := t.engs } ∧ (t.engP p).state = .halted ∧ (t.engP p).routine = none ∧ (t.engP p).g = g.g
             ∧ (t.engP p).cont = BitVec.ofNat 32 (2 ^ 31 + b2n r.visible * 2 ^ 30 + r.num % 256 * 2 ^ 16 + r.pc % 2048)
             ∧ ∀ q, q ≠ p → t.engP q = s.engP q)
         ∧ (g.state = .running → (g.routine ≠ none ∨ s.now < g.ready) → ∃ t, exec (.engHalt n) s = .next t ∧ t = { s with engs := t.engs }
             ∧ t.engP p = { g with haltReq := true } ∧ ∀ r, r ≠ p → t.engP r = s.engP r))

/-! Power, reset, BOOT and the Caller. -/

/-- GLB_RESET with its key and RESET_N reset the device, its rails coming up or not; POWER_ON, RAIL_RETRY, POWER_OFF and FLASH_RAIL_DROP do what the
rails do, the flash standing throughout, and nothing else. The end of BOOT: with a flash, a good Ghenov copy and every
crossing centred the device is in STANDBY with TT at 0, STAGE 8 and Ghenov serving from the active copy or else the other;
otherwise BOOT fails at stage 2, 3 or 6 with cause 1, 2 or 3 and the device stays in BOOT. A crossing that slips sets its SLIP bit
and the cause XING; in STANDBY, CALIBRATE, ARMED and RUN it enters SAFE, in BOOT it fails BOOT at stage 6. -/
def Obligations.PowerResetBoot : Prop :=
  ((∀ (key : Word) (ok : Bool) (s : State), s.power = true → ∃ t, exec (.glbReset key ok) s = .next t
         ∧ (if key = 0x5A5A then wasReset s t ok else t = s))
     ∧ (∀ (ok : Bool) (s : State), s.board = true → ∃ t, exec (.resetN ok) s = .next t ∧ wasReset s t ok)
     ∧ (∀ (straps : BitVec 9) (ok : Bool) (s : State), s.board = false → ∃ t, exec (.powerOn straps ok) s = .next t
         ∧ t.fld lnkIdId = straps.toNat ∧ (∀ r : Reg, r.k ≠ .lnkId → t.reg r = BitVec.ofNat 32 r.reset)
         ∧ t = { State.reset with
                 pending := s.pending, free := s.free, half := s.half, regs := t.regs, flash := { s.flash with todo := [] }, power := ok,
                 railWait := !ok })
     ∧ (∀ (ok : Bool) (s : State), s.board = true → s.railWait = true →
         exec (.railRetry ok) s = .next { s with power := ok, railWait := false })
     ∧ (∀ s : State, exec .powerOff s = .next { State.reset with
         pending := s.pending, free := s.free, half := s.half, flash := { s.flash with todo := [] }, board := false, power := false,
         flashRail := false })
     ∧ ∀ s : State, s.tripped = true → s.flashRail = true → exec .flashRailDrop s = .next { s with flashRail := false })
    ∧ ((∀ (r : BootResult) (s : State), s.power = true → s.mode = .boot → s.bootFailed = false → ∃ t, exec (.bootComplete r) s = .next t
           ∧ t.fld glbBootStatBootMs = min 65535 r.ms ∧ t.engs = s.engs ∧ t.cpls = s.cpls
           ∧ t.flash = { s.flash with region := t.flash.region }
           ∧ (FlashPart.accepted r.part = true →
               t.fld glbFlashInfoRead = (if r.part.read144 then 2 else if r.part.read114 then 1 else 0)
               ∧ t.flag glbFlashInfoAddr = !r.part.table4 ∧ t.fld glbFlashInfoRev = r.part.rev % 256)
           ∧ (FlashPart.accepted r.part = false → t.flash = s.flash ∧ t.mode = .boot ∧ t.bootFailed = true ∧ t.fld glbBootStatStage = 2 ∧ t.fld glbBootStatFail = 1
               ∧ t.fld glbCallerStatState = 4 ∧ t.sram = s.sram ∧ t.bulk = s.bulk)
           ∧ (FlashPart.accepted r.part = true → (r.imageOk = false ∨ (s.flash.good 1 false = false ∧ s.flash.good 1 true = false)) →
               t.mode = .boot ∧ t.bootFailed = true ∧ t.fld glbBootStatStage = 3 ∧ t.fld glbBootStatFail = 2
               ∧ t.fld glbCallerStatState = 4 ∧ t.rd .svcLogNext = s.rd .svcLogNext + 1)
           ∧ (FlashPart.accepted r.part = true → r.imageOk = true → (s.flash.good 1 false = true ∨ s.flash.good 1 true = true) →
               r.xingBad ≠ [] →
               t.mode = .boot ∧ t.bootFailed = true ∧ t.fld glbBootStatStage = 6 ∧ t.fld glbBootStatFail = 3
               ∧ t.fld glbCallerStatState = 2)
           ∧ (FlashPart.accepted r.part = true → r.imageOk = true → (s.flash.good 1 false = true ∨ s.flash.good 1 true = true) →
               r.xingBad = [] →
               t.mode = .standby ∧ t.bootFailed = false ∧ t.tt = 0 ∧ t.trans = none ∧ t.modeSeq = s.modeSeq + 1
               ∧ t.fld glbBootStatStage = 8 ∧ t.fld glbCallerStatState = 2 ∧ t.fld glbXingStatCdAligned = 0xF
               ∧ t.flag glbXingStatIoAligned = true ∧ t.flash.region = s.flash.replayed
               ∧ t.fld memStatInService = (if s.flag memCtrlXen = true then 0xF else groupsFound r.sweeps)
               ∧ (∀ l, l < 6 → t.linkState l = (if t.linkCfg.en.getLsbD l = false ∨ t.neighbour l = t.ownId then 7
                   else if r.signal.getLsbD l = true then 1 else 0))
               ∧ t.flag glbCallerStatGhCopy = (if s.flash.good 1 s.flash.actGh then s.flash.actGh else !s.flash.actGh)))
         ∧ (∀ (die : Fin 5) (s : State), s.power = true → s.bootFailed = false →
             (s.mode = .standby ∨ s.mode = .calibrate ∨ s.mode = .armed ∨ s.mode = .run) →
             ∃ t, exec (.crossingSlip die) s = .next t ∧ t.mode = .safe ∧ (t.rd .glbSafeCause).getLsbD 4 = true ∧ t.tt = s.tt
               ∧ t.bulk = s.bulk ∧ t.rd .svcLogNext = s.rd .svcLogNext + 1
               ∧ (die.val = 4 → t.flag glbXingStatIoSlip = true ∧ t.fld glbXingStatCdSlip = s.fld glbXingStatCdSlip)
               ∧ (die.val < 4 → (t.fld glbXingStatCdSlip).testBit die.val = true ∧ t.flag glbXingStatIoSlip = s.flag glbXingStatIoSlip))
         ∧ ∀ (die : Fin 5) (s : State), s.power = true → s.mode = .boot → s.bootFailed = false →
             ∃ t, exec (.crossingSlip die) s = .next t ∧ (t.rd .glbSafeCause).getLsbD 4 = true
               ∧ (die.val = 4 → t.flag glbXingStatIoSlip = true) ∧ (die.val < 4 → (t.fld glbXingStatCdSlip).testBit die.val = true)
               ∧ t.mode = .boot ∧ t.bootFailed = true ∧ t.fld glbBootStatStage = 6
               ∧ t.fld glbBootStatFail = 3 ∧ t.bulk = s.bulk ∧ t.engs = s.engs)

/-- A watchdog or a fault restarts the Caller from ROM: background work is cut, the restart counted and remembered. When
Ghenov is ready it serves from the copy in use, from the other copy at the third such restart or a bad copy, or the ROM
monitor stays; the commands cut complete with FAULT and CALLER_RESTART with OK. A pending journal record is appended. A
housekeeping round is counted in HKP_ROUND and shows each sensor's temperature; power stays on unless a zone passes CRIT,
which drops the rails and is recorded in HKP_TRIP. -/
def Obligations.CallerAndRounds : Prop :=
  ((∀ (i : Instr) (cause : Nat) (s : State), (i = .callerWatchdog ∧ cause = 2 ∨ i = .callerFault ∧ cause = 3) → s.ghenovRuns = true →
       ∃ t, exec i s = .next t ∧ t.bg = [] ∧ t.skew = none ∧ t.fld glbCallerStatState = 3 ∧ t.fld glbCallerStatCause = cause
         ∧ t.fld glbCallerStatRstCnt = min 255 (s.fld glbCallerStatRstCnt + 1)
         ∧ t.caller.cut = s.caller.cut ++ s.bg.map (fun b => (b.tag, b.opcode)) ++ (s.skew.map (fun k => (k.tag, 0x33))).toList
         ∧ t.caller.faults = s.caller.faults.filter (fun u => s.up < u + 60000000000) ++ [s.up]
         ∧ t = { s with regs := t.regs, sram := t.sram, caller := t.caller, skew := none, bg := t.bg })
     ∧ (∀ (otherOk : Bool) (s : State), s.power = true → s.mode ≠ .dormant → s.fld glbCallerStatState = 3 →
         ∃ t more, exec (.ghenovReady otherOk) s = .next t ∧ t.caller.cut = [] ∧ t.mode = s.mode ∧ t.trans = s.trans
           ∧ statuses t = statuses s ++ s.caller.cut.map (fun x => (x.1, x.2, Status.fault))
               ++ (s.bg.filter (fun b => b.job == .callerRestart)).map (fun b => (b.tag, b.opcode, Status.ok)) ++ more
           ∧ t.bg = s.bg.filter (fun b => b.job != .callerRestart) ∧ t.sram = s.sram ∧ t.bulk = s.bulk ∧ t.engs = s.engs
           ∧ (let used := s.flag glbCallerStatGhCopy
              let third := 2 ≤ s.fld glbCallerStatCause ∧ 3 ≤ s.caller.faults.length
              (¬third → s.flash.good 1 used = true → t.fld glbCallerStatState = 2 ∧ t.flag glbCallerStatGhCopy = used)
              ∧ ((third ∨ s.flash.good 1 used = false) → s.flash.good 1 (!used) = true → otherOk = true →
                  t.fld glbCallerStatState = 2 ∧ t.flag glbCallerStatGhCopy = !used)
              ∧ ((third ∨ s.flash.good 1 used = false) → (s.flash.good 1 (!used) = false ∨ otherOk = false) →
                  t.fld glbCallerStatState = 4)))
     ∧ ∀ (s : State) (r : JRec) (rs : List JRec), s.ghenovRuns = true → s.flashOpen = true → s.flash.todo = r :: rs →
         ∃ t, exec .journalAppend s = .next t ∧ t.flash.todo = rs ∧ t.flash.torn = false
           ∧ (s.flash.torn = false ∧ t.flash.recs = s.flash.recs ++ [r] ∧ t.flash.region = s.flash.region
             ∨ t.flash.recs = s.journalNow ∧ t.flash.region = !s.flash.region)
           ∧ (rs = [] → t.flag glbPersistPend = false)
           ∧ t = { s with regs := t.regs, flash := t.flash, free := t.free } ∧ regsKept s t [⟨.glbPersist, 0, 0⟩])
    ∧ (∀ (sensors : List SensorReading) (monitors : List Int) (s : State), s.power = true →
         ∃ t, exec (.housekeepingRound sensors monitors) s = .next t ∧ t.rd .hkpRound = s.rd .hkpRound + 1 ∧ t.bulk = s.bulk
           ∧ (∀ c x, c < 28 → sensors[c]? = some x → t.fld (hkpSensTemp c) = twos 16 x.temp)
           ∧ (t.power = true ∧ t.tripped = s.tripped ∨ t.power = false ∧ t.tripped = true ∧ t.flag hkpTripValid = true))


/-! Time. -/

/-- EPOCH_ARM arms capture in STANDBY and CALIBRATE while locked. A SYNC edge loads TT when capture is armed, and is latched and
counted otherwise. SNAP_TAKE copies TT and the WT stamp. LOAD_WT loads WT at the next tick where a step is permitted, the offsets of
the domains with a source moving with it, and is refused elsewhere; the loaded fraction is 0 and CLK_WT_SET_NS is taken as it stands
(the model's choices, log entry 127). -/
def Obligations.EpochsAndSnapshots : Prop :=
  (∀ s : State, ∃ t, exec .epochArm s = .next t ∧
      (if s.stbyCal = true ∧ s.flag clkRefStatLocked = true then
        fieldsOnly s t [clkEpochArm, clkEpochIgnCnt] ∧ t.flag clkEpochArm = true ∧ t.fld clkEpochIgnCnt = 0
      else t = s))
    ∧ (∀ s : State, s.pllOn = true → s.flag clkRefStatLocked = true → (s.advanceTo (s.now + 10)).flag clkEpochArm = true →
        let u := s.advanceTo (s.now + 10)
        ∃ t, exec .syncEdge s = .next t ∧ t.tt = BitVec.ofNat 64 (u.rd64 .clkTtLoadLo .clkTtLoadHi) ∧ t.up = u.up
          ∧ t.flag clkEpochArm = false ∧ t.flag clkEpochAcq = true ∧ t.flag clkEpochSkewDone = false
          ∧ t.flag clkEpochPhaseErr = false ∧ t.wtSec = u.wtSec ∧ t.wtNs = u.wtNs ∧ t.mode = s.mode ∧ t.sram = s.sram
          ∧ t.bulk = s.bulk ∧ t.engs = u.engs ∧ ∀ r : Reg, r.k ≠ .clkEpoch → t.reg r = u.reg r)
    ∧ (∀ s : State, s.pllOn = true → s.flag clkRefStatLocked = true → (s.advanceTo (s.now + 10)).flag clkEpochArm = false →
        let u := s.advanceTo (s.now + 10)
        ∃ t, exec .syncEdge s = .next t ∧ t.rd64 .svcSyncTtLo .svcSyncTtHi = u.now
          ∧ t.fld clkEpochIgnCnt = min 255 (u.fld clkEpochIgnCnt + 1)
          ∧ fieldsOnly u t [clkEpochIgnCnt, ⟨⟨.svcSyncTtLo, 0, 0⟩, 31, 0⟩, ⟨⟨.svcSyncTtHi, 0, 0⟩, 31, 0⟩])
    ∧ (∀ s : State, s.power = true → ∃ t, exec .snapTake s = .next t ∧ t = { s with regs := t.regs }
        ∧ t.rd .clkSnapTt 0 = BitVec.ofNat 32 s.now ∧ t.rd .clkSnapTt 1 = BitVec.ofNat 32 (s.now / 2 ^ 32)
        ∧ (∀ i, i < 4 → t.rd .clkSnapWt i = s.wtStamp.getD i 0)
        ∧ ∀ r : Reg, r.k ≠ .clkSnapTt → r.k ≠ .clkSnapWt → t.reg r = s.reg r)
    ∧ ∀ s : State, s.power = true → s.mode ≠ .boot → ∃ t, exec .loadWt s = .next t ∧
        (if s.stepOk = true then
          let u := s.advanceTo (s.now + 1)
          t = { u with wtSec := s.rd64 .clkWtSetSecLo .clkWtSetSecHi % 2 ^ 48, wtNs := s.rdn .clkWtSetNs, wtFrac := 0,
                       wtLog := t.wtLog, regs := t.regs, domA := t.domA, domB := t.domB }
            ∧ (∀ r : Reg, r.k ≠ .clkDomStat → t.reg r = u.reg r)
            ∧ ∀ b, (t.dom b).offset = (u.dom b).offset + (if u.domSrc b = 0 then 0 else
                ((t.wtSec * 1000000000 + t.wtNs : Nat) : Int) - (u.wtSec * 1000000000 + u.wtNs : Nat))
        else fieldsOnly s t [clkTimeCtrlStepRefused] ∧ t.flag clkTimeCtrlStepRefused = true)

/-- A measurement within 10 ppm of 100 MHz counts towards validity after 10 in a row, and relocks a device in holdover, with the check
of the epoch phase: TT = V (mod 10) within half a tick; another one, or REF_LOSS, invalidates the reference. Losing the active
reference switches to the other one in an automatic mode when that is valid, and begins holdover when it is not. A return to PREF and a
change of REF_MODE switch likewise; drift that reaches 1 ps in holdover clears ACQ and enters SAFE. A relock to another reference than
the last counts as a switch (the model's reading, log entry 126). -/
def Obligations.References : Prop :=
  (∀ (b : Bool) (s : State), s.power = true → s.pllOn = true → s.flag clkRefStatLocked = true → s.flag clkRefStatActive = b →
      ∃ t, exec (.refLoss b) s = .next t ∧ t.refValid b = false ∧ t.refValid (!b) = s.refValid (!b) ∧ t.refCnt b = 0
        ∧ (s.fld clkRefCtrlRefMode < 2 → s.refValid (!b) = true → t.flag clkRefStatActive = !b ∧ t.flag clkRefStatLocked = true
            ∧ t.flag clkRefStatSwitchSeen = true ∧ t.flag clkRefStatHoldover = s.flag clkRefStatHoldover
            ∧ t.due = s.due ++ [⟨s.now + 1, 936⟩])
        ∧ (s.refValid (!b) = false → s.flag clkRefStatFreeRun = false → t.flag clkRefStatLocked = false
            ∧ t.flag clkRefStatHoldover = true ∧ t.holdUs = 0 ∧ t.holdAt = s.up ∧ t.flag clkRefStatActive = b
            ∧ t.due = s.due ++ [⟨s.now + 1, 936⟩])
        ∧ t = { s with regs := t.regs, refCntA := t.refCntA, refCntB := t.refCntB, holdUs := t.holdUs, holdAt := t.holdAt, due := t.due }
        ∧ regsKept s t [⟨.clkRefStat, 0, 0⟩])
    ∧ (∀ (b : Bool) (s : State), s.power = true →
        (s.pllOn = false ∨ s.flag clkRefStatLocked = false ∨ s.flag clkRefStatActive = !b) →
        ∃ t, exec (.refLoss b) s = .next t ∧ t.refValid b = false ∧ t.refCnt b = 0
          ∧ t = { s with regs := t.regs, refCntA := t.refCntA, refCntB := t.refCntB }
          ∧ bitsKept s t [if b then clkRefStatRefbValid else clkRefStatRefaValid])
    ∧ (∀ (b : Bool) (s : State), let u := s.elapseTo (tabGet s.refAt (b2n b) 0 + 1000000)
        s.measured b = { u with refAt := tabPut u.refAt (b2n b) u.up })
    ∧ (∀ (b : Bool) (hz : Nat) (edge : Fin 2560) (s : State), (hz < 99999000 ∨ 100001000 < hz) → s.power = true →
        (s.measured b).power = true ∧ exec (.refMeasure b hz edge) s = exec (.refLoss b) (s.measured b))
    ∧ (∀ (b : Bool) (hz : Nat) (edge : Fin 2560) (s0 s : State), s = s0.measured b → 99999000 ≤ hz → hz ≤ 100001000 →
        s0.power = true → (s.pllOn = false ∨ s.flag clkRefStatLocked = true) →
        ∃ t, exec (.refMeasure b hz edge) s0 = .next t ∧ t.refCnt b = min 10010 (s.refCnt b + 1)
          ∧ t.refValid b = (s.refValid b || decide (10 ≤ s.refCnt b + 1))
          ∧ t = { s with regs := t.regs, refCntA := t.refCntA, refCntB := t.refCntB } ∧ t.refCnt (!b) = s.refCnt (!b)
          ∧ bitsKept s t [if b then clkRefStatRefbValid else clkRefStatRefaValid])
    ∧ (∀ (b act ok : Bool) (hz : Nat) (edge : Fin 2560) (s0 s : State) (d : Nat), s = s0.measured b → 99999000 ≤ hz → hz ≤ 100001000 →
        s0.power = true → s.pllOn = true →
        s.flag clkRefStatLocked = false → s.fld clkRefCtrlRefMode < 2 → 10 ≤ s.refCnt b + 1 →
        d = (edge.val + 2560 - 256 * (s.epochV % 10)) % 2560 → ok = decide (d ≤ 128 ∨ 2432 ≤ d) →
        act = (if s.flag clkRefStatActive = b ∨ s.refValid (s.flag clkRefStatActive) = true then s.flag clkRefStatActive else b) →
        ∃ t, exec (.refMeasure b hz edge) s0 = .next t ∧ t.flag clkRefStatLocked = true ∧ t.flag clkRefStatActive = act
          ∧ t.flag clkRefStatHoldover = false ∧ t.flag clkRefStatFreeRun = false ∧ t.fld clkHoldDriftEst = 0 ∧ t.holdUs = 0
          ∧ t.flag clkEpochPhaseErr = ((s.flag clkRefStatHoldover && !ok) || s.flag clkEpochPhaseErr)
          ∧ t.flag clkEpochAcq = (!(s.flag clkRefStatHoldover && !ok) && s.flag clkEpochAcq)
          ∧ (s.flag clkRefStatFreeRun = false → s.flag clkRefStatActive ≠ act →
              t.flag clkRefStatSwitchSeen = true ∧ t.due = s.due ++ [⟨s.now + 1, 936⟩])
          ∧ ((s.flag clkRefStatFreeRun = true ∨ s.flag clkRefStatActive = act) → t.due = s.due)
          ∧ t = { s with regs := t.regs, refCntA := t.refCntA, refCntB := t.refCntB, holdUs := 0, due := t.due })
    ∧ (∀ s : State, s.pllOn = true → s.flag clkRefStatLocked = true → s.fld clkRefCtrlRefMode = 1 →
        s.refValid (s.flag clkRefCtrlPref) = true → 10010 ≤ s.refCnt (s.flag clkRefCtrlPref) →
        s.flag clkRefStatActive ≠ s.flag clkRefCtrlPref →
        ∃ t, exec .refRevert s = .next t ∧ t.flag clkRefStatActive = s.flag clkRefCtrlPref ∧ t.flag clkRefStatSwitchSeen = true
          ∧ t = { s with regs := t.regs, due := s.due ++ [⟨s.now + 1, 936⟩] }
          ∧ bitsKept s t [clkRefStatActive, clkRefStatSwitchSeen, clkRefStatSwitchCnt])
    ∧ (∀ (mode : BitVec 2) (edge : Fin 2560) (s : State), s.power = true → ∃ t, exec (.refModeWrite mode edge) s = .next t
        ∧ t.fld clkRefCtrlRefMode = mode.toNat ∧ t.flag clkRefCtrlPref = s.flag clkRefCtrlPref
        ∧ (s.pllOn = false → fieldsOnly s t [clkRefCtrlRefMode])
        ∧ (s.pllOn = true → s.flag clkRefStatLocked = true → (mode = 2 ∨ mode = 3) →
            (s.refValid (decide (mode = 3)) = true → t.flag clkRefStatActive = decide (mode = 3) ∧ t.flag clkRefStatLocked = true)
            ∧ (s.refValid (decide (mode = 3)) = false → s.flag clkRefStatFreeRun = false →
                t.flag clkRefStatLocked = false ∧ t.flag clkRefStatHoldover = true))
        ∧ t = { s with regs := t.regs, due := t.due, holdUs := t.holdUs, holdAt := t.holdAt })
    ∧ ∀ (s : State) (k est : Nat), s.pllOn = true → s.flag clkRefStatHoldover = true → s.fldIn clkTimeCtrlXen s.now = 0 →
        k = max (s.holdUs + 1) ((s.up - s.holdAt) / 1000) → est = min 0xFFFF (1000 * k * 64 / 1000000) →
        ∃ t u, u = s.elapseTo (s.holdAt + 1000 * k) ∧ exec .holdoverUpdate s = .next t ∧ t.holdUs = k ∧ t.fld clkHoldDriftEst = est
          ∧ ((64 ≤ s.fld clkHoldDriftEst ∨ est < 64) →
              t = { u with regs := t.regs, holdUs := t.holdUs } ∧ bitsKept u t [clkHoldDriftEst])
          ∧ (s.fld clkHoldDriftEst < 64 → 64 ≤ est → t.flag clkRefStatHoldExceeded = true ∧ t.flag clkEpochAcq = false
              ∧ (t.rd .glbSafeCause).getLsbD 5 = true
              ∧ ((s.mode = .standby ∨ s.mode = .calibrate ∨ s.mode = .armed ∨ s.mode = .run) → t.mode = .safe))

/-- A millisecond after the last one the servo moves ADJ towards what the selected domain's offset and frequency ask for (a free value,
log entry 125), by at most SLEW × 4,295 millionths of a unit, and steps WT by an offset above 1 ms where a step is permitted. A PTP
Announce that suits a domain is heard; a Sync and a Delay_Resp of its best master bring the offset and the mean delay; a GET of the
default data set is answered; an unsupported feature is counted. A lost source clears LOCKED. A root queues a TIME frame on every link
that is UP, once in 2^20 ticks. A trim in CALIBRATE takes effect in the next tick. -/
def Obligations.WallTimeAndTrim : Prop :=
  (∀ (s u : State) (d : Dom) (cur lim : Int), s.ghenovRuns = true → s.flag clkTimeCtrlServo = true →
      s.domSrc (s.flag clkTimeCtrlSel) ≠ 0 → (s.dom (s.flag clkTimeCtrlSel)).present = true →
      u = (match s.servoAt with | some k => s.elapseTo (k + 1000000) | none => s) → 0 ≤ u.servoFrac → u.servoFrac < 1000000 →
      d = u.dom (u.flag clkTimeCtrlSel) → cur = u.adj * 1000000 + u.servoFrac → lim = max 1 (u.fld clkTimeCtrlSlew) * 4295 →
      ∃ t, exec .servoUpdate s = .next t
        ∧ (t.rd .clkWtAdj).toInt * 1000000 + t.servoFrac
            = cur + clampInt (-lim) lim (clampInt (-524288) 524288 (Config.servoTarget d.offset d.freq) * 1000000 - cur)
        ∧ 0 ≤ t.servoFrac ∧ t.servoFrac < 1000000 ∧ t.servoAt = some u.up
        ∧ t.flag (clkDomStatLocked (b2n (u.flag clkTimeCtrlSel))) = Config.servoConverged d.offset d.freq
        ∧ (u.selOffset.natAbs ≤ 1000000 →
              t = { u with regs := t.regs, wtLog := t.wtLog, servoFrac := t.servoFrac, servoAt := t.servoAt }
            ∧ bitsKept u t [clkDomStatLocked (b2n (u.flag clkTimeCtrlSel)), ⟨⟨.clkWtAdj, 0, 0⟩, 31, 0⟩])
        ∧ (1000000 < u.selOffset.natAbs → u.stepOk = false → t.flag clkTimeCtrlStepRefused = true ∧ t.wtSec = u.wtSec
            ∧ t.wtNs = u.wtNs ∧ t.selOffset = u.selOffset)
        ∧ ∀ n : Nat, (n : Int) = (u.wtSec * 1000000000 + u.wtNs : Nat) - u.selOffset → n < 2 ^ 48 * 1000000000 → u.stepOk = true →
            t.selOffset = 0 ∧ t.wtFrac = u.wtFrac ∧ t.wtSec * 1000000000 + t.wtNs = n ∧ t.wtNs < 1000000000)
    ∧ (∀ (m : PtpMsg) (s : State), s.alive = true → s.mode ≠ .boot → s.ghenovRuns = true → s.flag ethCtrlEn = true →
        ((m.body = .unsupported ∨ m.body = .managementGet false) → ∃ t, exec (.ptpMessage m) s = .next t
          ∧ t.rdn .ethPtpDisc = min (2 ^ 32 - 1) (s.rdn .ethPtpDisc + 1) ∧ t = { s with regs := t.regs } ∧ regsKept s t [⟨.ethPtpDisc, 0, 0⟩])
        ∧ (m.body = .managementGet true → exec (.ptpMessage m) s = .next (if s.ptpSuits false m ∨ s.ptpSuits true m then
            { s with ptpReply := some m.domain } else s))
        ∧ (m.body ≠ .unsupported → (∀ b, m.body ≠ .managementGet b) → ∃ t, exec (.ptpMessage m) s = .next t
          ∧ t = { s with regs := t.regs, domA := t.domA, domB := t.domB, free := t.free }
          ∧ (∀ r : Reg, r.k ≠ .clkDomStat → t.reg r = s.reg r)
          ∧ (∀ b, s.ptpSuits b m = false → t.dom b = s.dom b)
          ∧ (∀ b x, s.ptpSuits b m = true → m.body = .announce x → t.dom b = (s.dom b).hear x)
          ∧ (∀ b x seq t1 corr dl here, s.ptpSuits b m = true → bestMaster (s.dom b).masters = some x → x.sender = m.sender →
              here = s.wtFine + 256 * (m.fine.toNat : Int) → (s.dom b).delay = some dl →
              (m.body = .sync seq false t1 corr → (t.dom b).last = some (t1 + corr, here)
                ∧ (t.dom b).offset = (here - (t1 + corr) - dl) / 2 ^ 16
                ∧ t.flag (clkDomStatFar (b2n b)) = decide (1000000 < ((here - (t1 + corr) - dl) / 2 ^ 16).natAbs))
              ∧ (m.body = .sync seq true t1 corr → t.dom b = { s.dom b with await := some (seq, here, corr) }))
          ∧ ∀ b x t1 t2 t3 t4 corr, s.ptpSuits b m = true → bestMaster (s.dom b).masters = some x → x.sender = m.sender →
              s.flag (if b then clkPtpCfgDelayB else clkPtpCfgDelayA) = false → (s.dom b).last = some (t1, t2) → (s.dom b).req = some t3 →
              m.body = .delayResp t4 corr → (t.dom b).delay = some (((t2 - t1) + (t4 - corr - t3)) / 2) ∧ (t.dom b).req = none))
    ∧ (∀ (b : Bool) (s : State), s.power = true → ∃ t, exec (.domainSourceLost b) s = .next t
        ∧ t = { s with regs := t.regs, domA := t.domA, domB := t.domB } ∧ bitsKept s t [clkDomStatLocked (b2n b)]
        ∧ t.flag (clkDomStatLocked (b2n b)) = false ∧ (t.dom b).present = false ∧ (t.dom b).masters = []
        ∧ (t.dom b).offset = (s.dom b).offset ∧ (t.dom b).freq = (s.dom b).freq ∧ t.dom (!b) = s.dom (!b))
    ∧ (∀ (b : Bool) (s u : State), s.pllOn = true → s.ghenovRuns = true → s.flag (if b then clkTimeCtrlRootB else clkTimeCtrlRootA) = true →
        u = (if s.now % 2 ^ 20 = 0 ∧ (s.dom b).sent ≠ s.now / 2 ^ 20 + 1 then s else s.advanceTo ((s.now / 2 ^ 20 + 1) * 2 ^ 20)) →
        ∃ t h, exec (.timeFrameSend b) s = .next t
          ∧ t = { u with regs := t.regs, links := t.links, domA := t.domA, domB := t.domB }
          ∧ t.dom b = { u.dom b with sent := u.now / 2 ^ 20 + 1 } ∧ t.dom (!b) = u.dom (!b)
          ∧ (∀ l, l < 6 → s.linkState l = 4 → hasRoom s l 4 3 → (t.link l).out = (s.link l).out ++ [.time h [0, 0] none])
          ∧ flit h 127 124 = 4 ∧ flit h 123 115 = s.ownId ∧ flit h 105 101 = 0 ∧ flit h 100 96 = 1 ∧ flit h 87 87 = b2n b
          ∧ (∀ l, s.linkState l ≠ 4 → t.link l = s.link l) ∧ ∀ r : Reg, r.k ≠ .lnkCntDrop → t.reg r = u.reg r)
    ∧ (∀ (x : TrimField) (s : State), s.power = true → ∃ t, exec (.trimWrite x) s = .next t
        ∧ (∀ v, x = .ovr v → t.fld clkSkewTrimOvr = v.toNat) ∧ (∀ v, x = .xen v → t.flag clkTimeCtrlXen = v)
        ∧ (s.mode ≠ .calibrate → t = { s with regs := t.regs, wrOld := t.wrOld, wrTick := some s.now }
            ∧ bitsKept s t [match x with | .ovr _ => clkSkewTrimOvr | .xen _ => clkTimeCtrlXen])
        ∧ (s.mode = .calibrate → t.fld clkSkewTrimEff = t.trimSel ∧ t.now = (s.advanceTo (s.now + 1)).now
            ∧ (t.fld clkSkewTrimEff ≠ s.fld clkSkewTrimEff → t.resettling = true ∧ ∀ u, (t.acq u).rcd = none)))
    ∧ ∀ s : State, s.resettling = true → ∃ t, exec .trimResettleDone s = .next t ∧ t = { s with resettling := false, acqs := t.acqs }
        ∧ (∀ u, (s.acq u).state = .fill ∨ (s.acq u).state = .rearm ∨ (s.acq u).state = .noSpace →
            (t.acq u).state = (if s.acqHasRoom u then .fill else .noSpace) ∧ (t.acq u).fillAt = s.now)
        ∧ ∀ u, (s.acq u).state ≠ .fill → (s.acq u).state ≠ .rearm → (s.acq u).state ≠ .noSpace → t.acq u = s.acq u

/-! Outputs, segments, rings and demodulation. -/

/-- Where the block is alive: a mute sets its bit alone, the words before it kept for the rest of the tick; the release of a cue's
mute and attenuation change their fields alone, and in RUN an attenuation waits. A flux fault of an output that is on, at limit
since a sample that no fault has yet been raised for, is registered with the sixteenth sample, as OPEN or COMPLIANCE by the
commanded code and the delivered current, shown, logged and signalled on channel 907 four ticks later, and parks the output or
enters SAFE as FACT says; a queue error of an output that is on parks it where no ramp runs. A ramp's end clears RAMPING and
switches the converter off where a transition asked for that. Clearing SHOT_INVAL leaves every ME invalid. Every channel of an
input that is on gets a demodulated sample from the converter's codes: overranges and clamps are counted and shown, the sample is
kept for acquisition, and one that the single window of an idle datapath waits for is in its buffer; the filter's taps, which the
spec leaves open, are free. -/
def Obligations.OutputEvents : Prop :=
  (∀ (o : Fin 80) (v : Bool) (s : State), s.alive = true →
      ∃ t, exec (.mute o v) s = .next t ∧ t = { s with regs := t.regs, wrOld := t.wrOld, wrTick := some s.now }
        ∧ bitsKept s t [rfoCtrlMute o] ∧ t.flag (rfoCtrlMute o) = v
        ∧ (s.wrTick ≠ some s.now → t.wrOld = s.regs) ∧ (s.wrTick = some s.now → t.wrOld = s.wrOld))
    ∧ (∀ (o : Fin 80) (s : State), s.alive = true →
        ∃ t, exec (.cueMutedRelease o) s = .next t ∧ fieldsOnly s t [rfoStatCueMuted o] ∧ t.flag (rfoStatCueMuted o) = false)
    ∧ (∀ (o : Fin 80) (v : BitVec 6) (s : State), s.alive = true → s.mode ≠ .boot →
        ∃ t, exec (.attWrite o v) s = .next t ∧ t.fld (rfoAttAtt o) = v.toNat
          ∧ (s.mode = .run → fieldsOnly s t [rfoAttAtt o, rfoStatAttPend o] ∧ t.flag (rfoStatAttPend o) = true)
          ∧ (s.mode ≠ .run → fieldsOnly s t [rfoAttAtt o, rfoAttAttEff o] ∧ t.fld (rfoAttAttEff o) = v.toNat))
    ∧ (∀ (i : Fin 256) (since delivered : Nat) (s : State), s.alive = true → s.flag (flxStatOn i) = true →
        (s.flx i).limit ≠ some since →
        let u := s.advanceTo ((since + 15) / 2)
        let v := u.setFlx i { u.flx i with limit := some since }
        let opened := faultOpen ((v.settle (v.now + 1)).flx i).code delivered
        ∃ t, exec (.fluxFault i since delivered) s = .next t ∧ t.flag (if opened then flxStatOpen i else flxStatCompl i) = true
          ∧ t.rd .svcLogNext = u.rd .svcLogNext + 1 ∧ ⟨u.now + 4, 907⟩ ∈ t.due ∧ t.bulk = u.bulk
          ∧ (u.fld (flxCtrlFact i) ≠ 2 → t.mode = u.mode ∧ t.due = u.due ++ [⟨u.now + 4, 907⟩] ∧ t.slots = u.slots
              ∧ t.engs = u.engs ∧ ∀ j, j ≠ i.val → t.flx j = u.flx j)
          ∧ (u.fld (flxCtrlFact i) ≠ 1 → u.fld (flxCtrlFact i) ≠ 2 → t.flux = v.flux)
          ∧ (u.fld (flxCtrlFact i) = 1 → t.flag (flxStatParked i) = true ∧ t.flag (flxStatRamping i) = true
              ∧ (u.flag (flxStatRamping i) = false → (t.flx i).play = none ∧ (t.flx i).limit = some since ∧ (t.flx i).ramp
                  = some ⟨u.now, (u.flx i).code, sext 18 (u.fld (flxParkPark i)), u.fld (flxSlewSlew i), false⟩))
          ∧ (u.fld (flxCtrlFact i) = 2 → (t.rd .glbSafeCause).getLsbD 3 = true
              ∧ ((u.mode = .standby ∨ u.mode = .calibrate ∨ u.mode = .armed ∨ u.mode = .run) → t.mode = .safe)))
    ∧ (∀ (i : Fin 256) (s : State), s.alive = true → s.flag (flxStatOn i) = true →
        ∃ t, exec (.queueError i) s = .next t ∧ t.flag (flxStatQerr i) = true ∧ t.rd .svcLogNext = s.rd .svcLogNext + 1
          ∧ t = { s with regs := t.regs, sram := t.sram, rr16 := t.rr16, flux := t.flux } ∧ (∀ j, j ≠ i.val → t.flx j = s.flx j)
          ∧ (s.flag (flxStatRamping i) = true → t.flux = s.flux)
          ∧ (s.flag (flxStatRamping i) = false → t.flag (flxStatParked i) = true ∧ t.flag (flxStatRamping i) = true
              ∧ (t.flx i).play = none ∧ (t.flx i).ramp
                  = some ⟨s.now, (s.flx i).code, sext 18 (s.fld (flxParkPark i)), s.fld (flxSlewSlew i), false⟩))
    ∧ (∀ (i : Fin 256) (r : Ramp) (s : State), s.alive = true → s.flag (flxStatRamping i) = true → (s.flx i).ramp = some r →
        let u := s.advanceTo (rampEnds r)
        ∃ t, exec (.rampEnd i) s = .next t ∧ t.flag (flxStatRamping i) = false ∧ t = { u with regs := t.regs, flux := t.flux }
          ∧ bitsKept u t [flxStatRamping i, flxStatOn i, flxStatAligned i]
          ∧ (r.off = true → t.flag (flxStatOn i) = false ∧ (t.flx i).p = 0 ∧ (t.flx i).code = 0)
          ∧ (r.off = false → t.flux = u.flux ∧ t.flag (flxStatOn i) = u.flag (flxStatOn i)))
    ∧ (∀ s : State, s.power = true → s.flag glbStreamStatShotInval = true →
        ∃ t, exec .shotInvalClear s = .next t ∧ t.flag glbStreamStatShotInval = false ∧ t = { s with regs := t.regs, engs := t.engs }
          ∧ bitsKept s t [glbStreamStatShotInval] ∧ (∀ q, q < 256 → (t.eng (768 + q)).me.inv = true)
          ∧ ∀ p, t.engP p = { s.engP p with me := { (s.engP p).me with inv := (t.engP p).me.inv } })
    ∧ ∀ (i : Fin 16) (m : Nat) (codes : List (BitVec 12)) (s : State), s.alive = true → s.flag (rfiStatOn i) = true →
        let u := s.advanceTo (2 * m + 28)
        let ovr := overrange codes
        let raw := fun c => u.demodOf i c m codes
        let clip := fun c => clampsS 16 (raw c).1 || clampsS 16 (raw c).2
        let set : DemodSet := ⟨m, (List.range 16).map (fun c => (satS 16 (raw c).1, satS 16 (raw c).2)),
          (List.range 16).map (fun c => clip c || ovr != 0)⟩
        ∃ t, exec (.demodSample i m codes) s = .next t
          ∧ t = { u with regs := t.regs, engs := t.engs, sram := t.sram, due := t.due, upsets := t.upsets, streams := t.streams }
          ∧ (ovr ≠ 0 → t.flag (rfiStatAdcOvr i) = true ∧ t.rdn .rfiOvrCnt i = min (2 ^ 32 - 1) (u.rdn .rfiOvrCnt i + ovr))
          ∧ (ovr = 0 → t.rd .rfiOvrCnt i = u.rd .rfiOvrCnt i ∧ t.rd .rfiStat i = u.rd .rfiStat i)
          ∧ (∀ c, c < 16 → (t.fld (rfiDsatDsat i)).testBit c = ((u.fld (rfiDsatDsat i)).testBit c || clip c))
          ∧ bitsKept u t [rfiStatAdcOvr i, ⟨⟨.rfiOvrCnt, i, 0⟩, 31, 0⟩, rfiDsatDsat i, ⟨⟨.svcEngEcc, 0, 0⟩, 31, 0⟩]
          ∧ tabGet t.streams i [] = (set :: tabGet u.streams i []).take 512
          ∧ ∀ (c : Fin 16) (w : MeWin), let e := 768 + 16 * i.val + c.val
              (u.eng e).me.run = none → (u.eng e).me.caps = [] → (u.eng e).me.wins = [w] → w.skipped = false → w.cap = false →
              w.m0 + w.arrived = m → w.arrived < w.len → (u.eng e).me.buf.length < 4096 →
              (t.eng e).me.buf = (u.eng e).me.buf
                  ++ [⟨w.id, satS 16 (raw c).1, satS 16 (raw c).2, clip c || ovr != 0, 2 * m + 28⟩]
                ∧ (t.eng e).me.wins = [{ w with arrived := w.arrived + 1 }]

/-- A write of a descriptor stores its words, VALID cleared and DESC_BAD set where a valid one is not well formed, unless its
segment is active: then it is dropped and counted. Words written to a library are stored where nothing active or streaming
holds their granules, and dropped and counted where it does. An OPEN of a closed ring that no reason refuses opens it empty and
counts it, and one that is refused shows the model's reason (where several hold, log 140); an OPEN of an open ring is refused in a
mode that takes none, and changes nothing elsewhere (log 140). CLOSE closes an open ring in the modes that take it. A refill of
an open ring that runs, whose next slot is free, brings the next granule of the ring's source into that slot, or none where the
source cannot be read. -/
def Obligations.SegmentsAndRings : Prop :=
  ((∀ (o : OutId) (d : BitVec 11) (w0 w1 : Option Word) (s : State), s.alive = true → (w0 ≠ none ∨ w1 ≠ none) →
       let k := OutId.owner o
       let x0 := w0.getD (s.desc0 k d.toNat)
       let x1 := w1.getD (s.desc1 k d.toNat)
       ∃ t, exec (.descriptorWrite o d w0 w1) s = .next t
         ∧ (s.gateDesc k d.toNat = true → t = { s with regs := t.regs } ∧ t.flag (wdrop k) = true
             ∧ (k < 80 → t.rdn .rfoSegWdropCnt k = min (2 ^ 32 - 1) (s.rdn .rfoSegWdropCnt k + 1))
             ∧ (80 ≤ k → t.rdn .flxSegWdropCnt (k - 80) = min (2 ^ 32 - 1) (s.rdn .flxSegWdropCnt (k - 80) + 1)))
         ∧ (s.gateDesc k d.toNat = false → t = { s with regs := t.regs, sram := t.sram, gate := t.gate }
             ∧ sramKept s t (descAddr k d.toNat) 8 ∧ t.desc1 k d.toNat = x1
             ∧ (dValid x0 = true → descOk k x0 x1 = false →
                 t.desc0 k d.toNat = x0 &&& 0x7FFFFFFF ∧ t.flag (descBad k) = true ∧ bitsKept s t [descBad k])
             ∧ ((dValid x0 = false ∨ descOk k x0 x1 = true) → t.desc0 k d.toNat = x0 ∧ t.regs = s.regs)))
     ∧ (∀ (off : BitVec 29) (w : Word) (s : State) (o g : Nat), s.alive = true → off.toNat % 4 = 0 → granOf off.toNat = some (o, g) →
         ∃ t, exec (.libraryWrite off [w]) s = .next t
           ∧ (s.gateGran o g 1 = true → t = { s with regs := t.regs } ∧ t.flag (wdrop o) = true)
           ∧ (s.gateGran o g 1 = false → t = { s with sram := t.sram, gate := t.gate } ∧ memWord t.sram off.toNat = w
               ∧ sramKept s t off.toNat 4))
     ∧ ∀ (off : BitVec 29) (ws : List Word) (s : State), s.alive = true → off.toNat % 4 = 0 → (∀ o, s.activeOf o = []) →
         (∀ i, i < ws.length → ∃ o g, granOf (off.toNat + 4 * i) = some (o, g) ∧ s.gateGran o g 1 = false) →
         ∃ t, exec (.libraryWrite off ws) s = .next t ∧ memWords t.sram off.toNat ws.length = ws
           ∧ sramKept s t off.toNat (4 * ws.length) ∧ t = { s with sram := t.sram, gate := t.gate })
    ∧ ((∀ (o : Fin 80) (r : Fin 4) (s : State), s.alive = true → s.flag (rfoRingStatOpen o r) = false →
           ∃ t, exec (.ringOpen o r) s = .next t
             ∧ (∀ why, s.openRefused o r = some why → fieldsOnly s t [rfoRingStatRefused o r, rfoRingStatReason o r]
                 ∧ t.flag (rfoRingStatRefused o r) = true ∧ t.fld (rfoRingStatReason o r) = why)
             ∧ (s.openRefused o r = none → t = { s with regs := t.regs, rings := t.rings } ∧ t.ring o r = {}
                 ∧ t.flag (rfoRingStatOpen o r) = true ∧ t.flag (rfoRingStatPrimed o r) = false
                 ∧ t.fld glbStreamStatOpenCnt = s.fld glbStreamStatOpenCnt + 1
                 ∧ (∀ x y, ringKey x y ≠ ringKey o r → t.ring x y = s.ring x y)
                 ∧ bitsKept s t [rfoRingStatOpen o r, rfoRingStatPrimed o r, glbStreamStatOpenCnt, glbStreamStatLimit,
                     glbStreamStatOversub]))
         ∧ (∀ (o : Fin 80) (r : Fin 4) (s : State), s.alive = true → s.flag (rfoRingStatOpen o r) = true →
             ∃ t, exec (.ringOpen o r) s = .next t
               ∧ ((s.mode = .standby ∨ s.mode = .calibrate ∨ s.mode = .armed) → t = s)
               ∧ (¬ (s.mode = .standby ∨ s.mode = .calibrate ∨ s.mode = .armed) →
                   fieldsOnly s t [rfoRingStatRefused o r, rfoRingStatReason o r]
                     ∧ t.flag (rfoRingStatRefused o r) = true ∧ t.fld (rfoRingStatReason o r) = 5))
         ∧ (∀ (o : Fin 80) (r : Fin 4) (s : State), s.power = true → s.mode ≠ .boot → s.mode ≠ .dormant → s.mode ≠ .run →
             s.flag (rfoRingStatOpen o r) = true → ∃ t, exec (.ringClose o r) s = .next t
               ∧ t = { s with regs := t.regs, rings := t.rings } ∧ t.ring o r = {} ∧ t.flag (rfoRingStatOpen o r) = false
               ∧ t.flag (rfoRingStatPrimed o r) = false ∧ t.fld glbStreamStatOpenCnt = s.fld glbStreamStatOpenCnt - 1
               ∧ (∀ x y, ringKey x y ≠ ringKey o r → t.ring x y = s.ring x y)
               ∧ bitsKept s t [rfoRingStatOpen o r, rfoRingStatPrimed o r, glbStreamStatOpenCnt, glbStreamStatLimit,
                   glbStreamStatOversub])
         ∧ ∀ (o : Fin 80) (r : Fin 4) (s : State), s.alive = true → s.mode ≠ .safe → s.flag (rfoRingStatOpen o r) = true →
             (s.ring o r).stopped = false →
             let g := s.ring o r
             let len := s.fld (rfoRingCfgRlen o r)
             let src := s.rd64 .rfoRingSrcLo .rfoRingSrcHi o r % 2 ^ 36 + 64 * (g.next % max 1 (s.fld (rfoRingSrcLenLen o r)))
             let dst := libAddr o + 64 * (s.fld (rfoRingCfgRbase o r) + g.next % len)
             (∀ x ∈ g.present, x % len ≠ g.next % len) →
             ∃ t, exec (.ringRefill o r) s = .next t ∧ t = { s with regs := t.regs, sram := t.sram, rings := t.rings }
               ∧ (s.bulkUsable src 64 = true → s.notPoisoned src 64 = true → memWords t.sram dst 16 = s.bulkWords src 16
                   ∧ sramKept s t dst 64 ∧ (t.ring o r).present = g.present ++ [g.next])
               ∧ ((s.bulkUsable src 64 = false ∨ s.notPoisoned src 64 = false) → t.sram = s.sram ∧ (t.ring o r).present = g.present)
               ∧ (t.ring o r).next = g.next + 1 ∧ (t.ring o r).pos = g.pos ∧ (t.ring o r).stopped = g.stopped
               ∧ (t.ring o r).primed = (g.primed || decide (len ≤ (t.ring o r).present.length))
               ∧ t.flag (rfoRingStatPrimed o r) = (t.ring o r).primed
               ∧ bitsKept s t [rfoRingStatPrimed o r, ⟨⟨.hstPoisonCnt, 0, 0⟩, 31, 0⟩])


/-! Cues and the Quarry. -/

/-- Where the fabric is on: cues that are due appear at its next tick unless the channel's hold-off drops them, and reach the
engines that listen to their channel; a window filter's end gives the cells their levels. A fired cue and a taken edge raise
one; an edge takes back what the glitch filter had not let through, and a trigger line's edge is stamped and sent to its units,
or, less than two ticks after the one before, missed by those that run. A configuration write clears PASSED, and a check sets it or says what fails. -/
def Obligations.CueFabric : Prop :=
  (∀ (s : State) (k : Nat), s.fabricOn = true → s.fabricNext = some k →
      let u := max k s.now
      let pre := (s.mesTo (u - 1)).advanceTo u
      ∃ t, exec .cueAppear s = .next t ∧ t.now = (s.advanceTo u).now ∧ (∀ d ∈ t.due, u < d.tick) ∧ t.mode = s.mode
        ∧ (∀ d ∈ s.due, d.tick ≤ u → tabFind s.lastCue d.ch = none → tabFind t.lastCue d.ch = some (u : Int)
            ∧ ∀ p, (pre.engP p).listen = some d.ch → liveState (pre.engP p).state = true →
                ((pre.engP p).wait = none → (t.engP p).pend = true)
                ∧ ∀ pd dl li pe, pd < 8 → (pre.engP p).wait = some (.waitc pd dl li pe) → (t.engP p).wait = none ∧ (t.engP p).state = .running
                    ∧ (t.engP p).pred pd = true ∧ (t.engP p).ready = max (pre.engP p).ready (u + 1))
        ∧ (∀ ch l, (ch < 512 ∨ 768 ≤ ch) → (∃ d ∈ s.due, d.tick ≤ u ∧ d.ch = ch) → tabFind s.lastCue ch = some l → l < u →
            (u : Int) ≤ l + s.fld (cueChHold ch) → tabFind t.lastCue ch = some l
              ∧ t.fld (cueChDropCnt ch) = min 65535 (s.fld (cueChDropCnt ch) + 1)))
    ∧ (∀ (s : State) (k : Nat), s.fabricOn = true → s.filterAt = some k → (∀ n, s.fabricNext = some n → k ≤ n) →
        let u := max k s.now
        let pre := (s.mesTo (u - 1)).advanceTo u
        ∃ t, exec .cueFilterElapse s = .next t ∧ t.now = (s.advanceTo u).now ∧ t.mode = s.mode ∧ t.sram = s.sram
          ∧ ((∀ d ∈ pre.due, u < d.tick) → s.flag cueStatPassed = true →
              ∀ c ∈ s.liveCells, (t.cell c).level = tabGet (pre.cellLevels u []) c false))
    ∧ (∀ (c : BitVec 10) (s : State), s.fabricOn = true →
        exec (.cueFire c) s = .next { s with due := s.due ++ [⟨s.now + 1, c.toNat⟩] })
    ∧ (∀ (p : Fin 64) (rising : Bool) (s : State), s.fabricOn = true →
        let sel := s.fld (mvpPinCfgEdge p)
        exec (.pinEdge p rising) s = .next { s with
          due := s.due.filter (fun d => d.ch ≠ 768 + p.val ∨ d.tick ≤ s.now + 8)
            ++ (if (sel = 0 ∧ rising = true) ∨ (sel = 1 ∧ rising = false) ∨ sel = 2 then
                  [⟨s.now + 8 + s.fld (mvpPinCfgGf p), 768 + p.val⟩] else []) })
    ∧ (∀ (line : Fin 8) (rising : Bool) (fine : BitVec 8) (s : State), s.fabricOn = true →
        let sel := if line.val < 4 then s.fld (mvpTrigCfgEdge line) else s.fld (mvpTbusCfgEdge (line.val - 4))
        let gf := if line.val < 4 then s.fld (mvpTrigCfgGf line) else s.fld (mvpTbusCfgGf (line.val - 4))
        let taken := (sel = 0 ∧ rising = true) ∨ (sel = 1 ∧ rising = false) ∨ sel = 2
        let stamp := 256 * s.now + fine.toNat
        let inst := if line.val < 4 then stamp else stamp - s.fld (acqTbusCompComp (line.val - 4))
        let rest := s.due.filter (fun d => d.ch ≠ 832 + line.val ∨ d.tick ≤ s.now + 8)
        ∃ t, exec (.trigEdge line rising fine) s = .next t
          ∧ (¬taken → t = { s with due := rest })
          ∧ (taken → ⟨s.now + 8 + gf, 832 + line.val⟩ ∈ t.due ∧ t.sram = s.sram ∧ t.engs = s.engs)
          ∧ (taken → (∀ x, tabFind s.tdc line = some x → x + 512 ≤ stamp) → tabFind t.tdc line = some stamp
              ∧ (∀ u ∈ s.lineUnits line, ⟨s.now + 6, inst, s.wtStampAt (inst / 256)⟩ ∈ (t.acq u).trigs)
              ∧ t = { s with due := rest ++ [⟨s.now + 8 + gf, 832 + line.val⟩], tdc := t.tdc, acqs := t.acqs })
          ∧ (taken → ∀ x, tabFind s.tdc line = some x → stamp < x + 512 → t.tdc = s.tdc ∧ ∀ u ∈ s.lineUnits line,
              (s.acq u).state ≠ .idle → ⟨s.now + 1, 929⟩ ∈ t.due ∧ min (2 ^ 32 - 1) (s.rdn .acqMissCnt u + 1) ≤ t.rdn .acqMissCnt u))
    ∧ (∀ (off : BitVec 16) (v : Word) (r : Reg) (s : State), s.stbyCal = true → cueReg off.toNat = some r →
        ∃ t, exec (.cueConfigWrite off v) s = .next t ∧ t.flag cueStatPassed = false ∧ t.flag cueStatChecking = false
          ∧ (∀ k, (t.cell k).level = false) ∧ t = { s with regs := t.regs, cells := t.cells, cueChk := false }
          ∧ regsKept s t [r, ⟨.cueStat, 0, 0⟩]
          ∧ ∀ f ∈ r.k.fields, f.acc = .own → f.bad.contains (v.bits f.hi f.lo) = false →
              (t.reg r).bits f.hi f.lo = v.bits f.hi f.lo)
    ∧ (∀ s : State, s.fabricOn = true → ∃ t, exec .cueCheck s = .next t ∧ t = { s with regs := t.regs, cueChk := true }
        ∧ t.flag cueStatChecking = true ∧ bitsKept s t [cueStatChecking])
    ∧ ∀ s : State, s.cueChk = true → ∃ t, exec .cueCheckDone s = .next t ∧ t.cueChk = false ∧ t.flag cueStatChecking = false
        ∧ t = { s with regs := t.regs, cells := t.cells, cueChk := false, evalAt := t.evalAt } ∧ regsKept s t [⟨.cueStat, 0, 0⟩]
        ∧ (s.cueCheck [] = none → t.flag cueStatPassed = true ∧ t.fld cueStatReason = 0 ∧ t.fld cueStatItem = 0
            ∧ t.cells = s.cells ∧ t.evalAt = some s.now)
        ∧ ∀ why item, s.cueCheck [] = some (why, item) → t.flag cueStatPassed = false ∧ t.fld cueStatReason = why
            ∧ t.fld cueStatItem = item ∧ ∀ k, (t.cell k).level = false

/-- An outcome that comes alone is ignored, stale, late, dropped with a handoff, a duplicate or accepted, and is counted so. A bench
that has been open for BENCH_TMO closes. A decode whose partners have joined or are late ends: it commits the result of the
reference procedure for the devices of D, with cue 912, or hands off with its cause or with the one a partner announced, with cue
911; one that no partner joined is this device's own. A partner that does not join is late; LAG_TICKS at BUDGET raises BACKLOG. The host resumes the Quarry after a handoff, toggles a Pauli frame
entry, writes its configuration and seams, which takes PASSED away and switches it off, and has the contents checked. -/
def Obligations.QuarryUnit : Prop :=
  ((∀ (p : Pub) (s : State), s.pubs = [p] → p.tick ≤ (s.advanceTo p.tick).now →
       let u := s.advanceTo p.tick
       let st := u.fld qryStatState
       let up (t : State) (k : Nat) : Prop := t.rdn .qryCnt k = min (2 ^ 32 - 1) (u.rdn .qryCnt k + 1)
       ∃ t, exec .outcome s = .next t ∧ t.pubs = [] ∧ t.now = u.now ∧ t.mode = s.mode ∧ t.engs = u.engs
         ∧ ((st = 0 ∨ st = 4) → ∀ k, k < 5 → t.rd .qryCnt k = u.rd .qryCnt k)
         ∧ (st ≠ 0 → st ≠ 4 → u.flag (qryAncEn p.anc) = false → up t 1)
         ∧ (st ≠ 0 → st ≠ 4 → u.flag (qryAncEn p.anc) = true →
             (32768 ≤ u.qOff p.bench → up t 2)
             ∧ (u.qOff p.bench < 32768 → u.qIsClosed p.bench = true → up t 3)
             ∧ (u.qOff p.bench < 32768 → u.qIsClosed p.bench = false →
                 (u.qS ≤ u.qOff p.bench → up t 6 ∧ t.fld qryStatState = 3 ∧ (st ≠ 3 → t.fld qryStatHcause = 3))
                 ∧ (u.qOff p.bench < u.qS → (u.qNode p.bench p.anc).present = true → up t 4)
                 ∧ (u.qOff p.bench < u.qS → (u.qNode p.bench p.anc).present = false → up t 0))))
     ∧ (∀ (s : State) (t0 : Nat), tabFind s.qry.opened ((s.qClosed + 1) % 65536) = some t0 → s.fld qryTmoBenchTmo ≠ 0 →
         let u := s.advanceTo (t0 + s.fld qryTmoBenchTmo)
         t0 + s.fld qryTmoBenchTmo ≤ u.now → (∀ p ∈ s.pubs, u.now < p.tick) →
         ∃ t, exec .benchTimeout s = .next t ∧ t.now = u.now ∧ t.pubs = s.pubs
           ∧ tabFind t.qry.opened ((s.qClosed + 1) % 65536) = none ∧ ((s.qClosed + 1) % 65536, u.now) ∈ t.qry.uncov
           ∧ t.mode = s.mode ∧ t.engs = u.engs ∧ t.sram = u.sram)
     ∧ (∀ (s : State) (d : QDecode) (peers : List QPeer), s.qry.dec = some d → (∀ f ∈ d.faces, f ∈ d.joined ∨ f ∈ d.late) →
         let end_ := match s.toldHandoff d with
           | some c => QEnd.handoff c
           | none => (s.decode d.hc (s.sidesOf d peers).1).1
         ∃ t, exec (.decodeEnd peers) s = .next t ∧ t.mode = s.mode ∧ t.engs = s.engs ∧ t.bulk = s.bulk
           ∧ (d.joined = [] → end_ = s.decodeLocal d.hc)
           ∧ (∀ r, end_ = .commit r → ⟨s.now + 1, 912⟩ ∈ t.due ∧ t.sram = s.sram
               ∧ t.rd .qryLast0 = BitVec.ofNat 32 (min 255 r.clusters * 2 ^ 24 + r.rounds % 256 * 2 ^ 16 + min 65535 (s.now - d.start))
               ∧ (∀ q, tabGet t.pauli q 0 = (r.toggles.filter (fun x => x.1 = q)).foldl (fun v x => v ^^^ BitVec.ofNat 2 x.2)
                   (tabGet s.pauli q 0))
               ∧ ∀ e ∈ t.qry.uncov, e ∈ s.qry.uncov ∧ s.qOff d.hc < s.qOff e.1)
           ∧ (∀ c, end_ = .handoff c → ⟨s.now + 1, 911⟩ ∈ t.due ∧ t.fld qryStatState = 3 ∧ t.fld qryStatHcause = c
               ∧ t.qry.dec = none ∧ t.pauli = s.pauli ∧ t.rd .svcLogNext = s.rd .svcLogNext + 1))
     ∧ (∀ (f : Fin 6) (s : State) (d : QDecode), s.qry.dec = some d → f.val ∈ d.faces → f.val ∉ d.joined → f.val ∉ d.late →
         let u := s.advanceTo (d.start + s.fld qryTmoFaceTmo)
         ∃ t, exec (.faceTimeout f) s = .next t ∧ t.qry = { s.qry with dec := some { d with late := d.late ++ [f.val] } }
           ∧ t.fld (qryFaceLateCnt f) = min 255 (u.fld (qryFaceLateCnt f) + 1) ∧ t = { u with regs := t.regs, qry := t.qry }
           ∧ bitsKept u t [qryFaceLateCnt f])
     ∧ ∀ (s : State) (b t0 : Nat) (rest : List (Nat × Nat)), s.qry.uncov = (b, t0) :: rest → s.flag qryStatBacklog = false →
         let u := s.advanceTo (t0 + max 1 (s.fld qryBudgetBudget))
         ∃ t, exec .backlog s = .next t ∧ t.flag qryStatBacklog = true ∧ t.flag qryStatBacklogSeen = true
           ∧ t.rdn .qryCnt 7 = min (2 ^ 32 - 1) (u.rdn .qryCnt 7 + 1)
           ∧ t = { u with regs := t.regs, due := u.due ++ [⟨u.now + 1, 910⟩] }
           ∧ bitsKept u t [qryStatBacklog, qryStatBacklogSeen, ⟨⟨.qryCnt, 7, 0⟩, 31, 0⟩])
    ∧ ((∀ (v : Word) (s : State), s.alive = true → v.bit 31 = true →
           let upTo := v.bits 15 0
           ∃ t, exec (.qryResume v) s = .next t
             ∧ ((s.fld qryStatState ≠ 3 ∨ s.qIsClosed upTo = false) →
                 fieldsOnly s t [qryStatResumeBad] ∧ t.flag qryStatResumeBad = true)
             ∧ (s.fld qryStatState = 3 → s.qIsClosed upTo = true → t.qLo = (upTo + 1) % 65536 ∧ t.fld qryStatHcause = 0
                 ∧ ((∀ e ∈ s.qry.uncov, s.qOff e.1 ≤ s.qOff upTo) → t.fld qryStatState = 1)
                 ∧ ((∃ e ∈ s.qry.uncov, s.qOff upTo < s.qOff e.1) → t.fld qryStatState = 2 ∧ t.qry.dec.isSome = true)
                 ∧ (∀ e, e ∈ t.qry.uncov ↔ e ∈ s.qry.uncov ∧ s.qOff upTo < s.qOff e.1) ∧ t.pauli = s.pauli ∧ t.mode = s.mode
                 ∧ t.sram = s.sram ∧ t.engs = s.engs))
         ∧ (∀ (v : Word) (s : State), s.alive = true →
             (s.mode = .standby ∨ s.mode = .calibrate ∨ s.mode = .armed ∨ (s.mode = .run ∧ s.fld qryStatState = 3)) →
             ∃ t, exec (.qryFrameXor v) s = .next t
               ∧ t = { s with pauli := t.pauli, pauliOld := t.pauliOld, pauliTick := t.pauliTick }
               ∧ tabGet t.pauli (v.bits 7 0) 0 = tabGet s.pauli (v.bits 7 0) 0 ^^^ BitVec.ofNat 2 (v.bits 9 8)
               ∧ ∀ q, q ≠ v.bits 7 0 → tabGet t.pauli q 0 = tabGet s.pauli q 0)
         ∧ (∀ (off : BitVec 20) (v : Word) (s : State), s.stbyCal = true → off.toNat % 4 = 0 →
             ∃ t, exec (.qryConfigWrite true off v) s = .next t ∧ memWord t.sram (0x0C000000 + off.toNat) = v
               ∧ sramKept s t (0x0C000000 + off.toNat) 4 ∧ t = { s with regs := t.regs, sram := t.sram, qry := t.qry }
               ∧ t.flag qryCheckPassed = false ∧ t.fld qryStatState = 0 ∧ t.qry = { s.qry with chk := false, dec := none, wait := false }
               ∧ bitsKept s t [qryCheckPassed, qryCheckChecking, qryStatState])
         ∧ (∀ (off : BitVec 20) (v : Word) (r : Reg) (s : State), s.stbyCal = true → qryReg off.toNat = some r →
             ∃ t, exec (.qryConfigWrite false off v) s = .next t
               ∧ t = { s with regs := t.regs, wrOld := t.wrOld, wrTick := some s.now, qry := t.qry }
               ∧ t.flag qryCheckPassed = false ∧ t.fld qryStatState = 0 ∧ t.qry = { s.qry with chk := false, dec := none, wait := false }
               ∧ regsKept s t [r, ⟨.qryCheck, 0, 0⟩, ⟨.qryStat, 0, 0⟩]
               ∧ ∀ f ∈ r.k.fields, f.acc = .own → f.bad.contains (v.bits f.hi f.lo) = false →
                   (t.reg r).bits f.hi f.lo = v.bits f.hi f.lo)
         ∧ (∀ s : State, s.stbyCal = true → ∃ t, exec .qryCheck s = .next t ∧ t.flag qryCheckChecking = true
             ∧ t = { s with regs := t.regs, qry := { s.qry with chk := true } } ∧ bitsKept s t [qryCheckChecking])
         ∧ ∀ s : State, s.qry.chk = true → ∃ t, exec .qryCheckDone s = .next t ∧ t.flag qryCheckChecking = false
             ∧ t = { s with regs := t.regs, qry := { s.qry with chk := false } } ∧ regsKept s t [⟨.qryCheck, 0, 0⟩]
             ∧ (s.qryCheck false = none → t.flag qryCheckPassed = true ∧ t.fld qryCheckReason = 0 ∧ t.fld qryCheckItem = 0)
             ∧ ∀ why item, s.qryCheck false = some (why, item) → t.fld qryCheckReason = why ∧ t.fld qryCheckItem = item % 2 ^ 17
                 ∧ t.flag qryCheckPassed = s.flag qryCheckPassed)


/-! Acquisition, the marker and vector port, and the tally units. -/

/-- At its arm tick a unit clears its counts and enters FILL, or HIST with its memory 0, or opens an endless record. A trigger, on
its way or of TT, in FILL opens a record whose first sample is at or after it; in the other states of the rule it is missed with
the cause of the state. A sample time of an input that is on joins the samples before a trigger or the open record, which closes
with its last one. REARM and NOSPACE end where there is room. -/
def Obligations.AcquisitionRecords : Prop :=
  (∀ (u : Fin 16) (s : State) (ta : Nat), s.alive = true → (s.acq u).armAt = some ta →
      let w := s.advanceTo ta
      ∃ t, exec (.acqArmTick u) s = .next t ∧ t.now = w.now ∧ (t.acq u).armAt = none ∧ t.rd .acqRecCnt u = 0
        ∧ t.rd .acqMissCnt u = 0 ∧ (t.acq u).miss = [] ∧ (∀ v, v ≠ u.val → t.acq v = s.acq v)
        ∧ t = { w with regs := t.regs, sram := t.sram, acqs := t.acqs }
        ∧ (s.fld (acqCfgMode u) = 1 → (t.acq u).state = .hist
            ∧ ∀ a, memByte t.sram a = if acqBase u ≤ a ∧ a < acqBase u + 0x400000 then 0 else memByte s.sram a)
        ∧ (s.fld (acqCfgMode u) ≠ 1 → s.acqEndless u = false → (t.acq u).state = .fill ∧ (t.acq u).fillAt = w.now
            ∧ (t.acq u).rcd = none ∧ (t.acq u).past = [] ∧ t.sram = s.sram)
        ∧ (s.fld (acqCfgMode u) ≠ 1 → s.acqEndless u = true → (t.acq u).state = .capture ∧ (t.acq u).rcd ≠ none))
    ∧ (∀ (i : Instr) (u : Fin 16) (s : State) (tick inst : Nat) (wt : List Word), s.alive = true →
        (i = .acqTrigger u ∧ (s.acq u).trigs = [⟨tick, inst, wt⟩]
          ∨ i = .acqTtTrigger u ∧ s.fld (acqTrigTsrc u) = 3
            ∧ tick = s.rd64 .acqTtTrigLo .acqTtTrigHi u + (s.acq u).ttNext * s.rdn .acqTtPer u
            ∧ (s.rdn .acqTtPer u ≠ 0 ∨ (s.acq u).ttNext = 0) ∧ inst = 256 * (s.advanceTo tick).now
            ∧ wt = (s.advanceTo tick).wtStamp) →
        let w := s.advanceTo tick
        let missed (t : State) (cause : Nat) : Prop := ⟨w.now + 1, 929⟩ ∈ t.due
          ∧ t.rdn .acqMissCnt u = min (2 ^ 32 - 1) (w.rdn .acqMissCnt u + 1) ∧ (t.acq u).state = (s.acq u).state
          ∧ ((s.acq u).miss.length < 64 → (t.acq u).miss = (s.acq u).miss ++ [(inst / 256, cause)])
          ∧ (64 ≤ (s.acq u).miss.length → t.flag (acqStatMissOvf u) = true) ∧ t.sram = s.sram
        (s.acq u).state ≠ .idle → (s.acq u).state ≠ .hist →
        ∃ t, exec i s = .next t ∧ t.now = w.now ∧ t.mode = s.mode ∧ t.bulk = s.bulk ∧ (∀ v, v ≠ u.val → t.acq v = s.acq v)
          ∧ ((s.acq u).state = .held → missed t 4)
          ∧ ((s.acq u).state ≠ .held → s.resettling = true → missed t 5)
          ∧ (s.resettling = false → (s.acq u).state = .fill →
              (s.acqWriteTick u (s.acqFirst u inst) < (s.acq u).fillAt → missed t 1)
              ∧ ((s.acq u).fillAt ≤ s.acqWriteTick u (s.acqFirst u inst) → (∀ x ∈ (s.acq u).past, x.index < s.acqFirst u inst) →
                  (t.acq u).state = .capture ∧ (t.acq u).opened = (s.acq u).opened + 1 ∧ t.sram = s.sram ∧ (t.acq u).rcd
                    = some { num := (s.acq u).opened, t := inst, wt := wt, first := s.acqFirst u inst }))
          ∧ (s.resettling = false → (s.acq u).state = .capture → s.flag (acqCfgStream u) = false → missed t 3)
          ∧ (s.resettling = false → (s.acq u).state = .noSpace → missed t 2)
          ∧ (s.resettling = false → (s.acq u).state = .rearm → missed t 1))
    ∧ (∀ (u : Fin 16) (n : Nat) (codes : List (BitVec 12)) (x : AcqSample) (s : State), s.alive = true → s.resettling = false →
        s.flag (rfiStatOn u) = true → s.acqTime u n codes = some x →
        let w := s.advanceTo (s.acqWriteTick u x.index)
        ∃ t, exec (.acqSampleWrite u n codes) s = .next t ∧ t.now = w.now ∧ t.bulk = s.bulk ∧ (∀ v, v ≠ u.val → t.acq v = s.acq v)
          ∧ ((s.acq u).state = .fill → (s.acq u).fillAt ≤ s.acqWriteTick u x.index →
              t.acq u = { s.acq u with past := (x :: (s.acq u).past).take (s.rdn .acqPre u + 16384) } ∧ t = { w with acqs := t.acqs })
          ∧ (∀ r, (s.acq u).state = .capture → (s.acq u).rcd = some r → r.first ≤ x.index → r.opened = false → (s.acq u).past = [] →
              r.marks.length < 60000 →
              (s.rdn .acqPost u = 0 ∨ r.post + 1 < s.rdn .acqPost u) → (t.acq u).state = .capture
                ∧ (∃ q, (t.acq u).rcd = some q ∧ q.opened = true ∧ q.post = r.post + 1)
                ∧ memWord t.sram (acqBase u + 64 * ((s.acq u).wpos % 65536)) = BitVec.ofNat 32 r.num)
          ∧ ∀ r, (s.acq u).state = .capture → (s.acq u).rcd = some r → r.first ≤ x.index → r.opened = true →
              ((s.rdn .acqPost u = 0 ∨ r.post + 1 < s.rdn .acqPost u) →
                r.buf.length + (sampleBytes (s.acqRaw u) x.values).length < 60 →
                t = { w with acqs := t.acqs } ∧ (t.acq u).state = .capture ∧ ∃ q, (t.acq u).rcd = some q ∧ q.post = r.post + 1
                  ∧ q.buf = r.buf ++ sampleBytes (s.acqRaw u) x.values)
              ∧ (s.rdn .acqPost u ≠ 0 → s.rdn .acqPost u ≤ r.post + 1 →
                  (t.acq u).rcd = none ∧ (t.acq u).closeAt = w.now ∧ ⟨w.now + 1, 913 + u.val⟩ ∈ t.due
                    ∧ t.rdn .acqRecCnt u = min (2 ^ 32 - 1) (w.rdn .acqRecCnt u + 1) ∧ (t.acq u).state
                      = (if s.fld (acqNrecNrec u) ≠ 0 ∧ s.fld (acqNrecNrec u) ≤ t.rdn .acqRecCnt u then .idle else .rearm)))
    ∧ (∀ (u : Fin 16) (s : State), s.alive = true → (s.acq u).state = .rearm → s.resettling = false →
        let w := s.advanceTo ((s.acq u).closeAt + 17)
        ∃ t, exec (.rearmEnd u) s = .next t ∧ t = { w with acqs := t.acqs }
          ∧ t.acq u = { s.acq u with state := if s.acqHasRoom u then .fill else .noSpace, fillAt := w.now, past := [] })
    ∧ ∀ (u : Fin 16) (s : State), s.alive = true → (s.acq u).state = .noSpace → s.acqHasRoom u = true → s.resettling = false →
        ∃ t, exec (.acqRoom u) s = .next t ∧ t = { s with acqs := t.acqs } ∧ (∀ v, v ≠ u.val → t.acq v = s.acq v)
          ∧ t.acq u = { s.acq u with state := .fill, fillAt := s.now, past := [] }

/-- The oldest line that waits leaves for the bulk region or the host's ring when there is room, and an ME's record for where
REC_DEST says, or is discarded and counted; the host pops missed triggers and moves BULK_RD. -/
def Obligations.AcquisitionLines : Prop :=
  (∀ (u : Fin 16) (s : State), s.alive = true → s.fld (acqCfgDest u) ≠ 0 →
      (if s.flag (acqCfgStream u) then (s.acq u).held else (s.acq u).done) ≠ 0 → s.acqDestRoom u (s.fld (acqCfgDest u)) = true →
      let ws := memWords s.sram (acqBase u + 64 * (((s.acq u).wpos - (s.acq u).held) % 65536)) 16
      let wr := s.rdn .acqBulkWr u
      let base := s.rd64 .acqBulkBaseLo .acqBulkBaseHi u
      ∃ t, exec (.acqLineOut u) s = .next t
        ∧ t.acq u = { s.acq u with held := (s.acq u).held - 1, done := (s.acq u).done - 1 }
        ∧ t = { s with regs := t.regs, acqs := t.acqs, bulk := t.bulk, poison := t.poison, hostRing := t.hostRing, msix := t.msix }
        ∧ (s.fld (acqCfgDest u) = 1 → bulkKept s t (base + wr) 64 ∧ t.hostRing = s.hostRing
            ∧ t.rdn .acqBulkWr u = (if s.rdn .acqBulkLen u ≤ wr + 64 then 0 else wr + 64)
            ∧ (s.bulkUsable (base + wr) 64 = true → memWords t.bulk (base + wr) 16 = ws))
        ∧ (s.fld (acqCfgDest u) ≠ 1 → t.bulk = s.bulk ∧ t.ringEntries u
            = s.ringEntries u ++ [((s.fld (hstRrStatProd u) + 1) % 2 ^ 28, ws)]))
    ∧ (∀ (u : Fin 16) (e : Nat) (r : Rec) (rs : List Rec) (s : State), s.alive = true →
        ((List.range 16).map (fun i => 768 + 16 * u.val + ((s.acq u).rr + i) % 16)).find? (fun e => !(s.eng e).me.recs.isEmpty)
          = some e → (s.eng e).me.recs = r :: rs →
        let dest := s.fld (acqRecDestDest u)
        let w := s.advanceTo (max (s.acq u).recAt (r.tt.toNat + 1))
        (dest = 1 → s.acqDestRoom u 2 = true) → (dest = 2 → s.acqDestRoom u 1 = true) →
        ∃ t, exec (.recTake u) s = .next t ∧ t.now = w.now ∧ (t.eng e).me.recs = rs ∧ t.sram = s.sram ∧ t.mode = s.mode
          ∧ t.acq u = { s.acq u with rr := (e + 1) % 16, recAt := w.now + 1 }
          ∧ (dest ≠ 1 → dest ≠ 2 → t.rdn .acqRecDiscCnt u = min (2 ^ 32 - 1) (w.rdn .acqRecDiscCnt u + 1) ∧ t.bulk = s.bulk
              ∧ t.hostRing = s.hostRing)
          ∧ (dest = 1 → t.bulk = s.bulk ∧ ∃ k line, t.ringEntries u = s.ringEntries u ++ [(k, line)]
              ∧ line.take 3 = r.line.take 3)
          ∧ (dest = 2 → bulkKept s t (s.rd64 .acqBulkBaseLo .acqBulkBaseHi u + s.rdn .acqBulkWr u) 64 ∧ t.hostRing = s.hostRing))
    ∧ (∀ (u : Fin 16) (s : State), s.alive = true → ∃ t, exec (.acqMissPop u) s = .next t ∧ t = { s with acqs := t.acqs }
        ∧ t.acq u = { s.acq u with miss := (s.acq u).miss.drop 1 } ∧ ∀ v, v ≠ u.val → t.acq v = s.acq v)
    ∧ ∀ (u : Fin 16) (v : Word) (s : State), s.alive = true → ∃ t, exec (.acqBulkRd u v) s = .next t
        ∧ fieldsOnly s t [acqBulkRdRd u] ∧ t.fld (acqBulkRdRd u) = v.bits 31 6

/-- In STANDBY and CALIBRATE a pin takes its configuration unless its line is routed to another pin; vector memory takes words
unless a pattern runs; in CALIBRATE, ARMED and RUN, with no pattern running, GO starts a pattern whose edges and range are in order
at VSTART or on a cue; STOP ends one that runs at the next boundary at least 16 ticks away, and one that waits for its cue at once;
a period drives the vector pins at their drive edges, strobes them and moves on. -/
def Obligations.VectorPort : Prop :=
  (∀ (p : Fin 64) (v : Word) (s : State), s.stbyCal = true →
      ∃ t, exec (.pinCfgWrite p v) s = .next t
        ∧ ((v.bits 10 0 < 1536 ∧ ∃ q, q < 64 ∧ q ≠ p.val ∧ routed (s.rd .mvpPinCfg q) = some (v.bits 10 0)) →
            fieldsOnly s t [mvpStatRouteErr] ∧ t.flag mvpStatRouteErr = true)
        ∧ (¬(v.bits 10 0 < 1536 ∧ ∃ q, q < 64 ∧ q ≠ p.val ∧ routed (s.rd .mvpPinCfg q) = some (v.bits 10 0)) →
            t = { s with regs := t.regs } ∧ t.fld (mvpPinCfgFunc p) = v.bits 31 30 ∧ t.fld (mvpPinCfgMsrc p) = v.bits 10 0
            ∧ t.flag (mvpPinTrimValid p) = false ∧ (∀ q, q ≠ p.val → t.rd .mvpPinCfg q = s.rd .mvpPinCfg q)
            ∧ ∀ r : Reg, r.k ≠ .mvpPinCfg → r.k ≠ .mvpPinTrim → r.k ≠ .rfoMrkTrim → r.k ≠ .flxMrkTrim → t.reg r = s.reg r))
    ∧ (∀ (off : BitVec 21) (ws : List Word) (s : State), s.alive = true → off.toNat % 4 = 0 →
        ∃ t, exec (.vectorWrite off ws) s = .next t
          ∧ (s.mvpRuns = true → fieldsOnly s t [mvpStatVwdrop] ∧ t.flag mvpStatVwdrop = true)
          ∧ (s.mvpRuns = false → t = { s with sram := t.sram } ∧ sramKept s t (0x0C200000 + off.toNat) (4 * ws.length)
              ∧ (off.toNat + 4 * ws.length ≤ 0x200000 → memWords t.sram (0x0C200000 + off.toNat) ws.length = ws)))
    ∧ (∀ (v : Word) (s : State), s.power = true → (s.mode = .calibrate ∨ s.mode = .armed ∨ s.mode = .run) → v.bit 31 = true →
        s.mvpRuns = false →
        let at_ := s.rd64 .mvpVstartLo .mvpVstartHi
        let late : Bool := !v.bit 29 && decide (at_ < s.now + 1000)
        ∃ t, exec (.mvpGo v) s = .next t ∧ t.flag mvpVecGoSrc = v.bit 29 ∧ t.flag mvpVecGoFailStop = v.bit 28
          ∧ t.fld mvpVecGoGoCue = v.bits 9 0
          ∧ ((s.tsRange = true ∨ late = true) → (s.tsRange = true → t.flag mvpStatTsRange = true)
              ∧ (late = true → t.flag mvpStatLate = true)
              ∧ fieldsOnly s t [mvpVecGoSrc, mvpVecGoFailStop, mvpVecGoGoCue, mvpStatTsRange, mvpStatLate])
          ∧ (s.tsRange = false → late = false → t.mvp.running = true ∧ t.mvp.first = s.fld mvpVecRangeVstartVec
              ∧ t.mvp.last = s.fld mvpVecRangeVendVec ∧ t.mvp.per = max 2 (s.fld mvpVecPerVper)
              ∧ t.mvp.loops = s.fld mvpVecPerNloop ∧ t.mvp.vec = t.mvp.first ∧ t.mvp.rep = 0 ∧ t.mvp.loop = 0
              ∧ t.mvp.next = (if v.bit 29 then none else some at_) ∧ t.mvp.goCue = (if v.bit 29 then some (v.bits 9 0) else none)
              ∧ t.rd .mvpFailCnt = 0 ∧ t = { s with regs := t.regs, mvp := t.mvp }
              ∧ bitsKept s t [mvpVecGoSrc, mvpVecGoFailStop, mvpVecGoGoCue, ⟨⟨.mvpFailCnt, 0, 0⟩, 31, 0⟩]))
    ∧ (∀ s : State, s.alive = true → s.mvpRuns = true → ∃ t, exec .mvpStop s = .next t ∧ t = { s with mvp := t.mvp }
        ∧ (∀ b, s.mvp.next = some b → s.mvp.stopFrom = none → s.mvp.per ≠ 0 → ∃ x, t.mvp = { s.mvp with stopFrom := some x }
            ∧ s.now + 16 ≤ x ∧ b ≤ x ∧ (x - b) % s.mvp.per = 0 ∧ x < max b (s.now + 16) + s.mvp.per)
        ∧ (s.mvp.next = none → s.mvp.goCue ≠ none → t.mvp = { s.mvp with running := false, goCue := none }))
    ∧ (∀ (low high : BitVec 64) (s : State) (n0 : Nat), s.alive = true → s.mvpRuns = true → s.mvp.next = some n0 →
        let n := if s.mvp.waitTt then max s.now n0 else n0
        (∀ b, s.mvp.stopFrom = some b → n < b) →
        let u := s.advanceTo n
        let code (p : Nat) : Nat := u.vecCode s.mvp.vec p
        let rpt := (memWord s.sram (0x0C200000 + 32 * s.mvp.vec + 24)).bits 31 16
        let edge (p : Nat) : Nat := 64 * n + u.fld (mvpTsPinD ((memWord s.sram (0x0C200000 + 32 * s.mvp.vec + 24)).bits 2 0) p)
        let drv (m : Mvp) (p x : Nat) : Option Bool := logAt none x (tabGet m.drv p [])
        let bad := u.vecPins.filter (fun p => strobeFails (code p) (low.getLsbD p) (high.getLsbD p))
        ∃ t, exec (.vectorPeriod low high) s = .next t ∧ t = { u with regs := t.regs, mvp := t.mvp, due := t.due }
          ∧ (∀ p ∈ u.vecPins, (∀ e ∈ tabGet s.mvp.drv p [], e.1 ≤ edge p) → ∀ x, edge p ≤ x → drv t.mvp p x = (match code p with
              | 1 => some false
              | 2 => some true
              | 6 => some (tabGet s.mvp.lastDrv p false)
              | _ => none))
          ∧ (∀ p ∈ u.vecPins, ∀ x, 64 * n ≤ x → x < edge p → drv t.mvp p x = drv s.mvp p x)
          ∧ (bad = [] → t.mvp.fails = s.mvp.fails ∧ t.rd .mvpFailCnt = u.rd .mvpFailCnt)
          ∧ (bad ≠ [] → t.rdn .mvpFailCnt = min (2 ^ 32 - 1) (u.rdn .mvpFailCnt + 1)
              ∧ (s.mvp.fails.length < 256 → ∃ e, t.mvp.fails = s.mvp.fails ++ [e])
              ∧ (256 ≤ s.mvp.fails.length → t.mvp.fails = s.mvp.fails ∧ t.flag mvpStatFailOvf = true))
          ∧ (s.mvp.rep < rpt → t.mvp.rep = s.mvp.rep + 1 ∧ t.mvp.vec = s.mvp.vec ∧ t.mvp.next = some (n + s.mvp.per))
          ∧ (rpt ≤ s.mvp.rep → s.mvp.vec < s.mvp.last → t.mvp.rep = 0 ∧ t.mvp.vec = s.mvp.vec + 1
              ∧ t.mvp.next = some (n + s.mvp.per))
          ∧ (rpt ≤ s.mvp.rep → s.mvp.last ≤ s.mvp.vec →
              ((s.mvp.loops = 0 ∨ s.mvp.loop + 1 < s.mvp.loops) → t.mvp.vec = s.mvp.first ∧ t.mvp.loop = s.mvp.loop + 1)
              ∧ (s.mvp.loops ≠ 0 → s.mvp.loops ≤ s.mvp.loop + 1 → t.mvp.next = none)))
    ∧ ∀ s : State, s.alive = true → exec .mvpFailPop s = .next { s with mvp := { s.mvp with fails := s.mvp.fails.drop 1 } }

/-- GO starts a transfer whose setting is in order and is refused with a cause elsewhere; a block ends with its check value over
its bytes and is judged; an end leaves the unit DONE with its cause. -/
def Obligations.TallyUnits : Prop :=
  (∀ (u : Fin 16) (cont : Bool) (s : State), s.alive = true → ∃ t, exec (.tallyGo u cont) s = .next t
      ∧ ((s.mode = .boot ∨ s.flag (talStatBusy u) = true) → fieldsOnly s t [talStatGoBad u] ∧ t.flag (talStatGoBad u) = true)
      ∧ (s.mode ≠ .boot → s.flag (talStatBusy u) = false →
          (∀ e, s.tallyRefuse u (if cont then s.talPosN u else 0) = some e →
            fieldsOnly s t [talStatRefused u, talStatErr u] ∧ t.flag (talStatRefused u) = true ∧ t.fld (talStatErr u) = e)
          ∧ (s.tallyRefuse u (if cont then s.talPosN u else 0) = none → t.flag (talStatBusy u) = true ∧ t.tally u = {}
              ∧ t = { s with regs := t.regs, tallies := t.tallies } ∧ (cont = true → bitsKept s t [talStatBusy u])
              ∧ (cont = false → t.talPosN u = 0 ∧ t.rd .talMisCnt u = 0 ∧ t.rd .talFrmCnt u = 0
                  ∧ t.rd64 .talRunLo .talRunHi u = tallyInit (s.fld (talCfgAlg u)) ∧ t.flag (talAliveEmpty u) = true
                  ∧ regsKept s t [⟨.talStat, u, 0⟩, ⟨.talRunLo, u, 0⟩, ⟨.talRunHi, u, 0⟩, ⟨.talPos, u, 0⟩, ⟨.talMisCnt, u, 0⟩,
                      ⟨.talFrmCnt, u, 0⟩, ⟨.talAlive, u, 0⟩]))))
    ∧ (∀ (u : Fin 16) (s : State), s.alive = true → s.flag (talStatBusy u) = true → ∃ t, exec (.tallyStop u) s = .next t
        ∧ t = { s with tallies := t.tallies } ∧ t.tally u = { s.tally u with stop := true }
        ∧ ∀ v, v ≠ u.val → t.tally v = s.tally v)
    ∧ (∀ (u : Fin 16) (s : State), s.tallyCan u = true →
        let alg := s.fld (talCfgAlg u)
        let flen := s.fld (talCfgFlen u)
        let bs := s.bulkBytes (s.talSrc u + s.talPosN u) flen
        let r := tallyBytes alg (tallyInit alg) (bs.take (flen - tallyWidth alg))
        let r1 := tallyBytes alg (s.rd64 .talRunLo .talRunHi u)
          (s.bulkBytes (s.talSrc u + s.talPosN u) (s.talLenN u - s.talPosN u))
        ∃ t, exec (.tallyBlock u) s = .next t
          ∧ t = { s with regs := t.regs, tallies := t.tallies, due := t.due, sram := t.sram, rr16 := t.rr16 }
          ∧ (s.flag (talCfgFrame u) = true → t.talPosN u = s.talPosN u + flen
              ∧ t.rd64 .talResLo .talResHi u = tallyOut alg r % 2 ^ 64
              ∧ t.rdn .talFrmCnt u = min (2 ^ 32 - 1) (s.rdn .talFrmCnt u + 1)
              ∧ (((bs.drop (flen - tallyWidth alg)).zipIdx.map (fun e => e.1.toNat * 256 ^ e.2)).foldl (· + ·) 0 ≠ tallyOut alg r →
                  t.flag (talStatMismatch u) = true ∧ ⟨s.now + 1, 931⟩ ∈ t.due
                  ∧ t.rdn .talMisCnt u = min (2 ^ 32 - 1) (s.rdn .talMisCnt u + 1)))
          ∧ (s.flag (talCfgFrame u) = false → t.talPosN u = s.talLenN u ∧ t.rd64 .talResLo .talResHi u = tallyOut alg r1 % 2 ^ 64
              ∧ (s.flag (talCfgCmp u) = true → s.rd64 .talExpLo .talExpHi u % 256 ^ tallyWidth alg ≠ tallyOut alg r1 →
                  t.flag (talStatMismatch u) = true ∧ ⟨s.now + 1, 931⟩ ∈ t.due)
              ∧ (s.flag (talCfgCmp u) = false → t.flag (talStatMismatch u) = s.flag (talStatMismatch u) ∧ t.due = s.due)))
    ∧ ∀ (u : Fin 16) (s : State), s.alive = true → s.flag (talStatBusy u) = true →
        let need := if s.flag (talCfgFrame u) then s.fld (talCfgFlen u) else s.talLenN u - s.talPosN u
        ∃ t, exec (.tallyEnd u) s = .next t ∧ t.flag (talStatBusy u) = false ∧ t.flag (talStatDone u) = true ∧ t.tally u = {}
          ∧ t.fld (talStatErr u) ∈ [0, 3, 5, 6]
          ∧ t = { s with
                  regs := t.regs, tallies := t.tallies, due := t.due, sram := t.sram, rr16 := t.rr16, free := t.free }
          ∧ (s.flag (talCfgFrame u) = false → s.tallyCan u = true → t.fld (talStatErr u) = 0 ∧ t.talPosN u = s.talLenN u)
          ∧ ((s.tally u).halt = true → s.flag (talCfgFrame u) = true → t.fld (talStatErr u) = 6 ∧ t.talPosN u = s.talPosN u)
          ∧ ((s.tally u).halt = false → (s.tally u).stop = true → s.flag (talCfgFrame u) = true → s.talPosN u ≠ s.talLenN u →
              t.fld (talStatErr u) = 5 ∧ t.talPosN u = s.talPosN u)
          ∧ ((s.tally u).halt = false → (s.tally u).stop = false → s.talPosN u < s.talLenN u → s.tallyGood u < need →
              t.fld (talStatErr u) = 3 ∧ t.talPosN u = s.talPosN u + s.tallyGood u)

/-! Links and frames. -/

/-- A DOWN link that may train does so when it hears its partner, and again 100 ms after a training that failed, as one that has not
locked within 2 ms has. Trained in time with two lanes or more, a link sends its capabilities; what the partner's say takes it UP,
to the challenge with a nonce sent and the partner's answered, or to ISOLATED with the cause; the answer to its own nonce takes it
UP where its tag holds, and to ISOLATED where it does not or does not come within 1 ms. -/
def Obligations.LinkUp : Prop :=
  (∀ (l : Fin 6) (s : State), s.mayTrain l = true → (s.link l).retry = false → ∃ t, exec (.signalDetect l) s = .next t
      ∧ t.linkState l = 1 ∧ t = { s with regs := t.regs, links := t.links } ∧ (t.link l).since = s.up
      ∧ regsKept s t [⟨.lnkStat, l, 0⟩] ∧ ∀ m, m ≠ l.val → t.link m = s.link m)
    ∧ (∀ (l : Fin 6) (s : State), s.linksTrain = true → s.linkState l = 1 →
        let u := s.elapseTo ((s.link l).since + 2000000)
        ∃ t, exec (.trainTimeout l) s = .next t ∧ t.linkState l = 0 ∧ (t.link l).retry = true
          ∧ t = { u with regs := t.regs, links := t.links } ∧ regsKept u t [⟨.lnkStat, l, 0⟩] ∧ ∀ m, m ≠ l.val → t.link m = s.link m)
    ∧ (∀ (l : Fin 6) (s : State), s.mayTrain l = true → (s.link l).retry = true →
        let u := s.elapseTo ((s.link l).since + 100000000)
        ∃ t, exec (.trainRetry l) s = .next t ∧ t.linkState l = 1 ∧ (t.link l).retry = false
          ∧ t = { u with regs := t.regs, links := t.links } ∧ regsKept u t [⟨.lnkStat, l, 0⟩] ∧ ∀ m, m ≠ l.val → t.link m = s.link m)
    ∧ (∀ (l : Fin 6) (lanes : BitVec 5) (flight : BitVec 16) (s : State), s.linksRise = true → s.linkState l = 1 →
        s.up ≤ (s.link l).since + 2000000 →
        let usable := lanes.toNat &&& (31 - s.fld (lnkLaneFailed l))
        let active := if usable % 16 = 15 then 15 else usable
        ∃ t, exec (.trainDone l lanes flight) s = .next t ∧ (popCount 5 active < 2 → t = s)
          ∧ (2 ≤ popCount 5 active → t.linkState l = 2 ∧ t.fld (lnkLaneActive l) = active
              ∧ t.fld (lnkLaneFailed l) = s.fld (lnkLaneFailed l) ||| (15 - usable % 16)
              ∧ t.fld (lnkLaneActiveCnt l) = popCount 5 active ∧ t.fld (lnkFlightFlight l) = flight.toNat
              ∧ t.flag (lnkStatLong l) = decide (1536 < flight.toNat) ∧ t = { s with regs := t.regs, links := t.links }
              ∧ (hasRoom s l 0 1 → (t.link l).out = (s.link l).out ++ [.msg (.caps s.myCaps)])
              ∧ ∀ m, m ≠ l.val → t.link m = s.link m))
    ∧ (∀ (l : Fin 6) (c : Caps) (nonce : BitVec 128) (s : State), s.linksRise = true → s.linkState l = 2 →
        ∃ t, exec (.capabilitiesFrame l c nonce) s = .next t ∧ t.fld (lnkStatPartner l) = c.id.toNat ∧ t.flag (lnkStatJv1 l) = c.jv1
          ∧ t = { s with regs := t.regs, links := t.links, free := t.free, sram := t.sram, rr16 := t.rr16 }
          ∧ (∀ m, m ≠ l.val → t.link m = s.link m)
          ∧ (s.capsCause l c = 0 → t.fld (lnkStatVer l) = agreed s.linkCfg.v1 c
              ∧ ((s.linkCfg.authReq || c.authReq) = false → t.linkState l = 4)
              ∧ ((s.linkCfg.authReq || c.authReq) = true → t.linkState l = 3
                ∧ (t.link l).nonce = some (Config.freeWide s.free)
                ∧ (hasRoom s l 0 2 → (t.link l).out = (s.link l).out ++ [.msg (.nonce (Config.freeWide s.free)),
                    .msg (.tag (s.linkCfg.tag nonce s.ownId (s.neighbour l) (agreed s.linkCfg.v1 c)))])))
          ∧ (s.capsCause l c ≠ 0 → t.linkState l = 5 ∧ t.fld (lnkStatIsoCause l) = s.capsCause l c
              ∧ t.rd .svcLogNext = s.rd .svcLogNext + 1 ∧ (t.link l).out = []))
    ∧ (∀ (l : Fin 6) (tag n : BitVec 128) (s : State), s.linksRise = true → s.linkState l = 3 → (s.link l).nonce = some n →
        ∃ t, exec (.authResponse l tag) s = .next t
          ∧ t = { s with regs := t.regs, links := t.links, free := t.free, sram := t.sram, rr16 := t.rr16 }
          ∧ (if tag = s.linkCfg.tag n (s.neighbour l) s.ownId (s.fld (lnkStatVer l)) then
              t.linkState l = 4 ∧ (t.link l).nonce = none ∧ t.sram = s.sram
            else t.linkState l = 5 ∧ t.fld (lnkStatIsoCause l) = 4 ∧ t.rd .svcLogNext = s.rd .svcLogNext + 1)
          ∧ ∀ m, m ≠ l.val → t.link m = s.link m)
    ∧ ∀ (l : Fin 6) (s : State), s.linksTrain = true → s.linkState l = 3 →
        let u := s.elapseTo ((s.link l).since + 1000000)
        ∃ t, exec (.authTimeout l) s = .next t ∧ t.linkState l = 5 ∧ t.fld (lnkStatIsoCause l) = 4
          ∧ t.rd .svcLogNext = s.rd .svcLogNext + 1 ∧ t = { u with regs := t.regs, links := t.links, sram := t.sram, rr16 := t.rr16 }
          ∧ ∀ m, m ≠ l.val → t.link m = s.link m

/-- An active lane that fails leaves service, a free spare in training for it, and with fewer than two lanes an UP link is lost and
one on its way up goes down; a spare that fails in training is no longer trained, and joins when trained. Keep-alives are sent,
and missed ones take the link down. An acknowledged frame leaves the replay
buffer; one that is refused, or not acknowledged, is sent again, and dropped at the eighth failure. Budgets and error counts restart each interval. -/
def Obligations.LinkRuns : Prop :=
  (∀ (l : Fin 6) (lane : Fin 5) (s : State), s.linksTrain = true → (s.linkState l = 4 ∨ s.linkState l = 2 ∨ s.linkState l = 3) →
      (s.fld (lnkLaneActive l)).testBit lane.val = true →
      let active := s.fld (lnkLaneActive l) - 2 ^ lane.val
      ∃ t, exec (.laneFailure l lane) s = .next t ∧ (t.fld (lnkLaneFailed l)).testBit lane.val = true
        ∧ t.fld (lnkLaneActive l) = active ∧ (∀ m, m ≠ l.val → t.link m = s.link m) ∧ t.mode = s.mode
        ∧ (2 ≤ popCount 5 active → t.linkState l = s.linkState l ∧ t = { s with regs := t.regs, links := t.links }
            ∧ (t.link l).training = (s.spareFree l || ((s.link l).training && lane.val != 4)))
        ∧ (popCount 5 active < 2 → t.linkState l = 0 ∧ (t.link l).out = []
            ∧ (s.linkState l = 4 → ⟨s.now + 1, 932⟩ ∈ t.due ∧ t.rd .svcLogNext = s.rd .svcLogNext + 1)
            ∧ (s.linkState l ≠ 4 → t = { s with regs := t.regs, links := t.links })))
    ∧ (∀ (l : Fin 6) (s : State), s.linksTrain = true → (s.linkState l = 4 ∨ s.linkState l = 2 ∨ s.linkState l = 3) →
        (s.fld (lnkLaneActive l)).testBit 4 = false → (s.link l).training = true → 2 ≤ s.fld (lnkLaneActiveCnt l) →
        ∃ t, exec (.laneFailure l 4) s = .next t ∧ t = { s with regs := t.regs, links := t.links }
          ∧ bitsKept s t [lnkLaneFailed l] ∧ (t.fld (lnkLaneFailed l)).testBit 4 = true
          ∧ t.link l = { s.link l with training := false })
    ∧ (∀ (l : Fin 6) (s : State), s.linksOn = true → (s.link l).training = true → ∃ t, exec (.spareTrained l) s = .next t
        ∧ t.fld (lnkLaneActive l) = s.fld (lnkLaneActive l) ||| 16 ∧ t.link l = { s.link l with training := false }
        ∧ t = { s with regs := t.regs, links := t.links } ∧ bitsKept s t [lnkLaneActive l, lnkLaneActiveCnt l])
    ∧ (∀ (l : Fin 6) (s : State), s.power = true → s.linkState l = 6 → (s.link l).out.contains (.msg .keepalive) = false →
        let u := s.elapseTo ((s.link l).aliveAt + 1000)
        hasRoom u l 0 1 → ∃ t, exec (.keepaliveSend l) s = .next t ∧ t = { u with links := t.links }
          ∧ t.link l = { u.link l with out := (u.link l).out ++ [.msg .keepalive], aliveAt := u.up })
    ∧ (∀ (l : Fin 6) (s : State), s.power = true → s.linkState l = 6 →
        let u := s.elapseTo ((s.link l).since + 10000)
        ∃ t, exec (.keepaliveTimeout l) s = .next t ∧ t.linkState l = 0 ∧ t.rd .svcLogNext = s.rd .svcLogNext + 1
          ∧ t = { u with regs := t.regs, links := t.links, sram := t.sram, rr16 := t.rr16 } ∧ (t.link l).out = []
          ∧ (t.link l).sent = [])
    ∧ (∀ (l : Fin 6) (seq : Nat) (s : State), s.linksOn = true → s.linkState l = 4 → ∃ t, exec (.linkAck l seq false) s = .next t
        ∧ t = { s with links := t.links } ∧ t.link l = { s.link l with sent := (s.link l).sent.filter (fun x => x.seq ≠ seq) }
        ∧ ∀ m, m ≠ l.val → t.link m = s.link m)
    ∧ (∀ (l : Fin 6) (seq : Nat) (s : State), s.linksOn = true → s.linkState l = 4 →
        ((∀ x ∈ (s.link l).sent, x.seq ≠ seq) → exec (.linkAck l seq true) s = .next s)
        ∧ ∀ x, (s.link l).sent.find? (fun y => y.seq == seq) = some x → ∃ t, exec (.linkAck l seq true) s = .next t
          ∧ (x.tries + 1 < 8 → t = { s with links := t.links } ∧ t.link l = { s.link l with
              wire := some x.frame
              sent := (s.link l).sent.map (fun y => if y.seq = seq then { y with at_ := s.up, tries := y.tries + 1 } else y) })
          ∧ (8 ≤ x.tries + 1 → (∀ y ∈ (t.link l).sent, y.seq ≠ seq)
              ∧ t.rdn .lnkCntRetry l = min (2 ^ 32 - 1) (s.rdn .lnkCntRetry l + 1)))
    ∧ (∀ (l : Fin 6) (x : Sent) (s : State), s.linksOn = true → s.linkState l = 4 → firstSent (s.link l).sent = some x →
        let u := s.elapseTo (x.at_ + 2000)
        ∃ t, exec (.replayTimeout l) s = .next t ∧ t.up = u.up ∧ t.mode = s.mode
          ∧ (x.tries + 1 < 8 → t = { u with links := t.links } ∧ t.link l = { s.link l with
              wire := some x.frame
              sent := (s.link l).sent.map (fun y => if y.seq = x.seq then { y with at_ := u.up, tries := y.tries + 1 } else y) })
          ∧ (8 ≤ x.tries + 1 → (∀ y ∈ (t.link l).sent, y.seq ≠ x.seq)
              ∧ t.rdn .lnkCntRetry l = min (2 ^ 32 - 1) (s.rdn .lnkCntRetry l + 1)))
    ∧ (∀ (mgmt : Bool) (s : State), s.power = true → s.mode ≠ .dormant →
        let p := if mgmt then 1000000 else 1000
        let u := if s.mode = .boot then s.elapseTo ((s.up / p + 1) * p) else s.advanceTo (s.nextInterval p)
        ∃ t, exec (.rateInterval mgmt) s = .next t ∧ t = { u with links := t.links }
          ∧ ∀ l, t.link l = (if mgmt then { s.link l with mgmtN := 0 } else { s.link l with decN := 0, synN := 0 }))
    ∧ ∀ s : State, s.power = true → s.mode ≠ .dormant →
        let u := if s.mode = .boot then s.elapseTo ((s.up / 1000000 + 1) * 1000000) else s.advanceTo (s.nextInterval 1000000)
        ∃ t, exec .errorInterval s = .next t ∧ t = { u with links := t.links } ∧ ∀ l, t.link l = { s.link l with errs := 0 }

/-- What frames do that arrive on a link that takes their class. A DECISION frame counts its bad copies; from a good one that holds
and is within its rate it reaches its import, the cue 13 ticks later, or sets out for the next device, but not after 24 hops.
SYNDROME, BULK and MGMT frames are refused for a bad CRC; those that hold and are within their rate, if for another device, go on
in the same way, and if for this one, a digest, a join, a partner's growth or its result reaches the Quarry, a BULK WRITE its window
and nothing outside it, a notice the links and faces it is about. The first TIME frame of a period from the root's direction brings
its domain's offset and goes on, and further ones are discarded. A peer copy begins with its first frames. -/
def Obligations.FramesArrive : Prop :=
  (∀ (l : Fin 6) (a b : BitVec 128) (s : State), s.takesClass l 1 = true →
      let copies := if s.fld (lnkStatVer l) = 1 then [a] else [a, b]
      ∃ t, exec (.decisionFrame l a b) s = .next t ∧ t.mode = s.mode ∧ t.bulk = s.bulk ∧ t.engs = s.engs
        ∧ t.rdn .lnkCntCrc l = min (2 ^ 32 - 1) (s.rdn .lnkCntCrc l + (copies.filter (fun w => !copyOk w)).length)
        ∧ (copies.find? copyOk = none → t.rdn .lnkCntLoss l = min (2 ^ 32 - 1) (s.rdn .lnkCntLoss l + 1) ∧ t.aliveIn = s.aliveIn)
        ∧ ∀ w, copies.find? copyOk = some w → flit w 127 124 = 1 → flit w 69 64 = 0 → s.addrOk w = true →
            (s.link l).decN < max 1 (s.fldIn (lnkRateDec l) s.now) →
            (t.link l).decN = (s.link l).decN + 1 ∧ t.sram = s.sram
            ∧ (flit w 114 106 = s.ownId →
                let j := flit w 100 95
                let r := s.rd .cueRmt j
                ((r.bit 31 && r.bits 24 16 == flit w 123 115) = false →
                  t.due = s.due ∧ t.fld (cueRmtBadCnt j) = min (2 ^ 16 - 1) (s.fld (cueRmtBadCnt j) + 1))
                ∧ ((r.bit 31 && r.bits 24 16 == flit w 123 115) = true → tabFind s.aliveIn j = some (flit w 74 71) →
                  t.due = s.due ∧ t.rdn .lnkDecRepeat = min (2 ^ 32 - 1) (s.rdn .lnkDecRepeat + 1))
                ∧ ((r.bit 31 && r.bits 24 16 == flit w 123 115) = true → tabFind s.aliveIn j ≠ some (flit w 74 71) →
                  t.due = s.due ++ [⟨s.now + 13, 840 + j⟩] ∧ tabFind t.aliveIn j = some (flit w 74 71)
                  ∧ (w.getLsbD 94 = true → r.bit 30 = true → t.verdictAt (256 + flit w 93 86) (s.now + 13)
                      = some ⟨flit w 85 78, w.getLsbD 77, flit w 76 75, w.getLsbD 70⟩)))
            ∧ (flit w 114 106 ≠ s.ownId → s.forwards = true → flit w 105 101 = 24 →
                t.links = (s.modLink l (fun x => { x with decN := x.decN + 1 })).links
                  ∧ t.rdn .lnkNoroute = min (2 ^ 32 - 1) (s.rdn .lnkNoroute + 1))
            ∧ (∀ o, flit w 114 106 ≠ s.ownId → s.forwards = true → flit w 105 101 < 24 → s.unavailTo (flit w 114 106) = false →
                s.route (flit w 114 106) (some l) = some o →
                t.due = s.due ∧ (t.link o).pipe = (s.link o).pipe ++ [(s.up + 18, s.onLink o (hopDecision w))]))
    ∧ (∀ (i : Instr) (l : Fin 6) (fr : Frame) (x : SkewStamps) (cls : Nat) (s : State),
        (i = .syndromeFrame l fr ∧ cls = 2 ∨ i = .bulkFrame l fr ∧ cls = 3 ∨ i = .mgmtFrame l fr x ∧ cls = 5) →
        (s.takesClass l cls = false → exec i s = .next s)
        ∧ (s.takesClass l cls = true → crcOk fr = false → hasRoom s l 0 1 → ∃ t, exec i s = .next t
            ∧ t = { s with links := t.links } ∧ t.link l = { s.link l with out := (s.link l).out ++ [.msg .refuse] })
        ∧ (s.takesClass l cls = true → crcOk fr = true → flit fr.header 127 124 = cls → typeOk fr = true →
            s.addrOk fr.header = true → flit fr.header 114 106 = s.ownId → hasRoom s l 0 1 →
            ∃ t, exec i s = .next t ∧ t.mode = s.mode ∧ t.engs = s.engs ∧ t.flash = s.flash
              ∧ (cls = 2 → (s.link l).synN < max 1 (s.fldIn (lnkRateSyn l) s.now) → ∀ f, (List.range 6).find? (fun f => s.flag (qryFaceEn f)
                    && s.fld (qryFacePartner f) == flit fr.header 123 115) = some f →
                  (flit fr.header 100 96 = 1 → tabFind t.qry.digests f = some ((fr.payload.headD 0).toNat % 2 ^ 32))
                  ∧ ∀ d, flit fr.header 100 96 = 2 → s.fld qryStatState ≠ 3 → s.qry.dec = some d →
                      d.hc = flit fr.header 87 72 → f ∈ d.faces → f ∉ d.late → f ∉ d.joined →
                      t.qry.dec = some { d with joined := d.joined ++ [f] })
              ∧ (cls = 2 → (s.link l).synN < max 1 (s.fldIn (lnkRateSyn l) s.now) → ∀ f, (List.range 6).find? (fun f => s.flag (qryFaceEn f)
                    && s.fld (qryFacePartner f) == flit fr.header 123 115) = some f →
                  (flit fr.header 100 96 = 3 → tabFind s.qry.grown f = none →
                    tabFind t.qry.grown f = some (flit fr.header 87 72, flitWords fr.payload))
                  ∧ (flit fr.header 100 96 = 4 →
                    tabFind t.qry.results f = some (flit fr.header 87 72, (flitWords fr.payload).headD 0 |>.bits 15 0)))
              ∧ (cls = 3 → flit fr.header 100 96 = 1 → s.inWindow fr = true →
                  bulkKept s t (flit fr.header 87 40) (16 * fr.payload.length)
                  ∧ ∀ k, k < 16 * fr.payload.length → s.bulkServed (flit fr.header 87 40 + k) = true →
                      memByte t.bulk (flit fr.header 87 40 + k) = (fr.payload.flatMap flitBytes).getD k 0)
              ∧ (cls = 5 → (s.link l).mgmtN < max 1 (s.fldIn (lnkRateMgmt l) s.now) → s.noticeOk l fr.header = true →
                  (flit fr.header 100 96 = 1 → ⟨s.now + 1, 933⟩ ∈ t.due ∧ ∀ f, f < 6 → s.flag (qryFaceEn f) = true →
                    s.fld (qryFacePartner f) = flit fr.header 123 115 → t.flag (qryFaceLost f) = true)
                  ∧ ((flit fr.header 100 96 = 2 ∨ flit fr.header 100 96 = 4) →
                      ∀ m ∈ s.linksOf (flit fr.header 123 115), t.nbrUnavail m = true)
                  ∧ (flit fr.header 100 96 = 3 → ∀ m ∈ s.linksOf (flit fr.header 123 115),
                      t.nbrUnavail m = true ∧ ∀ v, t.up < v → { t with up := v }.nbrUnavail m = false)))
        ∧ (s.takesClass l cls = true → crcOk fr = true → flit fr.header 127 124 = cls → typeOk fr = true →
            s.addrOk fr.header = true → flit fr.header 114 106 ≠ s.ownId → s.forwards = true → hasRoom s l 0 1 →
            (cls = 2 → (s.link l).synN < max 1 (s.fldIn (lnkRateSyn l) s.now)) → (cls = 5 → (s.link l).mgmtN < max 1 (s.fldIn (lnkRateMgmt l) s.now)) →
            ∃ t, exec i s = .next t ∧ t = { s with regs := t.regs, links := t.links }
              ∧ (flit fr.header 105 101 = 24 → t.rdn .lnkNoroute = min (2 ^ 32 - 1) (s.rdn .lnkNoroute + 1)
                  ∧ ∀ o, o ≠ l.val → t.link o = s.link o)
              ∧ ∀ o, flit fr.header 105 101 < 24 → s.unavailTo (flit fr.header 114 106) = false → cls ≠ 5 →
                  s.route (flit fr.header 114 106) (some l) = some o →
                  (cls = 2 → s.fld (lnkStatVer o) = 1 → o ≠ l.val → t.link o = s.link o)
                  ∧ ((cls = 2 → s.fld (lnkStatVer o) ≠ 1) → hasRoom s o cls (1 + fr.payload.length) →
                    .flits cls (hopHeader fr.header fr.payload) fr.payload ∈ (t.link o).out)))
    ∧ (∀ (l : Fin 6) (fr : Frame) (s : State), s.takesClass l 3 = true → crcOk fr = true → flit fr.header 127 124 = 3 →
        typeOk fr = true → s.addrOk fr.header = true → flit fr.header 114 106 = s.ownId → flit fr.header 100 96 = 1 →
        s.inWindow fr = false → ∃ t, exec (.bulkFrame l fr) s = .next t ∧ t.bulk = s.bulk ∧ t.mode = s.mode
          ∧ t.rdn .lnkCntVal l = min (2 ^ 32 - 1) (s.rdn .lnkCntVal l + 1))
    ∧ (∀ (l : Fin 6) (fr : Frame) (s : State), s.takesClass l 4 = true → crcOk fr = true →
        flit fr.header 127 124 = 4 → flit fr.header 100 96 = 1 → flit fr.header 95 88 = 2 → fr.payload.length = 2 →
        flit fr.header 114 106 = 0x1FF → flit fr.header 105 101 ≤ 24 → s.inArray (flit fr.header 123 115) = true →
        flit fr.header 123 115 ≠ s.ownId →
        let b := fr.header.getLsbD 87
        s.flag (if b then clkTimeCtrlRootB else clkTimeCtrlRootA) = false →
        flit fr.header 86 78 = s.fldIn (if b then lnkTimeRootRootB else lnkTimeRootRootA) s.now →
        s.route (flit fr.header 86 78) none = some l.val →
        let off := s.timeOffset fr
        ((s.dom b).taken = s.now / 2 ^ 20 + 1 → exec (.timeFrame l fr) s = .next s)
        ∧ ((s.dom b).taken ≠ s.now / 2 ^ 20 + 1 → ∃ t h p, exec (.timeFrame l fr) s = .next t
          ∧ t = { s with regs := t.regs, links := t.links, domA := t.domA, domB := t.domB }
          ∧ t.dom b = (if s.domSrc b = 2 then { s.dom b with
                present := true, offset := off, at_ := s.up, taken := s.now / 2 ^ 20 + 1,
                freq := Config.domFreq (s.dom b).freq (s.dom b).offset off (s.up - (s.dom b).at_) }
              else { s.dom b with taken := s.now / 2 ^ 20 + 1 })
          ∧ flit h 105 101 = flit fr.header 105 101 + 1 ∧ p.length = 2 ∧ p.headD 0 = fr.payload.headD 0
          ∧ t.dom (!b) = s.dom (!b)
          ∧ (∀ o, o < 6 → o ≠ l.val → s.forwards = true → flit fr.header 105 101 < 24 → s.linkState o = 4 → hasRoom s o 4 3 →
              (t.link o).out = (s.link o).out ++ [.time h p (some s.up)])
          ∧ (s.forwards = true → flit fr.header 105 101 = 24 → t.links = s.links
              ∧ t.rdn .lnkNoroute = min (2 ^ 32 - 1) (s.rdn .lnkNoroute + 1))
          ∧ t.link l = s.link l))
    ∧ ∀ s : State, s.power = true → s.sendsOwn = true → s.flag lnkBxfCtrlBusy = false →
        let dev := s.fld lnkBxfCtrlDstDev
        ∃ t, exec .bxfGo s = .next t ∧ t = { s with regs := t.regs, links := t.links, bxf := t.bxf, free := t.free }
          ∧ (s.rdn .lnkBxfLen < 64 → t.flag lnkBxfCtrlBusy = false ∧ t.fld lnkBxfCtrlResult = 0 ∧ t.bxf = none)
          ∧ (64 ≤ s.rdn .lnkBxfLen → (s.unavailTo dev = true ∨ s.route dev none = none) → t.flag lnkBxfCtrlBusy = false
              ∧ t.fld lnkBxfCtrlResult = 2 ∧ t.bxf = none ∧ t.links = s.links)
          ∧ ∀ l, 64 ≤ s.rdn .lnkBxfLen → s.unavailTo dev = false → s.route dev none = some l → hasRoom s l 3 17 →
              t.flag lnkBxfCtrlBusy = true ∧ ∃ x, t.bxf = some x ∧ x.dev = dev ∧ 0 < x.sent ∧ 0 < x.owed
                ∧ x.len = s.rdn .lnkBxfLen / 64 * 64

/-! The host's rings and port, and bulk memory. -/

/-- A doorbell sets TAIL, or TAIL_BAD where the ring cannot hold what it claims. A command read moves HEAD on: ENTER_SAFE is
executed, another joins the queue behind those that wait or, at 64, completes with BUSY. An acknowledgement consumes all entries
up to k, or is ignored and sets ACK_BAD, and in DORMANT or without power does nothing; setting EN restarts a ring; the oldest buffered notice moves to RR16. -/
def Obligations.HostRings : Prop :=
  (∀ (v : BitVec 16) (s : State), s.power = true →
      let n := (v.toNat + 65536 - s.fld hstCmdHeadHead) % 65536
      ∃ t, exec (.tailWrite v) s = .next t
        ∧ (n ≤ 2 ^ s.fld hstCmdCfgLog2 → fieldsOnly s t [hstCmdTailTail] ∧ t.fld hstCmdTailTail = v.toNat)
        ∧ (2 ^ s.fld hstCmdCfgLog2 < n → fieldsOnly s t [hstCmdHeadTailBad] ∧ t.flag hstCmdHeadTailBad = true))
    ∧ (∀ (ws : List Word) (s : State), ws.length ≠ 16 → exec (.commandFetch ws) s = .fault .illFormed)
    ∧ (∀ (ws : List Word) (s : State), ws.length = 16 → s.fetches = true →
        let op := (ws.headD 0).bits 7 0
        let c := cmdOf ws
        ∃ u t, exec (.commandFetch ws) s = .next t ∧ fieldsOnly s u [hstCmdHeadHead]
          ∧ u.fld hstCmdHeadHead = (s.fld hstCmdHeadHead + 1) % 65536
          ∧ (op = 0x16 → exec (.enterSafe c) u = .next t)
          ∧ (op ≠ 0x16 → 64 ≤ s.adminQ.length → completed u t c.tag op .busy)
          ∧ (op ≠ 0x16 → s.adminQ.length < 64 → (s.callerServing = false ∨ s.adminQ = [] ∧ (legalModes op).isSome = true
                ∨ ∃ q ∈ s.adminQ.head?, (legalModes q.opcode).isSome = true) →
              t = { u with regs := t.regs, adminQ := s.adminQ ++ [⟨c.tag, op, c.rsvd, ws.drop 1⟩] }
                ∧ bitsKept u t [glbCallerLoadQmax]))
    ∧ (∀ (r : RingId) (k : BitVec 28) (s : State), s.alive = false → exec (.ringAck r k) s = .next s)
    ∧ (∀ (k : BitVec 28) (s : State), s.alive = true → exec (.ringAck .cmd k) s = .next s
        ∧ (∀ j, 1 ≤ j → j ≤ s.cpls.length → s.cplOn = true → (k.toNat + 2 ^ 28 - s.cplAck) % 2 ^ 28 = j →
            ∃ t, exec (.ringAck .cpl k) s = .next t
              ∧ t = { s with cpls := s.cpls.drop j, cplAck := k.toNat, lastCpl := s.cpls[j - 1]? })
        ∧ ((s.cplOn = false ∨ (k.toNat + 2 ^ 28 - s.cplAck) % 2 ^ 28 = 0 ∨ s.cpls.length < (k.toNat + 2 ^ 28 - s.cplAck) % 2 ^ 28) →
            ∃ t, exec (.ringAck .cpl k) s = .next t ∧ fieldsOnly s t [hstCplStatAckBad] ∧ t.flag hstCplStatAckBad = true)
        ∧ ∀ n : Fin 17, (∀ a b e, s.ringEntries n = a ++ (k.toNat, e) :: b → (∀ x ∈ a, x.1 ≠ k.toNat) →
              ∃ t, exec (.ringAck (.rr n) k) s = .next t ∧ t = { s with hostRing := t.hostRing } ∧ t.ringEntries n = b
                ∧ ∀ m, m ≠ n.val → t.ringEntries m = s.ringEntries m)
            ∧ ((∀ e ∈ s.ringEntries n, e.1 ≠ k.toNat) → ∃ t, exec (.ringAck (.rr n) k) s = .next t
                ∧ fieldsOnly s t [hstRrStatAckBad n] ∧ t.flag (hstRrStatAckBad n) = true))
    ∧ (∀ s : State, s.alive = true →
        (s.flag hstCmdCfgEn = false → ∃ t, exec (.ringEnable .cmd) s = .next t ∧ fieldsOnly s t [hstCmdCfgEn, hstCmdHeadHead]
          ∧ t.flag hstCmdCfgEn = true ∧ t.fld hstCmdHeadHead = s.fld hstCmdTailTail)
        ∧ (s.flag hstCplCfgEn = false → ∃ t, exec (.ringEnable .cpl) s = .next t
          ∧ t = { s with regs := t.regs, cplAck := 0, msix := t.msix } ∧ bitsKept s t [hstCplCfgEn] ∧ t.flag hstCplCfgEn = true)
        ∧ ∀ n : Fin 17, s.flag (hstRrCfgEn n) = false → ∃ t, exec (.ringEnable (.rr n)) s = .next t
          ∧ t = { s with regs := t.regs, hostRing := t.hostRing } ∧ bitsKept s t [hstRrCfgEn n, hstRrStatProd n]
          ∧ t.flag (hstRrCfgEn n) = true ∧ t.fld (hstRrStatProd n) = 0 ∧ t.ringEntries n = [])
    ∧ ∀ (w : List Word) (ws : List (List Word)) (s : State), s.rr16 = w :: ws → s.power = true → s.ringFull 16 = false →
        let k := (s.fld (hstRrStatProd 16) + 1) % 2 ^ 28
        ∃ t, exec .rr16Post s = .next t ∧ t = { s with rr16 := ws, regs := t.regs, hostRing := t.hostRing, msix := t.msix }
          ∧ bitsKept s t [hstRrStatProd 16] ∧ t.fld (hstRrStatProd 16) = k
          ∧ t.ringEntries 16 = s.ringEntries 16 ++ [(k, (pad16 w).take 15 ++ [BitVec.ofNat 32 (9 * 2 ^ 28 + k)])]

/-- A waiting vector is sent, a microsecond after its last message at the earliest. Losing the link clears configuration, IDE and
ring enables and nothing else; reaching it sets mode, speed and width; an IDE failure takes its stream out and stops fetching, which new
keys lift. Ethernet control changes drop the link; register and engine-memory writes take what their rules allow. -/
def Obligations.HostPort : Prop :=
  (∀ (v : Fin 20) (s : State), s.power = true → v.val ∈ s.msix → ∃ t, exec (.msixSend v) s = .next t ∧ v.val ∉ t.msix
      ∧ (∀ x, x ≠ v.val → (x ∈ t.msix ↔ x ∈ s.msix)) ∧ tabFind t.msixLast v = some t.up ∧ s.up ≤ t.up
      ∧ (∀ u, tabFind s.msixLast v = some u → u + 1000 ≤ t.up) ∧ t.mode = s.mode ∧ t.cpls = s.cpls ∧ t.bulk = s.bulk)
    ∧ (∀ s : State, s.power = true → ∃ t, exec .hostLinkDown s = .next t
        ∧ t = { s with regs := t.regs, msix := [], msixLast := [], ideStop := false, spdm := {} }
        ∧ bitsKept s t ([hstCmdCfgEn, hstCplCfgEn, hstLinkStatIdeIo, hstLinkStatIdeCm] ++ (List.range 17).map hstRrCfgEn)
        ∧ t.flag hstCmdCfgEn = false ∧ t.flag hstCplCfgEn = false ∧ t.flag hstLinkStatIdeIo = false
        ∧ t.flag hstLinkStatIdeCm = false ∧ ∀ n, n < 17 → t.flag (hstRrCfgEn n) = false)
    ∧ (∀ (cxl : Bool) (sp : BitVec 2) (w : Fin 9) (s : State), s.power = true → sp ≠ 0 → w.val ∈ [1, 2, 4, 8] →
        ∃ t, exec (.hostLinkUp cxl sp w) s = .next t ∧ fieldsOnly s t [hstLinkStatCxl, hstLinkStatSpeed, hstLinkStatWidth]
          ∧ t.flag hstLinkStatCxl = cxl ∧ t.fld hstLinkStatSpeed = sp.toNat ∧ t.fld hstLinkStatWidth = w.val)
    ∧ (∀ (cxl : Bool) (s : State), s.power = true → s.flag (ideBit cxl) = true →
        ∃ t, exec (.ideFailure cxl) s = .next t ∧ t.flag (ideBit cxl) = false ∧ t.flag (ideBit (!cxl)) = s.flag (ideBit (!cxl))
          ∧ t.flag hstLinkStatIdeFail = true ∧ t.ideStop = true ∧ 19 ∈ t.msix ∧ t.fetches = false
          ∧ t.rd .svcLogNext = s.rd .svcLogNext + 1
          ∧ t = { s with regs := t.regs, msix := t.msix, ideStop := true, sram := t.sram, rr16 := t.rr16 }
          ∧ sramKept s t 0x0C500000 0x20000)
    ∧ (∀ (q : SpdmReq) (s : State), s.alive = true → ∃ t, exec (.spdmRequest q) s = .next t
        ∧ ((∀ cxl, q ≠ .ideKeyProg cxl) → t = { s with spdm := t.spdm })
        ∧ (q = .getMeasurements 5 → t.spdm = { s.spdm with answer := some [(5, if (s.rd .ucsOpenVer 1).bit 31 then
              (List.range 12).map (fun w => s.rd .ucsOpenDig 1 w) else List.replicate 12 0)] })
        ∧ (q = .finish true → s.spdm.keyed = true → t.spdm.session = true)
        ∧ (q = .unsupported → t.spdm.answer = none)
        ∧ ∀ cxl, q = .ideKeyProg cxl →
            (s.spdm.session = false → t = { s with spdm := { s.spdm with answer := none } })
            ∧ (s.spdm.session = true → cxl = true → s.flag hstLinkStatCxl = true →
                t = { s with regs := t.regs, spdm := { s.spdm with answer := some [] }, ideStop := false, msix := t.msix }
                  ∧ (t.msix = s.msix ∨ t.msix = s.msix ++ [0]) ∧ bitsKept s t [hstLinkStatIdeCm] ∧ t.flag hstLinkStatIdeCm = true)
            ∧ (s.spdm.session = true → cxl = true → s.flag hstLinkStatCxl = false → t = { s with spdm := { s.spdm with answer := none } })
            ∧ (s.spdm.session = true → cxl = false →
                t = { s with regs := t.regs, spdm := { s.spdm with answer := some [] }, ideStop := false, msix := t.msix }
                  ∧ (t.msix = s.msix ∨ t.msix = s.msix ++ [0]) ∧ bitsKept s t [hstLinkStatIdeIo] ∧ t.flag hstLinkStatIdeIo = true))
    ∧ (∀ (v : Word) (s : State), s.alive = true → s.mode ≠ .boot → ∃ t, exec (.ethCtrlWrite v) s = .next t
        ∧ t = { s with regs := t.regs, domA := t.domA, domB := t.domB } ∧ t.rd .ethCtrl = (s.writeOwn ⟨.ethCtrl, 0, 0⟩ v).rd .ethCtrl
        ∧ (t.rd .ethCtrl = s.rd .ethCtrl → t = s)
        ∧ (t.rd .ethCtrl ≠ s.rd .ethCtrl → t.flag ethStatLink = false ∧ t.fld ethStatSpeed = t.fld ethCtrlMode
          ∧ ∀ b, s.domSrc b = 1 → t.flag (clkDomStatLocked (b2n b)) = false))
    ∧ (∀ (a : BitVec 24) (n : Nat) (v : BitVec 64) (s : State), a.toNat % 4 ≠ 0 ∨ n ≠ 4 ∧ n ≠ 8 →
        exec (.registerWrite a n v) s = .next s)
    ∧ (∀ (a : BitVec 24) (v : BitVec 64) (s : State), s.answers a.toNat = false ∨ regAt a.toNat = none →
        exec (.registerWrite a 4 v) s = .next s)
    ∧ (∀ (a : BitVec 24) (v : BitVec 64) (s : State), a.toNat % 4 = 0 → a.toNat + 4 < 2 ^ 24 →
        ∃ u t, exec (.registerWrite a 4 v) s = .next u ∧ exec (.registerWrite (a + 4) 4 (v >>> 32)) u = .next t
          ∧ exec (.registerWrite a 8 v) s = .next t)
    ∧ (∀ (a : BitVec 24) (v : BitVec 64) (s : State) (r : Reg), s.answers a.toNat = true → regAt a.toNat = some r → r.k = .engG →
        0x400000 ≤ r.addr → a.toNat % 4 = 0 →
        let p := s.windowPhys r.i
        (s.eng (s.logical p)).accFuel = 0 →
        ∃ t, exec (.registerWrite a 4 v) s = .next t ∧ t = { s with engs := t.engs, wrOld := t.wrOld, wrTick := some s.now }
          ∧ t.engP p = (if liveState (s.engP p).state then s.engP p else (s.engP p).setReg r.j (v.setWidth 32))
          ∧ ∀ q, q ≠ p → t.engP q = s.engP q)
    ∧ (∀ (a : BitVec 24) (v : BitVec 64) (s : State) (r : Reg), s.answers a.toNat = true → regAt a.toNat = some r →
        (∀ f ∈ r.k.fields, (f.acc = .ro ∨ f.acc = .rw) ∧ f.bad = []) → r.k ≠ .clkTimeCtrl →
        (r.k ≠ .talPos ∧ r.k ≠ .talRunLo ∧ r.k ≠ .talRunHi ∧ r.k ≠ .talAlive) → s.regListed r = true → r.addr < 0x400000 →
        a.toNat % 4 = 0 → ∃ t, exec (.registerWrite a 4 v) s = .next t
          ∧ t = { s with regs := t.regs, wrOld := t.wrOld, wrTick := some s.now } ∧ regsKept s t [r]
          ∧ (s.wrTick ≠ some s.now → t.wrOld = s.regs) ∧ (s.wrTick = some s.now → t.wrOld = s.wrOld)
          ∧ ∀ i, i < 32 → (t.reg r).getLsbD i = if r.k.fields.any (fun f => f.acc == .rw && decide (f.lo ≤ i)
              && decide (i ≤ f.hi) && s.winOpen r f.win) then v.getLsbD i else (s.reg r).getLsbD i)
    ∧ ∀ (off : BitVec 29) (w : Word) (s : State), s.alive = true → off.toNat % 4 = 0 →
        ∃ t, exec (.engineMemoryWrite off [w]) s = .next t
          ∧ (s.engDataAt off.toNat = none → t = s)
          ∧ ∀ p x, s.engDataAt off.toNat = some (p, x) →
              (memTakes (s.engP p).state = true →
                let u := s.meSeen (s.logical p)
                memWord t.sram x = w ∧ sramKept u t x 4 ∧ tabFind t.upsets (x - x % 8) = none
                  ∧ t = { u with sram := t.sram, upsets := t.upsets, engs := t.engs }
                  ∧ ((s.eng (s.logical p)).accFuel = 0 → t = { s with sram := t.sram, upsets := t.upsets }))
              ∧ (memTakes (s.engP p).state = false → t = s)

/-- A host access to usable memory stores or answers its bytes; beyond it a CXL read is poisoned, a window read all ones, a write
dropped, and each counts. A request is served with what its line shows: an uncorrectable error poisons it and fires cue 934. -/
def Obligations.BulkAccesses : Prop :=
  (∀ (w : Bool) (a : Nat) (d : List Byte) (s : State), s.power = true → s.flag hstLinkStatCxl = true → s.mode ≠ .dormant →
      let u := s.advanceTo s.mem.stallTo
      ∃ t, exec (.hdmAccess w a d) s = .next t ∧ t.now = u.now ∧ bulkKept s t a d.length
        ∧ t = { u with mem := t.mem, bulk := t.bulk, poison := t.poison, answer := t.answer, regs := t.regs }
        ∧ (u.bulkUsable a d.length = true → w = true → t.answer = s.answer ∧ t.regs = u.regs
            ∧ ∀ k, k < d.length → memByte t.bulk (a + k) = d.getD k 0)
        ∧ (u.bulkUsable a d.length = true → w = false → t.bulk = s.bulk ∧ t.regs = u.regs
            ∧ t.answer = some (s.bulkBytes a d.length, !s.notPoisoned a d.length))
        ∧ (u.bulkUsable a d.length = false → t.bulk = s.bulk ∧ regsKept u t [⟨.hstPoisonCnt, 0, 0⟩]
            ∧ t.rdn .hstPoisonCnt = min (2 ^ 32 - 1) (u.rdn .hstPoisonCnt + 1)
            ∧ (w = false → ∃ bs, t.answer = some (bs, true)))
        ∧ ∀ g, u.groupOf a = some g → t.mem.selfRef.getLsbD g = false)
    ∧ (∀ (w : Bool) (o : BitVec 32) (d : List Byte) (s : State), s.power = true → s.mode ≠ .dormant →
        let u := s.advanceTo s.mem.stallTo
        let a := s.fld hstBwinBase * 2 ^ 32 + o.toNat
        ∃ t, exec (.bar4Access w o d) s = .next t ∧ t.now = u.now ∧ bulkKept s t a d.length
          ∧ t = { u with mem := t.mem, bulk := t.bulk, poison := t.poison, answer := t.answer, regs := t.regs }
          ∧ (u.bulkUsable a d.length = true → w = true → t.answer = s.answer ∧ ∀ k, k < d.length →
              memByte t.bulk (a + k) = d.getD k 0)
          ∧ (u.bulkUsable a d.length = true → w = false → t.bulk = s.bulk ∧ t.answer
              = some (if s.notPoisoned a d.length then s.bulkBytes a d.length else d.map (fun _ => 0xFF), false))
          ∧ (u.bulkUsable a d.length = false → t.bulk = s.bulk ∧ (w = false → t.answer = some (d.map (fun _ => 0xFF), false)))
          ∧ (s.groupOf a = none → t.regs = u.regs))
    ∧ (∀ (a : Nat) (o : BitVec 32) (d : List Byte) (s : State), s.power = true → s.mode = .dormant →
        (s.flag hstLinkStatCxl = true → exec (.hdmAccess true a d) s = .next s
          ∧ exec (.hdmAccess false a d) s = .next { s with answer := some (d, true) })
        ∧ exec (.bar4Access true o d) s = .next s
        ∧ exec (.bar4Access false o d) s = .next { s with answer := some (d.map (fun _ => 0xFF), false) })
    ∧ ∀ (src : BulkSrc) (w : Bool) (a : Nat) (d : List Byte) (e : EccEvent) (s : State), s.memUp = true →
        let u := s.advanceTo s.mem.stallTo
        ∃ t, exec (.bulkRequest src w a d e) s = .next t ∧ t.now = u.now ∧ t.mode = s.mode ∧ t.engs = u.engs
          ∧ bulkKept s t a d.length
          ∧ (u.bulkUsable a d.length = false → t.bulk = s.bulk ∧ t.poison = s.poison
              ∧ t.rdn .hstPoisonCnt = min (2 ^ 32 - 1) (u.rdn .hstPoisonCnt + 1))
          ∧ (u.bulkUsable a d.length = true → e ≠ .uncorrectable →
              (w = true → ∀ k, k < d.length → memByte t.bulk (a + k) = d.getD k 0)
              ∧ (w = false → t.bulk = s.bulk ∧ t.answer = some (s.bulkBytes a d.length, !s.notPoisoned a d.length))
              ∧ t.rdn .memEccCe = (if e = .corrected then min (2 ^ 32 - 1) (u.rdn .memEccCe + 1) else u.rdn .memEccCe))
          ∧ (u.bulkUsable a d.length = true → 0 < d.length → e = .uncorrectable → ⟨u.now + 1, 934⟩ ∈ t.due
              ∧ t.rdn .memEccUe = min (2 ^ 32 - 1) (u.rdn .memEccUe + 1)
              ∧ t.rd64 .memErrLo .memErrHi = a / 64 * 64 % 2 ^ 64
              ∧ (w = false → a / 64 ∈ t.poison ∧ t.bulk = s.bulk ∧ ∃ bs, t.answer = some (bs, true)))

/-- A refresh stalls every requester for 280 ticks, at the start of the schedule and at the multiples of 3,904 or 1,952; in BOOT the
schedule runs on elapsed ticks. Interval ends, margin tracking by one code
at most, patrol scrubbing, idle self-refresh after 100 microseconds, temperature reports, and row throttling, which takes the
credits of every source but refills and acquisition until HOLD has passed. -/
def Obligations.MemoryUpkeep : Prop :=
  (∀ s : State, s.memUp = true →
      let p := if s.flag memStatRefX2 then 1952 else 3904
      let at_ := if s.mem.stallTo = 0 then max s.now s.ttFrom else (s.now / p + 1) * p
      let u := s.advanceTo at_
      ∃ t, exec .refresh s = .next t ∧ t = { u with mem := { u.mem with stallTo := at_ + 280 } } ∧ t.bulk = s.bulk ∧ t.mode = s.mode)
    ∧ (∀ s : State, s.power = true → s.mode = .boot →
        let p := if s.flag memStatRefX2 then 1952 else 3904
        exec .refresh s = .next (s.elapseTo ((s.up / p + 1) * p)))
    ∧ (∀ s : State, s.power = true → s.mode ≠ .dormant →
        let u := if s.mode = .boot then s.elapseTo ((s.up / 1000000 + 1) * 1000000) else s.advanceTo (s.nextInterval 1000000)
        ∃ t, exec .memErrorInterval s = .next t ∧ t = { u with mem := { s.mem with ue := [] } }
          ∧ 1000000 ∣ s.nextInterval 1000000 ∧ s.now < s.nextInterval 1000000)
    ∧ (∀ (c : Fin 16) (r0 r1 wr : Int) (m : BitVec 7) (s0 u s : State), s0.memUp = true →
        (s0.fld memStatInService).testBit (c.val / 4) = true → u = s0.elapseTo (tabGet s0.mem.margins c 0 + 1000000) →
        s = { u with mem := { u.mem with margins := tabPut u.mem.margins c u.up } } →
        ∃ t, exec (.marginTrack c r0 r1 wr m) s0 = .next t
          ∧ t.fld (memChDlyMargin c) = min (s.fld (memChDlyMargin c)) m.toNat
          ∧ (s.flag memCtrlXen = true → t.fld (memChDlyRd0 c) = s.fld (memChDlyRd0 c)
              ∧ t.fld (memChDlyRd1 c) = s.fld (memChDlyRd1 c) ∧ t.fld (memChDlyWr c) = s.fld (memChDlyWr c))
          ∧ (s.flag memCtrlXen = false →
              (r0 = 0 → t.fld (memChDlyRd0 c) = s.fld (memChDlyRd0 c))
              ∧ (0 < r0 → t.fld (memChDlyRd0 c) = min 127 (s.fld (memChDlyRd0 c) + 1))
              ∧ (r0 < 0 → t.fld (memChDlyRd0 c) = s.fld (memChDlyRd0 c) - 1)
              ∧ (0 < r1 → t.fld (memChDlyRd1 c) = min 127 (s.fld (memChDlyRd1 c) + 1))
              ∧ (wr < 0 → t.fld (memChDlyWr c) = s.fld (memChDlyWr c) - 1))
          ∧ (m ≠ 0 → t = { s with regs := t.regs } ∧ regsKept s t [⟨.memChDly, c, 0⟩])
          ∧ (m = 0 → (t.fld memStatInService).testBit (c.val / 4) = false ∧ (t.fld memStatLeft).testBit (c.val / 4) = true
              ∧ t.degraded = (s.mode != .boot) ∧ t.fld glbStreamStatLimit = 5 * t.groupsUp
              ∧ t.rd .svcLogNext = s.rd .svcLogNext + 1 ∧ t.bulk = s.bulk))
    ∧ (∀ (a : Nat) (e : EccEvent) (s : State), s.memUp = true → s.bulkServed a = true → ∃ t, exec (.scrub a e) s = .next t
        ∧ t.bulk = s.bulk ∧ t.tt = s.tt ∧ (e = .clean → t = s)
        ∧ (e = .corrected → t = { s with regs := t.regs } ∧ regsKept s t [⟨.memEccCe, 0, 0⟩]
            ∧ t.rdn .memEccCe = min (2 ^ 32 - 1) (s.rdn .memEccCe + 1))
        ∧ (e = .uncorrectable → a / 64 ∈ t.poison ∧ ⟨s.now + 1, 934⟩ ∈ t.due
            ∧ t.rdn .memEccUe = min (2 ^ 32 - 1) (s.rdn .memEccUe + 1)))
    ∧ (∀ (g : Fin 4) (s : State), s.memUp = true → s.flag memCtrlIdleSr = true → (s.mode = .standby ∨ s.mode = .service) →
        (s.fld memStatInService).testBit g = true → ∃ t, exec (.idleSelfRefresh g) s = .next t
          ∧ t.mem.selfRef = s.mem.selfRef ||| (1#4 <<< g.val) ∧ tabGet s.mem.lastReq g 0 + 100000 ≤ t.up ∧ s.up ≤ t.up
          ∧ t.mode = s.mode ∧ t.bulk = s.bulk)
    ∧ (∀ (k : Fin 4) (hot : Bool) (s : State), s.memUp = true → ∃ t, exec (.stackTempReport k hot) s = .next t
        ∧ t = { s with mem := { s.mem with hot := t.mem.hot }, regs := t.regs } ∧ bitsKept s t [memStatRefX2]
        ∧ (∀ x, x ∈ t.mem.hot ↔ if x = k.val then hot = true else x ∈ s.mem.hot)
        ∧ (t.flag memStatRefX2 = true ↔ t.mem.hot ≠ []))
    ∧ ∀ (src : BulkSrc) (c b : Fin 16) (r : BitVec 18) (s : State), s.memUp = true →
        ∃ t, exec (.rowThreshold src c b r) s = .next t ∧ t.rdn .memThrottleCnt = min (2 ^ 32 - 1) (s.rdn .memThrottleCnt + 1)
          ∧ regsKept s t [⟨.memThrottleCnt, 0, 0⟩] ∧ t = { s with regs := t.regs, mem := { s.mem with noCredit := t.mem.noCredit } }
          ∧ (keepsCredits src = true → t.mem.noCredit = s.mem.noCredit)
          ∧ (keepsCredits src = false → ∃ u w, (src, u) ∈ t.mem.noCredit
              ∧ u = s.up + s.xfld memCtrlXen memRhHold 1024
              ∧ exec (.creditHoldEnd src) t = .next w ∧ w.up = max t.up u ∧ (∀ x, (src, x) ∉ w.mem.noCredit)
              ∧ ∀ q x, q ≠ src → ((q, x) ∈ w.mem.noCredit ↔ (q, x) ∈ s.mem.noCredit))

/-! Instruction words, and the engines that run them without a command. -/

/-- Every instruction of J-ISA, with every value of its fields, has a word: its OP and its fields stand in it as R77 places them, and
an engine that decodes it has the instruction back; and a word that decodes is the word of what it decodes to. -/
def Obligations.InstructionWords : Prop :=
  (∀ (i : Instr) (e : Fin 1024) (op : Nat) (f : JWord), i.opcode = some (e, op, f) →
      ∃ w, encodeWord i = some w ∧ decodeWord e w = some i ∧ opOf w = op ∧ fieldsOf w = f)
    ∧ (∀ (e : Fin 1024) (w : BitVec 64) (i : Instr), decodeWord e w = some i → encodeWord i = some w)
    ∧ ∀ (e : Fin 1024) (w : BitVec 64), opOf w = w.toNat / 2 ^ 56 ∧ (fieldsOf w).pred.toNat = w.toNat / 2 ^ 53 % 8
        ∧ (fieldsOf w).pinv = w.toNat.testBit 52 ∧ (fieldsOf w).d.toNat = w.toNat / 2 ^ 47 % 32
        ∧ (fieldsOf w).a.toNat = w.toNat / 2 ^ 42 % 32 ∧ (fieldsOf w).b.toNat = w.toNat / 2 ^ 37 % 32
        ∧ (fieldsOf w).e.toNat = w.toNat / 2 ^ 32 % 32 ∧ (fieldsOf w).imm.toNat = w.toNat % 2 ^ 32
        ∧ (decodeWord e w = none ↔ opOf w ∉ [0x00, 0x01, 0x02, 0x03, 0x04, 0x05, 0x06, 0x07, 0x08, 0x09, 0x0A, 0x0B, 0x0C, 0x10,
            0x11, 0x12, 0x13, 0x14, 0x15, 0x16, 0x17, 0x18, 0x19, 0x1A, 0x1B, 0x21, 0x22, 0x23, 0x24, 0x25, 0x26, 0x27, 0x28, 0x29,
            0x2A, 0x40, 0x41, 0x42, 0x43, 0x44, 0x45, 0x46, 0x47, 0x60, 0x61, 0x62, 0x63, 0x64, 0x65, 0x66, 0x67, 0x68, 0x69, 0x6A,
            0x6B, 0x6C, 0x80, 0x81, 0x82, 0x83, 0x84, 0x85, 0x86, 0x87, 0x88, 0x89, 0x8A])

/-- With no command waiting a tick passes (the model's choice, log 142): in BOOT one, in DORMANT to the next crystal cycle, without
power none. In it an engine that is at a boundary with its cost paid, and nothing due before, issues the instruction that the word
at its PC decodes to; a word whose OP names none is ILLEGAL. -/
def Obligations.EnginesFetch : Prop :=
  (∀ s : State, s.pending = [] → step s = .next s.idleTick ∧ (s.power = false → s.idleTick = s)
      ∧ (s.power = true → s.mode = .boot → s.idleTick.up = s.up + 1)
      ∧ (s.power = true → s.mode = .dormant → s.idleTick.up = 40 * (s.up / 40 + 1)))
    ∧ (∀ (e : Fin 1024) (s t : State) (i : Instr), s.dueOf e = none → s.mayIssue e true = true → (s.eng e).ready ≤ s.now →
        decodeWord e (s.fetched e) = some i → exec i s = .next t → s.engineTick e = t)
    ∧ (∀ (e : Fin 1024) (s : State), s.dueOf e = none → (s.mayIssue e true = false ∨ s.now < (s.eng e).ready) → s.engineTick e = s)
    ∧ ∀ (e : Fin 1024) (s : State), s.dueOf e = none → atBoundary s e true → (s.eng e).ready ≤ s.now →
        decodeWord e (s.fetched e) = none → faults s (s.engineTick e) e 4
end

