-- ==== Sys2Proof/Laws/State.lean ====
section
/-! SUPPORT. What the named operations over tables, registers and engines read back: one lemma for each operation and view. -/
namespace Sys2Proof.Machine

/-! Tables. -/

@[simp] theorem tabFind_put_same {α : Type} (t : Tab α) (k : Nat) (v : α) : tabFind (tabPut t k v) k = some v := by
  induction t with
  | nil => simp [tabPut, tabFind]
  | cons x t ih => obtain ⟨i, w⟩ := x; simp only [tabPut]; split
                   · simp [tabFind]
                   · split
                     · simp [tabFind]
                     · rename_i h1 h2; simp [tabFind, Ne.symm h2, ih]

theorem tabFind_put_other {α : Type} (t : Tab α) {k j : Nat} (v : α) (h : j ≠ k) :
    tabFind (tabPut t k v) j = tabFind t j := by
  induction t with
  | nil => simp [tabPut, tabFind, Ne.symm h]
  | cons x t ih => obtain ⟨i, w⟩ := x; simp only [tabPut]; split
                   · simp [tabFind, Ne.symm h]
                   · split
                     · rename_i h1 h2; subst h2; simp [tabFind, Ne.symm h]
                     · simp only [tabFind, ih]

@[simp] theorem tabGet_put_same {α : Type} (t : Tab α) (k : Nat) (v d : α) : tabGet (tabPut t k v) k d = v := by simp [tabGet]

theorem tabGet_put_other {α : Type} (t : Tab α) {k j : Nat} (v d : α) (h : j ≠ k) :
    tabGet (tabPut t k v) j d = tabGet t j d := by simp [tabGet, tabFind_put_other t v h]

theorem tabFind_filter {α : Type} (t : Tab α) (p : Nat → Bool) (j : Nat) :
    tabFind (t.filter (fun e => p e.1)) j = if p j then tabFind t j else none := by
  induction t with
  | nil => simp [tabFind]
  | cons x t ih =>
    obtain ⟨i, w⟩ := x
    by_cases hi : p i <;> by_cases hj : i = j
    · subst hj; simp [tabFind, hi]
    · simp [hi, tabFind, hj, ih]
    · subst hj; simp [hi, ih]
    · simp [hi, tabFind, hj, ih]

@[simp] theorem tabFind_del_same {α : Type} (t : Tab α) (k : Nat) : tabFind (tabDel t k) k = none := by
  have h := tabFind_filter t (fun i => i != k) k
  simpa [tabDel] using h

theorem tabFind_del_other {α : Type} (t : Tab α) {k j : Nat} (h : j ≠ k) : tabFind (tabDel t k) j = tabFind t j := by
  have h' := tabFind_filter t (fun i => i != k) j
  simpa [tabDel, h] using h'

/-! Registers. -/

theorem regFind_put (l : List (Reg × Word)) (r q : Reg) (w : Word) :
    regFind (regPut l r w) q = if q = r then some w else regFind l q := by
  induction l with
  | nil =>
    by_cases h : q = r
    · simp [regPut, regFind, h]
    · simp [regPut, regFind, h, Ne.symm h]
  | cons x l ih =>
    obtain ⟨p, v⟩ := x
    by_cases h : p = r <;> by_cases hq : q = r
    · subst h hq; simp [regPut, regFind]
    · subst h; simp [regPut, regFind, hq, Ne.symm hq]
    · subst hq; simp [regPut, regFind, h, ih]
    · simp [regPut, regFind, h, ih, hq]

/-- A register reads the word last stored; every other register reads as before. -/
theorem State.reg_setReg (s : State) (r q : Reg) (w : Word) : (s.setReg r w).reg q = if q = r then w else s.reg q := by
  simp only [State.reg, State.setReg, regFind_put]; split <;> rfl

@[simp] theorem State.reg_setReg_same (s : State) (r : Reg) (w : Word) : (s.setReg r w).reg r = w := by simp [State.reg_setReg]

theorem State.reg_setReg_other (s : State) {r q : Reg} (w : Word) (h : q ≠ r) : (s.setReg r w).reg q = s.reg q := by
  simp [State.reg_setReg, h]

/-- A store of a register changes nothing but registers. -/
theorem State.setReg_frame (s : State) (r : Reg) (w : Word) : s.setReg r w = { s with regs := (s.setReg r w).regs } := rfl

theorem State.put_frame (s : State) (f : Fld) (v : Nat) : s.put f v = { s with regs := (s.put f v).regs } := rfl

theorem State.reg_put_other (s : State) {f : Fld} {q : Reg} (v : Nat) (h : q ≠ f.reg) : (s.put f v).reg q = s.reg q :=
  State.reg_setReg_other s _ h

theorem State.reg_put_same (s : State) (f : Fld) (v : Nat) : (s.put f v).reg f.reg = (s.reg f.reg).put f.hi f.lo v :=
  State.reg_setReg_same s _ _

end Sys2Proof.Machine

namespace Sys2Proof

/-- Bits outside the field keep their value. -/
theorem Word.put_other (w : Word) {hi lo v i : Nat} (h : i < lo ∨ hi < i) : (w.put hi lo v).getLsbD i = w.getLsbD i := by
  have hm : (Word.mask hi lo).getLsbD i = false := by
    simp only [Word.mask, BitVec.getLsbD_ofNat, Nat.testBit_shiftLeft, Nat.testBit_two_pow_sub_one]
    rcases h with h | h
    · simp [Nat.not_le.mpr h]
    · have : ¬ i - lo < hi + 1 - lo := by omega
      simp [this]
  simp only [Word.put, BitVec.getLsbD_or, BitVec.getLsbD_and, BitVec.getLsbD_not, hm]
  by_cases hi32 : i < 32
  · simp [hi32]
  · simp [BitVec.getLsbD_of_ge w i (by omega)]

/-- Bits of the field are those of the value. -/
theorem Word.put_bit (w : Word) {hi lo v i : Nat} (h1 : lo ≤ i) (h2 : i ≤ hi) (h3 : i < 32) :
    (w.put hi lo v).getLsbD i = v.testBit (i - lo) := by
  have hm : (Word.mask hi lo).getLsbD i = true := by
    simp only [Word.mask, BitVec.getLsbD_ofNat, Nat.testBit_shiftLeft, Nat.testBit_two_pow_sub_one]
    have : i - lo < hi + 1 - lo := by omega
    simp [this, h1, h3]
  have hv : (BitVec.ofNat 32 (v <<< lo)).getLsbD i = v.testBit (i - lo) := by
    simp only [BitVec.getLsbD_ofNat, Nat.testBit_shiftLeft]; simp [h1, h3]
  simp only [Word.put, BitVec.getLsbD_or, BitVec.getLsbD_and, BitVec.getLsbD_not, hm, hv]; simp

/-- A field reads the value stored into it. -/
theorem Word.bits_put (w : Word) {hi lo v : Nat} (h : hi < 32) (hl : lo ≤ hi) :
    (w.put hi lo v).bits hi lo = v % 2 ^ (hi + 1 - lo) := by
  apply Nat.eq_of_testBit_eq
  intro j
  simp only [Word.bits, Nat.testBit_mod_two_pow, Nat.testBit_shiftRight]
  by_cases hj : j < hi + 1 - lo
  · have := Word.put_bit w (hi := hi) (lo := lo) (v := v) (i := lo + j) (by omega) (by omega) (by omega)
    simp only [BitVec.getLsbD, Nat.add_sub_cancel_left] at this
    simp [hj, this]
  · simp [hj]

end Sys2Proof

namespace Sys2Proof.Machine
open Sys2Proof.Safety

/-- A field reads the value stored into it. -/
theorem State.fld_put_same (s : State) (f : Fld) (v : Nat) (h : f.hi < 32) (hl : f.lo ≤ f.hi) :
    (s.put f v).fld f = v % 2 ^ (f.hi + 1 - f.lo) := by
  simp [State.fld, State.reg_put_same, Word.bits_put _ h hl]

/-! Administrative commands. -/

/-- A served entry leaves the queue, and the command goes on in the state that `served` names. -/
theorem State.popAdmin_served {s u : State} {op : Nat} {c : Cmd} (h : served s op c u) : s.popAdmin op c = some u := by
  obtain ⟨hs, hq, rfl⟩ := h
  unfold State.popAdmin
  cases ha : s.adminQ with
  | nil =>
    have e : { s with adminQ := [] } = s := by cases s; simp_all
    simp [hs, e, State.skimQ, State.skim]
  | cons q qs => simp_all

/-! Engines. -/

@[simp] theorem State.phys_setEng (s : State) (e k : Nat) (g : Eng) : (s.setEng e g).phys k = s.phys k := rfl

@[simp] theorem State.eng_setEng (s : State) (e : Nat) (g : Eng) : (s.setEng e g).eng e = g := by
  simp [State.eng, State.engP, State.setEng, State.phys]

theorem State.engP_setEng_other (s : State) {e p : Nat} (g : Eng) (h : p ≠ s.phys e) : (s.setEng e g).engP p = s.engP p :=
  tabGet_put_other _ _ _ h

@[simp] theorem State.eng_modEng (s : State) (e : Nat) (f : Eng → Eng) : (s.modEng e f).eng e = f (s.eng e) := by
  simp [State.modEng]

/-- Microwords of patch RAM without a wrong bit are fetched without effect. -/
theorem State.patchEcc_sound (s : State) (c : EngClass) (is : List Nat) (h : soundPatch s) : s.patchEcc c is = (s, true) := by
  induction is with
  | nil => rfl
  | cons i is ih =>
    have hc : patchBase .te ≤ patchBase c + 4 * (i % 1024) := by cases c <;> simp only [patchBase, clsCode] <;> omega
    have hm : s.microEcc (patchBase c + 4 * (i % 1024)) = (s, true) := by simp [State.microEcc, h _ hc]
    simp [State.patchEcc, hm, ih]

/-- An instruction whose words hold no wrong bit is fetched without effect. -/
theorem State.fetchInstr_sound (s : State) (e : Nat) (h : soundMemory s e) (hp : (s.eng e).pc < 16384) : s.fetchInstr e = (s, true) := by
  have ha : tabGet s.upsets (engBase (s.phys e) + 8 * (s.eng e).pc) 0 = 0 := h.1 _ (by omega) (by omega)
  have hd : engBase (s.phys e) + 8 * (s.eng e).pc - (engBase (s.phys e) + 8 * (s.eng e).pc) % 8
      = engBase (s.phys e) + 8 * (s.eng e).pc := by simp only [engBase]; omega
  have hr : s.eccRead e (engBase (s.phys e) + 8 * (s.eng e).pc) = some s := by
    rw [State.eccRead, hd, ha]; rfl
  unfold State.fetchInstr
  rw [hr]
  cases hq : s.patchRam with
  | none => simp [hq]
  | some p => simp [hq, State.patchEcc_sound s _ _ h.2]

theorem Eng.reg_setReg (g : Eng) (i j : Nat) (w : Word) : (g.setReg i w).reg j = if j = i then w else g.reg j := by
  by_cases h : j = i
  · subst h; simp [Eng.reg, Eng.setReg]
  · simp [Eng.reg, Eng.setReg, tabGet_put_other _ _ _ h, h]

end Sys2Proof.Machine
end

