-- ==== Sys2Proof/Laws/Memory.lean ====
section
/-! SUPPORT. Memories: what is read after a store, and that every operation keeps the canonical form. -/
namespace Sys2Proof.Machine

/-- A byte reads what was stored. -/
theorem memByte_memSet (m : Memory) (a b : Nat) (v : Byte) : memByte (memSet m a v) b = if b = a then v else memByte m b := by
  simp only [memByte, memSet, tabGet]
  by_cases h : b = a
  · subst h
    split
    · rename_i hv; simp [hv]
    · simp
  · rw [if_neg h]
    split
    · rw [tabFind_del_other _ h]
    · rw [tabFind_put_other _ _ h]

/-- Stored bytes read back; every other byte reads as before. -/
theorem memByte_memSets (m : Memory) (a b : Nat) (l : List Byte) :
    memByte (memSets m a l) b = if a ≤ b ∧ b < a + l.length then l.getD (b - a) 0 else memByte m b := by
  induction l generalizing m a with
  | nil => simp only [memSets, List.length_nil]; split
           · omega
           · rfl
  | cons x l ih =>
    simp only [memSets, ih, memByte_memSet, List.length_cons]
    by_cases h1 : b = a
    · subst h1
      rw [if_neg (by omega), if_pos rfl, if_pos (by omega)]; simp
    · by_cases h2 : a + 1 ≤ b ∧ b < a + 1 + l.length
      · rw [if_pos h2, if_pos (by omega)]
        have : b - a = (b - (a + 1)) + 1 := by omega
        simp [this]
      · rw [if_neg h2, if_neg h1, if_neg (by omega)]

@[simp] theorem Word.bytes_length (w : Word) : w.bytes.length = 4 := rfl

/-- A store of a word leaves every byte outside it. -/
theorem memByte_memSetWord_other (m : Memory) {a b : Nat} (w : Word) (h : b < a ∨ a + 4 ≤ b) :
    memByte (memSetWord m a w) b = memByte m b := by
  rw [memSetWord, memByte_memSets, if_neg]; simp; omega

/-- A byte of a stored word. -/
theorem memByte_memSetWord_same (m : Memory) (a k : Nat) (w : Word) (h : k < 4) :
    memByte (memSetWord m a w) (a + k) = w.bytes.getD k 0 := by
  rw [memSetWord, memByte_memSets, if_pos ⟨by omega, by simp; omega⟩]; simp

/-- A word is its bytes. -/
theorem Word.ofBytes_bytes (w : Word) :
    Word.ofBytes (w.bytes.getD 0 0) (w.bytes.getD 1 0) (w.bytes.getD 2 0) (w.bytes.getD 3 0) = w := by
  apply BitVec.eq_of_toNat_eq
  have := w.isLt
  simp [Word.ofBytes, Word.bytes, Nat.shiftRight_eq_div_pow]
  omega

/-- A stored word reads back. -/
theorem memWord_memSetWord (m : Memory) (a : Nat) (w : Word) : memWord (memSetWord m a w) a = w := by
  have h0 := memByte_memSetWord_same m a 0 w (by omega)
  rw [Nat.add_zero] at h0
  simp only [memWord, h0, memByte_memSetWord_same m a 1 w (by omega), memByte_memSetWord_same m a 2 w (by omega),
    memByte_memSetWord_same m a 3 w (by omega), Word.ofBytes_bytes]

/-- A store of words leaves every byte outside them. -/
theorem memByte_memSetWords_other (m : Memory) {a b : Nat} (ws : List Word) (h : b < a ∨ a + 4 * ws.length ≤ b) :
    memByte (memSetWords m a ws) b = memByte m b := by
  induction ws generalizing m a with
  | nil => rfl
  | cons w ws ih =>
    simp only [List.length_cons] at h
    simp only [memSetWords]
    rw [ih _ (by omega), memByte_memSetWord_other _ _ (by omega)]

/-- A cleared range reads 0; every other byte reads as before. -/
theorem memByte_memClear (m : Memory) (lo hi b : Nat) :
    memByte (memClear m lo hi) b = if lo ≤ b ∧ b < hi then 0 else memByte m b := by
  simp only [memByte, tabGet, memClear]
  rw [tabFind_filter m (fun a => decide (a < lo) || decide (hi ≤ a)) b]
  by_cases h : lo ≤ b ∧ b < hi
  · simp [h, Nat.not_lt.mpr h.1, Nat.not_le.mpr h.2]
  · simp only [h, if_false]
    have : (decide (b < lo) || decide (hi ≤ b)) = true := by simp; omega
    simp [this]

/-! The canonical form. -/

/-- The form, as a property of each entry and of the order. -/
theorem Memory.wf_iff (m : Memory) : Memory.wf m = true ↔ (∀ c ∈ m, c.2 ≠ 0) ∧ m.Pairwise (fun c d => c.1 < d.1) := by
  induction m with
  | nil => simp [Memory.wf]
  | cons c m ih =>
    cases m with
    | nil => obtain ⟨a, b⟩ := c; simp [Memory.wf]
    | cons d m =>
      obtain ⟨a, b⟩ := c
      obtain ⟨a', b'⟩ := d
      rw [Memory.wf, Bool.and_eq_true, ih, List.pairwise_cons (a := (a, b))]
      constructor
      · rintro ⟨h1, h2, h3⟩
        simp only [Bool.and_eq_true, bne_iff_ne, decide_eq_true_eq] at h1
        refine ⟨?_, ?_, h3⟩
        · intro x hx
          rcases List.mem_cons.mp hx with rfl | hx
          · exact h1.1
          · exact h2 x hx
        · intro x hx
          rcases List.mem_cons.mp hx with rfl | hx
          · exact h1.2
          · exact Nat.lt_trans h1.2 ((List.pairwise_cons.mp h3).1 x hx)
      · rintro ⟨h1, h2, h3⟩
        refine ⟨?_, fun x hx => h1 x (List.mem_cons_of_mem _ hx), h3⟩
        simp only [Bool.and_eq_true, bne_iff_ne, decide_eq_true_eq]
        exact ⟨h1 (a, b) (List.mem_cons_self ..), h2 (a', b') (List.mem_cons_self ..)⟩

theorem Memory.wf_filter (m : Memory) (p : Host.Cell → Bool) (h : Memory.wf m = true) : Memory.wf (m.filter p) = true := by
  rw [Memory.wf_iff] at h ⊢
  exact ⟨fun c hc => h.1 c ((List.mem_filter.mp hc).1), h.2.filter _⟩

theorem mem_tabPut {α : Type} (t : Tab α) (k : Nat) (v : α) (x : Nat × α) (h : x ∈ tabPut t k v) : x = (k, v) ∨ x ∈ t := by
  induction t with
  | nil => simp [tabPut] at h; exact .inl h
  | cons y t ih =>
    obtain ⟨i, w⟩ := y
    simp only [tabPut] at h
    split at h
    · rcases List.mem_cons.mp h with h | h
      · exact .inl h
      · exact .inr h
    · split at h
      · rcases List.mem_cons.mp h with h | h
        · exact .inl h
        · exact .inr (List.mem_cons_of_mem _ h)
      · rcases List.mem_cons.mp h with h | h
        · exact .inr (h ▸ List.mem_cons_self ..)
        · exact (ih h).imp id (List.mem_cons_of_mem _)

theorem Memory.wf_tabPut (m : Memory) (a : Nat) (b : Byte) (hb : b ≠ 0) (h : Memory.wf m = true) :
    Memory.wf (tabPut m a b) = true := by
  rw [Memory.wf_iff] at h ⊢
  refine ⟨?_, ?_⟩
  · intro c hc
    rcases mem_tabPut m a b c hc with rfl | hc
    · exact hb
    · exact h.1 c hc
  · have hp := h.2
    clear h
    induction m with
    | nil => simp [tabPut]
    | cons y m ih =>
      obtain ⟨i, w⟩ := y
      rw [List.pairwise_cons] at hp
      simp only [tabPut]
      split
      · rename_i hlt
        rw [List.pairwise_cons, List.pairwise_cons]
        refine ⟨?_, hp⟩
        intro x hx
        rcases List.mem_cons.mp hx with rfl | hx
        · exact hlt
        · exact Nat.lt_trans hlt (hp.1 x hx)
      · split
        · rename_i heq
          subst heq
          rw [List.pairwise_cons]
          exact hp
        · rw [List.pairwise_cons]
          refine ⟨?_, ih hp.2⟩
          intro x hx
          rcases mem_tabPut m a b x hx with rfl | hx
          · show i < a; omega
          · exact hp.1 x hx

theorem Memory.wf_memSet (m : Memory) (a : Nat) (b : Byte) (h : Memory.wf m = true) : Memory.wf (memSet m a b) = true := by
  simp only [memSet]
  split
  · exact Memory.wf_filter m _ h
  · rename_i hb; exact Memory.wf_tabPut m a b hb h

theorem Memory.wf_memSets (m : Memory) (a : Nat) (l : List Byte) (h : Memory.wf m = true) : Memory.wf (memSets m a l) = true := by
  induction l generalizing m a with
  | nil => exact h
  | cons b l ih => exact ih _ _ (Memory.wf_memSet m a b h)

theorem Memory.wf_memSetWord (m : Memory) (a : Nat) (w : Word) (h : Memory.wf m = true) :
    Memory.wf (memSetWord m a w) = true := Memory.wf_memSets m a _ h

theorem Memory.wf_memSetWords (m : Memory) (a : Nat) (ws : List Word) (h : Memory.wf m = true) :
    Memory.wf (memSetWords m a ws) = true := by
  induction ws generalizing m a with
  | nil => exact h
  | cons w ws ih => exact ih _ _ (Memory.wf_memSetWord m a w h)

theorem Memory.wf_memClear (m : Memory) (lo hi : Nat) (h : Memory.wf m = true) : Memory.wf (memClear m lo hi) = true :=
  Memory.wf_filter m _ h

end Sys2Proof.Machine
end

