-- ==== Sys2Proof/Laws/Keeps.lean ====
section
/-! SUPPORT. What every meaning keeps: the queue of commands, the canonical form of both memories, and the fused minimum SVNs,
which never fall. One lemma for each operation that changes the state. One thread keeps the memory of a check small. -/
set_option Elab.async false

namespace Sys2Proof.Machine

/-- The queue is as it was, canonical memories stay canonical, and no fused minimum SVN falls. -/
structure Keeps (s t : State) : Prop where
  queue : t.pending = s.pending
  sram : Memory.wf s.sram = true → Memory.wf t.sram = true
  bulk : Memory.wf s.bulk = true → Memory.wf t.bulk = true
  minGh : s.flash.minGh ≤ t.flash.minGh
  minPa : s.flash.minPa ≤ t.flash.minPa

/-- A meaning that answers a next state keeps it. -/
def KeepsR (s : State) (r : Res) : Prop := ∀ t, r = .next t → Keeps s t

theorem Keeps.refl (s : State) : Keeps s s := ⟨rfl, id, id, Nat.le_refl _, Nat.le_refl _⟩

theorem Keeps.trans {r s t : State} (h : Keeps r s) (h' : Keeps s t) : Keeps r t :=
  ⟨h'.queue.trans h.queue, fun w => h'.sram (h.sram w), fun w => h'.bulk (h.bulk w), Nat.le_trans h.minGh h'.minGh,
    Nat.le_trans h.minPa h'.minPa⟩

theorem Keeps.ite {r a b : State} {c : Prop} [Decidable c] (ha : Keeps r a) (hb : Keeps r b) : Keeps r (if c then a else b) := by
  split <;> assumption

theorem Keeps.fold {r t : State} {α : Type} {f : State → α → State} {l : List α} (h : Keeps r t)
    (hf : ∀ st x, Keeps r st → Keeps r (f st x)) : Keeps r (l.foldl f t) := by
  induction l generalizing t with
  | nil => exact h
  | cons x l ih => exact ih (hf t x h)

theorem Keeps.fold1 {r t : State} {α β : Type} {b : β} {f : State × β → α → State × β} {l : List α} (h : Keeps r t)
    (hf : ∀ st x, Keeps r st.1 → Keeps r (f st x).1) : Keeps r (l.foldl f (t, b)).1 := by
  suffices ∀ p : State × β, Keeps r p.1 → Keeps r (l.foldl f p).1 from this (t, b) h
  induction l with
  | nil => exact fun _ h => h
  | cons x l ih => exact fun p h => ih _ (hf p x h)

theorem KeepsR.next {r t : State} (h : Keeps r t) : KeepsR r (.next t) := by
  intro u hu; cases hu; exact h

theorem KeepsR.ite {r : State} {a b : Res} {c : Prop} [Decidable c] (ha : KeepsR r a) (hb : KeepsR r b) :
    KeepsR r (if c then a else b) := by
  split <;> assumption

theorem Keeps.upd {r t : State} (h : Keeps r t)  {free board power half regs mode trans modeSeq safePending pendCause safeAt bootFailed startSet startAt ts runEnd stopAt tt ttFrom wtSec wtNs wtFrac up wtLog servoFrac refCntA refCntB refAt holdAt holdUs epochV servoAt ptpReply domA domB skew resettling engs engMap slots rfSettled satFrom clipFrom cueMuted stopMuted flux rings actTail gate wrOld wrTick held due evalAt lastCue cells verdicts newVerdicts pauli pauliOld pauliTick cueChk acqs streams pubs qry mvp tdc links linkCfg aliveOut aliveIn bxf tallies hkp tripped flashRail caller spdm railWait upsets poison patchRam mem answer adminQ bg cpls cplAck lastCpl rr16 hostRing msix msixLast ideStop} :
    Keeps r (State.mk t.pending free board power half regs mode trans modeSeq safePending pendCause safeAt bootFailed startSet startAt ts runEnd stopAt tt ttFrom wtSec wtNs wtFrac up wtLog servoFrac refCntA refCntB refAt holdAt holdUs epochV servoAt ptpReply domA domB skew resettling engs engMap slots rfSettled satFrom clipFrom cueMuted stopMuted flux rings actTail gate wrOld wrTick held due evalAt lastCue cells verdicts newVerdicts pauli pauliOld pauliTick cueChk acqs streams pubs qry mvp tdc links linkCfg aliveOut aliveIn bxf tallies hkp tripped flashRail t.flash caller spdm railWait t.sram upsets t.bulk poison patchRam mem answer adminQ bg cpls cplAck lastCpl rr16 hostRing msix msixLast ideStop) := by
  obtain ⟨h1, h2, h3, h4, h5⟩ := h
  exact ⟨h1, h2, h3, h4, h5⟩
theorem Keeps.mkS {r t : State} (h : Keeps r t)  {free board power half regs mode trans modeSeq safePending pendCause safeAt bootFailed startSet startAt ts runEnd stopAt tt ttFrom wtSec wtNs wtFrac up wtLog servoFrac refCntA refCntB refAt holdAt holdUs epochV servoAt ptpReply domA domB skew resettling engs engMap slots rfSettled satFrom clipFrom cueMuted stopMuted flux rings actTail gate wrOld wrTick held due evalAt lastCue cells verdicts newVerdicts pauli pauliOld pauliTick cueChk acqs streams pubs qry mvp tdc links linkCfg aliveOut aliveIn bxf tallies hkp tripped flashRail caller spdm railWait upsets poison patchRam mem answer adminQ bg cpls cplAck lastCpl rr16 hostRing msix msixLast ideStop} {m : Memory} (hm : Memory.wf t.sram = true → Memory.wf m = true) :
    Keeps r (State.mk t.pending free board power half regs mode trans modeSeq safePending pendCause safeAt bootFailed startSet startAt ts runEnd stopAt tt ttFrom wtSec wtNs wtFrac up wtLog servoFrac refCntA refCntB refAt holdAt holdUs epochV servoAt ptpReply domA domB skew resettling engs engMap slots rfSettled satFrom clipFrom cueMuted stopMuted flux rings actTail gate wrOld wrTick held due evalAt lastCue cells verdicts newVerdicts pauli pauliOld pauliTick cueChk acqs streams pubs qry mvp tdc links linkCfg aliveOut aliveIn bxf tallies hkp tripped flashRail t.flash caller spdm railWait m upsets t.bulk poison patchRam mem answer adminQ bg cpls cplAck lastCpl rr16 hostRing msix msixLast ideStop) := by
  obtain ⟨h1, h2, h3, h4, h5⟩ := h
  exact ⟨h1, fun w => hm (h2 w), h3, h4, h5⟩
theorem Keeps.mkB {r t : State} (h : Keeps r t)  {free board power half regs mode trans modeSeq safePending pendCause safeAt bootFailed startSet startAt ts runEnd stopAt tt ttFrom wtSec wtNs wtFrac up wtLog servoFrac refCntA refCntB refAt holdAt holdUs epochV servoAt ptpReply domA domB skew resettling engs engMap slots rfSettled satFrom clipFrom cueMuted stopMuted flux rings actTail gate wrOld wrTick held due evalAt lastCue cells verdicts newVerdicts pauli pauliOld pauliTick cueChk acqs streams pubs qry mvp tdc links linkCfg aliveOut aliveIn bxf tallies hkp tripped flashRail caller spdm railWait upsets poison patchRam mem answer adminQ bg cpls cplAck lastCpl rr16 hostRing msix msixLast ideStop} {m : Memory} (hm : Memory.wf t.bulk = true → Memory.wf m = true) :
    Keeps r (State.mk t.pending free board power half regs mode trans modeSeq safePending pendCause safeAt bootFailed startSet startAt ts runEnd stopAt tt ttFrom wtSec wtNs wtFrac up wtLog servoFrac refCntA refCntB refAt holdAt holdUs epochV servoAt ptpReply domA domB skew resettling engs engMap slots rfSettled satFrom clipFrom cueMuted stopMuted flux rings actTail gate wrOld wrTick held due evalAt lastCue cells verdicts newVerdicts pauli pauliOld pauliTick cueChk acqs streams pubs qry mvp tdc links linkCfg aliveOut aliveIn bxf tallies hkp tripped flashRail t.flash caller spdm railWait t.sram upsets m poison patchRam mem answer adminQ bg cpls cplAck lastCpl rr16 hostRing msix msixLast ideStop) := by
  obtain ⟨h1, h2, h3, h4, h5⟩ := h
  exact ⟨h1, h2, fun w => hm (h3 w), h4, h5⟩
theorem Keeps.mkF {r t : State} (h : Keeps r t)  {free board power half regs mode trans modeSeq safePending pendCause safeAt bootFailed startSet startAt ts runEnd stopAt tt ttFrom wtSec wtNs wtFrac up wtLog servoFrac refCntA refCntB refAt holdAt holdUs epochV servoAt ptpReply domA domB skew resettling engs engMap slots rfSettled satFrom clipFrom cueMuted stopMuted flux rings actTail gate wrOld wrTick held due evalAt lastCue cells verdicts newVerdicts pauli pauliOld pauliTick cueChk acqs streams pubs qry mvp tdc links linkCfg aliveOut aliveIn bxf tallies hkp tripped flashRail caller spdm railWait upsets poison patchRam mem answer adminQ bg cpls cplAck lastCpl rr16 hostRing msix msixLast ideStop} {f : Flash} (hf : t.flash.minGh ≤ f.minGh ∧ t.flash.minPa ≤ f.minPa) :
    Keeps r (State.mk t.pending free board power half regs mode trans modeSeq safePending pendCause safeAt bootFailed startSet startAt ts runEnd stopAt tt ttFrom wtSec wtNs wtFrac up wtLog servoFrac refCntA refCntB refAt holdAt holdUs epochV servoAt ptpReply domA domB skew resettling engs engMap slots rfSettled satFrom clipFrom cueMuted stopMuted flux rings actTail gate wrOld wrTick held due evalAt lastCue cells verdicts newVerdicts pauli pauliOld pauliTick cueChk acqs streams pubs qry mvp tdc links linkCfg aliveOut aliveIn bxf tallies hkp tripped flashRail f caller spdm railWait t.sram upsets t.bulk poison patchRam mem answer adminQ bg cpls cplAck lastCpl rr16 hostRing msix msixLast ideStop) := by
  obtain ⟨h1, h2, h3, h4, h5⟩ := h
  exact ⟨h1, h2, h3, Nat.le_trans h4 hf.1, Nat.le_trans h5 hf.2⟩

theorem Keeps.optIte {r s : State} {a b : Option State} {c : Prop} [Decidable c] (ha : Keeps r (a.getD s)) (hb : Keeps r (b.getD s)) :
    Keeps r ((if c then a else b).getD s) := by
  split <;> assumption

theorem Keeps.optSome {r s t : State} (h : Keeps r t) : Keeps r ((some t).getD s) := h

theorem Keeps.optNone {r s : State} (h : Keeps r s) : Keeps r (Option.getD none s) := h

theorem Keeps.mkS2 {r s t : State} {m : Memory} (h : Keeps r t) (h' : Keeps r s)
    (hm : Memory.wf s.sram = true → Memory.wf m = true) : Keeps r { t with sram := m } :=
  ⟨h.queue, fun w => hm (h'.sram w), h.bulk, h.minGh, h.minPa⟩

/-- The state a micro-operation leaves, where it leaves one, keeps it. -/
def KeepsM (r : State) : Micro → Prop
  | .go s _ => Keeps r s
  | .jump s _ _ => Keeps r s
  | .stop s => Keeps r s
  | .bad s _ => Keeps r s
  | .hold s _ _ _ => Keeps r s
  | .stay => True

theorem KeepsM.ite {r : State} {a b : Micro} {c : Prop} [Decidable c] (ha : KeepsM r a) (hb : KeepsM r b) :
    KeepsM r (if c then a else b) := by
  split <;> assumption

theorem KeepsM.go {r₀ s : State} {r : Routine} (h : Keeps r₀ s) : KeepsM r₀ (Micro.go s r) := h
theorem KeepsM.jump {r₀ s : State} {r : Routine} {o : Nat} (h : Keeps r₀ s) : KeepsM r₀ (Micro.jump s r o) := h
theorem KeepsM.stop {r₀ s : State} (h : Keeps r₀ s) : KeepsM r₀ (Micro.stop s) := h
theorem KeepsM.bad {r₀ s : State} {c : Nat} (h : Keeps r₀ s) : KeepsM r₀ (Micro.bad s c) := h
theorem KeepsM.hold {r₀ s : State} {r : Routine} {x : EngState} {m : Option Nat} (h : Keeps r₀ s) :
    KeepsM r₀ (Micro.hold s r x m) := h
theorem KeepsM.stay {r₀ : State} : KeepsM r₀ Micro.stay := trivial
theorem Keeps.ite1 {r : State} {α : Type} {p q : State × α} {c : Prop} [Decidable c] (hp : Keeps r p.1) (hq : Keeps r q.1) :
    Keeps r (if c then p else q).1 := by
  split <;> assumption

theorem Memory.wf_fold {α : Type} {f : Memory → α → Memory} {l : List α} {m : Memory} (h : Memory.wf m = true)
    (hf : ∀ m x, Memory.wf m = true → Memory.wf (f m x) = true) : Memory.wf (l.foldl f m) = true := by
  induction l generalizing m with
  | nil => exact h
  | cons x l ih => exact ih (hf m x h)

theorem Flash.setCopy_min (f : Flash) (kind : Nat) (b : Bool) (c : FlashCopy) :
    f.minGh ≤ (f.setCopy kind b c).minGh ∧ f.minPa ≤ (f.setCopy kind b c).minPa := by
  unfold Flash.setCopy
  split <;> split <;> exact ⟨Nat.le_refl _, Nat.le_refl _⟩

theorem Flash.flip_min (f : Flash) (kind : Nat) : f.minGh ≤ (f.flip kind).minGh ∧ f.minPa ≤ (f.flip kind).minPa := by
  unfold Flash.flip
  dsimp only
  split <;> exact ⟨Nat.le_refl _, Nat.le_refl _⟩

theorem Flash.setRegion_min (f : Flash) (b : Bool) (j : JRegion) :
    f.minGh ≤ (f.setRegion b j).minGh ∧ f.minPa ≤ (f.setRegion b j).minPa := by
  unfold Flash.setRegion
  split <;> exact ⟨Nat.le_refl _, Nat.le_refl _⟩

theorem Flash.append_min (f : Flash) (full : Bool) (now rs : List JRec) :
    f.minGh ≤ (f.append full now rs).minGh ∧ f.minPa ≤ (f.append full now rs).minPa := by
  have h1 := f.setRegion_min (!f.region) { recs := f.numbered now }
  have h2 := Flash.setRegion_min (f.setRegion (!f.region) { recs := f.numbered now }) f.region {}
  unfold Flash.append
  split
  · exact ⟨Nat.le_trans h1.1 h2.1, Nat.le_trans h1.2 h2.2⟩
  · exact Flash.setRegion_min _ _ _

theorem State.setReg_keeps {r₀ : State} {s : State} (r : Reg) (w : Word) (hk : Keeps r₀ s) : Keeps r₀ (State.setReg s r w) := by
  unfold State.setReg; try dsimp only
  with_reducible repeat' first | assumption | apply Keeps.ite | apply Keeps.upd

theorem State.wr_keeps {r₀ : State} {s : State} (k : RegK) (v i j : Nat) (hk : Keeps r₀ s) : Keeps r₀ (State.wr s k v i j) := by
  unfold State.wr; try dsimp only
  with_reducible repeat' first | assumption | apply Keeps.ite | apply State.setReg_keeps

theorem State.put_keeps {r₀ : State} {s : State} (f : Fld) (v : Nat) (hk : Keeps r₀ s) : Keeps r₀ (State.put s f v) := by
  unfold State.put; try dsimp only
  with_reducible repeat' first | assumption | apply Keeps.ite | apply State.setReg_keeps

theorem State.raiseBit_keeps {r₀ : State} {s : State} (f : Fld) (hk : Keeps r₀ s) : Keeps r₀ (State.raiseBit s f) := by
  unfold State.raiseBit; try dsimp only
  with_reducible repeat' first | assumption | apply Keeps.ite | apply State.put_keeps

theorem State.count_keeps {r₀ : State} {s : State} (f : Fld) (n : Nat) (hk : Keeps r₀ s) : Keeps r₀ (State.count s f n) := by
  unfold State.count; try dsimp only
  with_reducible repeat' first | assumption | apply Keeps.ite | apply State.put_keeps

theorem State.countReg_keeps {r₀ : State} {s : State} (k : RegK) (i j n : Nat) (hk : Keeps r₀ s) : Keeps r₀ (State.countReg s k i j n) := by
  unfold State.countReg; try dsimp only
  with_reducible repeat' first | assumption | apply Keeps.ite | apply State.wr_keeps

theorem State.wr64_keeps {r₀ : State} {s : State} (lo hi : RegK) (v i j : Nat) (hk : Keeps r₀ s) : Keeps r₀ (State.wr64 s lo hi v i j) := by
  unfold State.wr64; try dsimp only
  with_reducible repeat' first | assumption | apply Keeps.ite | apply State.wr_keeps

theorem State.stageWrite_keeps {r₀ : State} {s : State} (hk : Keeps r₀ s) : Keeps r₀ (State.stageWrite s) := by
  unfold State.stageWrite; try dsimp only
  with_reducible repeat' first | assumption | apply Keeps.ite | apply Keeps.upd

theorem State.markWt_keeps {r₀ : State} {s : State} (hk : Keeps r₀ s) : Keeps r₀ (State.markWt s) := by
  unfold State.markWt; try dsimp only
  with_reducible repeat' first | assumption | apply Keeps.ite | apply Keeps.upd

theorem State.tickOn_keeps {r₀ : State} {s : State} (n : Nat) (hk : Keeps r₀ s) : Keeps r₀ (State.tickOn s n) := by
  unfold State.tickOn; try dsimp only
  with_reducible repeat' first | assumption | apply Keeps.ite | dsimp only | apply Keeps.upd

theorem State.takeFree_keeps {r₀ : State} {s : State} (hk : Keeps r₀ s) : Keeps r₀ (State.takeFree s).2 := by
  unfold State.takeFree; try dsimp only
  with_reducible repeat' first | assumption | apply Keeps.ite | apply Keeps.upd

theorem State.raiseAt_keeps {r₀ : State} {s : State} (ch tick : Nat) (hk : Keeps r₀ s) : Keeps r₀ (State.raiseAt s ch tick) := by
  unfold State.raiseAt; try dsimp only
  with_reducible repeat' first | assumption | apply Keeps.ite | apply Keeps.upd

theorem State.sysCue_keeps {r₀ : State} {s : State} (ch : Nat) (hk : Keeps r₀ s) : Keeps r₀ (State.sysCue s ch) := by
  unfold State.sysCue; try dsimp only
  with_reducible repeat' first | assumption | apply Keeps.ite | apply State.raiseAt_keeps

theorem State.dieCue_keeps {r₀ : State} {s : State} (ch : Nat) (hk : Keeps r₀ s) : Keeps r₀ (State.dieCue s ch) := by
  unfold State.dieCue; try dsimp only
  with_reducible repeat' first | assumption | apply Keeps.ite | apply State.raiseAt_keeps

theorem State.notice_keeps {r₀ : State} {s : State} (kind : Nat) (ws : List Word) (hk : Keeps r₀ s) : Keeps r₀ (State.notice s kind ws) := by
  unfold State.notice; try dsimp only
  with_reducible repeat' first | assumption | apply Keeps.ite | apply State.countReg_keeps | dsimp only | apply Keeps.upd

theorem State.logEntry_keeps {r₀ : State} {s : State} (block event unit : Nat) (detail : Word) (hk : Keeps r₀ s) : Keeps r₀ (State.logEntry s block event unit detail) := by
  unfold State.logEntry; try dsimp only
  with_reducible repeat' first | assumption | apply Keeps.ite | apply State.wr_keeps | apply State.put_keeps | apply State.raiseBit_keeps | apply State.notice_keeps | apply Memory.wf_memSetWords | dsimp only | apply Keeps.upd | refine Keeps.mkS ?_ (fun w => ?_)

theorem State.msi_keeps {r₀ : State} {s : State} (v : Nat) (hk : Keeps r₀ s) : Keeps r₀ (State.msi s v) := by
  unfold State.msi; try dsimp only
  with_reducible repeat' first | assumption | apply Keeps.ite | apply Keeps.upd

theorem State.complete_keeps {r₀ : State} {s : State} (tag : BitVec 16) (opcode : Nat) (st : Status) (detail : Nat) (res : List Word) (hk : Keeps r₀ s) : Keeps r₀ (State.complete s tag opcode st detail res) := by
  unfold State.complete; try dsimp only
  with_reducible repeat' first | assumption | apply Keeps.ite | apply State.msi_keeps | dsimp only | apply Keeps.upd

theorem State.setEng_keeps {r₀ : State} {s : State} (e : Nat) (g : Eng) (hk : Keeps r₀ s) : Keeps r₀ (State.setEng s e g) := by
  unfold State.setEng; try dsimp only
  with_reducible repeat' first | assumption | apply Keeps.ite | apply Keeps.upd

theorem State.modEng_keeps {r₀ : State} {s : State} (e : Nat) (f : Eng → Eng) (hk : Keeps r₀ s) : Keeps r₀ (State.modEng s e f) := by
  unfold State.modEng; try dsimp only
  with_reducible repeat' first | assumption | apply Keeps.ite | apply State.setEng_keeps

theorem State.setDataWord_keeps {r₀ : State} {s : State} (e : Nat) (y : Bool) (a : Nat) (w : Word) (hk : Keeps r₀ s) : Keeps r₀ (State.setDataWord s e y a w) := by
  unfold State.setDataWord; try dsimp only
  with_reducible repeat' first | assumption | apply Keeps.ite | apply Memory.wf_memSetWord | dsimp only | apply Keeps.upd | refine Keeps.mkS ?_ (fun w => ?_)

theorem State.clearUpsets_keeps {r₀ : State} {s : State} (a n : Nat) (hk : Keeps r₀ s) : Keeps r₀ (State.clearUpsets s a n) := by
  unfold State.clearUpsets; try dsimp only
  with_reducible repeat' first | assumption | apply Keeps.ite | apply Keeps.upd

theorem State.haltDue_keeps {r₀ : State} {s : State} (hk : Keeps r₀ s) : Keeps r₀ (State.haltDue s) := by
  unfold State.haltDue; try dsimp only
  with_reducible repeat' first | assumption | apply Keeps.ite | dsimp only | apply Keeps.upd

theorem State.eccRead_keeps {r₀ s u : State} {e x : Nat} (h : Keeps r₀ s) (hu : s.eccRead e x = some u) : Keeps r₀ u := by
  unfold State.eccRead at hu
  split at hu
  · cases hu; exact h
  · cases hu; exact State.countReg_keeps _ _ _ _ (State.modEng_keeps _ _ h)
  · cases hu

theorem State.eccData_keeps {r₀ s u : State} {e a : Nat} {y : Bool} (h : Keeps r₀ s) (hu : s.eccData e y a = some u) : Keeps r₀ u :=
  State.eccRead_keeps h hu

theorem State.eccRange_keeps {r₀ s u : State} {e a n : Nat} {y : Bool} (h : Keeps r₀ s) (hu : s.eccRange e y a n = some u) :
    Keeps r₀ u := by
  have key : ∀ (l : List Nat) (o : Option State), (∀ v, o = some v → Keeps r₀ v) → ∀ v,
      l.foldl (fun (st : Option State) i => st.bind (fun t => t.eccData e y (a - a % 8 + 8 * i))) o = some v → Keeps r₀ v := by
    intro l
    induction l with
    | nil => exact fun o ho v hv => ho v hv
    | cons i l ih =>
      intro o ho v hv
      refine ih _ (fun w hw => ?_) v hv
      cases o with
      | none => cases hw
      | some x => exact State.eccData_keeps (ho x rfl) hw
  exact key _ (some s) (fun v hv => by cases hv; exact h) u hu

theorem State.microEcc_keeps {r₀ : State} {s : State} (x : Nat) (hk : Keeps r₀ s) : Keeps r₀ (State.microEcc s x).1 := by
  unfold State.microEcc; try dsimp only
  with_reducible repeat' first | assumption | apply Keeps.ite | apply State.put_keeps | split

theorem State.patchEcc_keeps {r₀ : State} (c : EngClass) (is : List Nat) {s : State} (h : Keeps r₀ s) : Keeps r₀ (s.patchEcc c is).1 := by
  induction is generalizing s with
  | nil => exact h
  | cons i is ih =>
    have hm := State.microEcc_keeps (patchBase c + 4 * (i % 1024)) h
    unfold State.patchEcc
    revert hm
    rcases s.microEcc (patchBase c + 4 * (i % 1024)) with ⟨t, b⟩
    intro hm
    cases b with
    | true => exact ih hm
    | false => exact hm

theorem State.fetchInstr_keeps {r₀ s : State} (e : Nat) (h : Keeps r₀ s) : Keeps r₀ (s.fetchInstr e).1 := by
  unfold State.fetchInstr
  split
  · exact h
  · rename_i t ht
    have h1 : Keeps r₀ t := State.eccRead_keeps h ht
    split
    · exact h1
    · exact State.patchEcc_keeps _ _ h1

theorem State.countLost_keeps {r₀ : State} {s : State} (a n : Nat) (hk : Keeps r₀ s) : Keeps r₀ (State.countLost s a n) := by
  unfold State.countLost; try dsimp only
  with_reducible repeat' first | assumption | apply Keeps.ite | apply State.countReg_keeps

theorem State.bulkWrite_keeps {r₀ s : State} (a : Nat) (bs : List Byte) (h : Keeps r₀ s) : Keeps r₀ (s.bulkWrite a bs) := by
  have h1 := State.countLost_keeps a bs.length h
  unfold State.bulkWrite
  refine ⟨h1.queue, h1.sram, fun w => ?_, h1.minGh, h1.minPa⟩
  refine Memory.wf_fold (h.bulk w) (fun m x hm => ?_)
  split
  · exact Memory.wf_memSet _ _ _ hm
  · exact hm

theorem State.ringPush_keeps {r₀ : State} {s : State} (n : Nat) (body : List Word) (seq : Nat → Word) (hk : Keeps r₀ s) : Keeps r₀ (State.ringPush s n body seq) := by
  unfold State.ringPush; try dsimp only
  with_reducible repeat' first | assumption | apply Keeps.ite | apply State.put_keeps | apply State.msi_keeps | dsimp only | apply Keeps.upd

theorem State.modAcq_keeps {r₀ : State} {s : State} (u : Nat) (f : Acq → Acq) (hk : Keeps r₀ s) : Keeps r₀ (State.modAcq s u f) := by
  unfold State.modAcq; try dsimp only
  with_reducible repeat' first | assumption | apply Keeps.ite | apply Keeps.upd

theorem State.acqPut_keeps {r₀ : State} {s : State} (u : Nat) (ws : List Word) (hk : Keeps r₀ s) : Keeps r₀ (State.acqPut s u ws) := by
  unfold State.acqPut; try dsimp only
  with_reducible repeat' first | assumption | apply Keeps.ite | apply State.modAcq_keeps | apply Memory.wf_memSetWords | dsimp only | apply Keeps.upd | refine Keeps.mkS ?_ (fun w => ?_)

theorem State.acqLine_keeps {r₀ : State} {s : State} (u ty : Nat) (r : AcqRec) (ws : List Word) (hk : Keeps r₀ s) : Keeps r₀ (State.acqLine s u ty r ws).1 := by
  unfold State.acqLine; try dsimp only
  with_reducible repeat' first | assumption | apply Keeps.ite | apply State.acqPut_keeps | apply Keeps.upd

theorem State.acqMarks_keeps {r₀ : State} (u : Nat) (l : List (List Word)) {s : State} (r : AcqRec) (h : Keeps r₀ s) :
    Keeps r₀ (State.acqMarks u l s r).1 := by
  induction l generalizing s r with
  | nil => exact h
  | cons m ms ih => exact ih _ (State.acqLine_keeps _ _ _ _ h)

theorem State.acqFlush_keeps {r₀ s : State} (u : Nat) (r : AcqRec) (h : Keeps r₀ s) : Keeps r₀ (s.acqFlush u r).1 := by
  unfold State.acqFlush
  apply State.acqMarks_keeps
  apply Keeps.ite1
  · exact State.raiseBit_keeps _ h
  · exact State.acqLine_keeps _ _ _ _ h

theorem State.acqDrain_keeps {r₀ : State} (u n : Nat) {s : State} (r : AcqRec) (h : Keeps r₀ s) :
    Keeps r₀ (State.acqDrain u n s r).1 := by
  induction n generalizing s r with
  | zero => exact h
  | succ n ih =>
    simp only [State.acqDrain]
    split
    · exact h
    · exact ih _ (State.acqFlush_keeps _ _ h)

theorem State.acqStore_keeps {r₀ : State} {s : State} (u : Nat) (r : AcqRec) (x : AcqSample) (post : Bool) (hk : Keeps r₀ s) : Keeps r₀ (State.acqStore s u r x post).1 := by
  unfold State.acqStore; try dsimp only
  with_reducible repeat' first | assumption | apply Keeps.ite | apply State.acqDrain_keeps | dsimp only | apply Keeps.upd

theorem State.acqOpen_keeps {r₀ s : State} (u : Nat) (r : AcqRec) (h : Keeps r₀ s) : Keeps r₀ (s.acqOpen u r).1 := by
  have hf {l : List AcqSample} {p : Bool} {a : State × AcqRec} (ha : Keeps r₀ a.1) :
      Keeps r₀ (l.foldl (fun (a : State × AcqRec) x => a.1.acqStore u a.2 x p) a).1 := by
    induction l generalizing a with
    | nil => exact ha
    | cons x l ih => exact ih (State.acqStore_keeps _ _ _ _ ha)
  unfold State.acqOpen
  extract_lets
  apply hf
  apply hf
  apply Keeps.ite
  · exact State.raiseBit_keeps _ (State.acqLine_keeps _ _ _ _ h)
  · exact State.acqLine_keeps _ _ _ _ h

theorem State.acqClose_keeps {r₀ : State} {s : State} (u : Nat) (why : CloseBy) (hk : Keeps r₀ s) : Keeps r₀ (State.acqClose s u why) := by
  unfold State.acqClose; try dsimp only
  with_reducible repeat' first | assumption | apply Keeps.ite | apply State.acqOpen_keeps | apply State.acqMarks_keeps | apply State.acqFlush_keeps | apply State.settle_keeps | apply State.measured_keeps | apply State.acqLine_keeps | apply State.modAcq_keeps | apply State.done_keeps | apply State.countReg_keeps | apply State.raiseBit_keeps | apply State.sysCue_keeps | dsimp only | split | apply Keeps.upd

theorem State.acqMissed_keeps {r₀ : State} {s : State} (u t cause : Nat) (hk : Keeps r₀ s) : Keeps r₀ (State.acqMissed s u t cause) := by
  unfold State.acqMissed; try dsimp only
  with_reducible repeat' first | assumption | apply Keeps.ite | apply State.countReg_keeps | apply State.sysCue_keeps | apply State.modAcq_keeps | apply State.raiseBit_keeps | dsimp only | apply Keeps.upd

theorem State.acqRefill_keeps {r₀ : State} {s : State} (u : Nat) (hk : Keeps r₀ s) : Keeps r₀ (State.acqRefill s u) := by
  unfold State.acqRefill; try dsimp only
  with_reducible repeat' first | assumption | apply Keeps.ite | apply State.modAcq_keeps | dsimp only | apply Keeps.upd

theorem State.acqAfter_keeps {r₀ : State} {s : State} (u : Nat) (hk : Keeps r₀ s) : Keeps r₀ (State.acqAfter s u) := by
  unfold State.acqAfter; try dsimp only
  with_reducible repeat' first | assumption | apply Keeps.ite | apply State.modAcq_keeps | dsimp only | apply Keeps.upd

theorem State.acqSettle_keeps {r₀ : State} {s : State} (u : Nat) (hk : Keeps r₀ s) : Keeps r₀ (State.acqSettle s u) := by
  unfold State.acqSettle; try dsimp only
  with_reducible repeat' first | assumption | apply Keeps.ite | apply State.acqClose_keeps | apply State.settle_keeps | apply State.acqAfter_keeps | split

theorem State.acqSettled_keeps {r₀ : State} {s : State} (u : Nat) (hk : Keeps r₀ s) : Keeps r₀ (State.acqSettled s u) := by
  unfold State.acqSettled; try dsimp only
  with_reducible repeat' first | assumption | apply Keeps.ite | apply State.acqRefill_keeps | split

theorem State.acqDisarm_keeps {r₀ : State} {s : State} (u : Nat) (hk : Keeps r₀ s) : Keeps r₀ (State.acqDisarm s u) := by
  unfold State.acqDisarm; try dsimp only
  with_reducible repeat' first | assumption | apply Keeps.ite | apply State.acqClose_keeps | apply State.modAcq_keeps | apply Keeps.upd

theorem State.acqSafe_keeps {r₀ : State} {s : State} (u : Nat) (hk : Keeps r₀ s) : Keeps r₀ (State.acqSafe s u) := by
  unfold State.acqSafe; try dsimp only
  with_reducible repeat' first | assumption | apply Keeps.ite | apply State.modAcq_keeps | apply State.acqClose_keeps | apply Keeps.upd

theorem State.histAdd_keeps {r₀ : State} {s : State} (u c : Nat) (a b : Word) (hk : Keeps r₀ s) : Keeps r₀ (State.histAdd s u c a b) := by
  unfold State.histAdd; try dsimp only
  with_reducible repeat' first | assumption | apply Keeps.ite | apply State.countReg_keeps | apply State.raiseBit_keeps | apply Memory.wf_memSetWord | dsimp only | apply Keeps.upd | refine Keeps.mkS ?_ (fun w => ?_)

theorem State.modLink_keeps {r₀ : State} {s : State} (l : Nat) (f : Link → Link) (hk : Keeps r₀ s) : Keeps r₀ (State.modLink s l f) := by
  unfold State.modLink; try dsimp only
  with_reducible repeat' first | assumption | apply Keeps.ite | apply Keeps.upd

theorem State.enqueue_keeps {r₀ : State} {s : State} (l : Nat) (f : OutFrame) (hk : Keeps r₀ s) : Keeps r₀ (State.enqueue s l f) := by
  unfold State.enqueue; try dsimp only
  with_reducible repeat' first | assumption | apply Keeps.ite | apply State.countReg_keeps | apply State.modLink_keeps | refine Keeps.fold ?_ (fun _ _ _ => ?_) | dsimp only | apply Keeps.upd

theorem State.enqueueDec_keeps {r₀ : State} {s : State} (l n : Nat) (w : BitVec 128) (hk : Keeps r₀ s) : Keeps r₀ (State.enqueueDec s l n w) := by
  unfold State.enqueueDec; try dsimp only
  with_reducible repeat' first | assumption | apply Keeps.ite | apply State.modLink_keeps | apply Keeps.upd

theorem State.pushDec_keeps {r₀ : State} (l : Nat) {s : State} (w : BitVec 128) (hk : Keeps r₀ s) : Keeps r₀ (State.pushDec l s w) := by
  unfold State.pushDec; try dsimp only
  with_reducible repeat' first | assumption | apply Keeps.ite | apply State.countReg_keeps | apply State.modLink_keeps | apply Keeps.upd

theorem State.fillDec_keeps {r₀ : State} {s : State} (l : Nat) (hk : Keeps r₀ s) : Keeps r₀ (State.fillDec s l) := by
  unfold State.fillDec; try dsimp only
  with_reducible repeat' first | assumption | apply Keeps.ite | apply State.pushDec_keeps | apply State.modLink_keeps | refine Keeps.fold ?_ (fun _ _ _ => ?_) | dsimp only | apply Keeps.upd

theorem State.goesBy_keeps {r₀ : State} {s : State} (l : Nat) (f : OutFrame) (hk : Keeps r₀ s) : Keeps r₀ (State.goesBy s l f) := by
  unfold State.goesBy; try dsimp only
  with_reducible repeat' first | assumption | apply Keeps.ite | apply State.enqueue_keeps

theorem State.sendFrame_keeps {r₀ : State} {s : State} (dst : Nat) (inl : Option Nat) (f : OutFrame) (hk : Keeps r₀ s) : Keeps r₀ (State.sendFrame s dst inl f) := by
  unfold State.sendFrame; try dsimp only
  with_reducible repeat' first | assumption | apply Keeps.ite | apply State.enqueue_keeps | apply State.countReg_keeps | apply State.goesBy_keeps | split

theorem State.notifyNeighbours_keeps {r₀ : State} {s : State} (ty : Nat) (hk : Keeps r₀ s) : Keeps r₀ (State.notifyNeighbours s ty) := by
  unfold State.notifyNeighbours; try dsimp only
  with_reducible repeat' first | assumption | apply Keeps.ite | apply State.enqueue_keeps | refine Keeps.fold ?_ (fun _ _ _ => ?_) | dsimp only

theorem State.announceSafe_keeps {r₀ : State} {s : State} (hk : Keeps r₀ s) : Keeps r₀ (State.announceSafe s) := by
  unfold State.announceSafe; try dsimp only
  with_reducible repeat' first | assumption | apply Keeps.ite | apply State.modLink_keeps | apply State.notifyNeighbours_keeps | apply State.sendFrame_keeps | refine Keeps.fold ?_ (fun _ _ _ => ?_) | dsimp only | split | apply Keeps.upd

theorem State.faceLost_keeps {r₀ : State} {s : State} (partner : Nat) (hk : Keeps r₀ s) : Keeps r₀ (State.faceLost s partner) := by
  unfold State.faceLost; try dsimp only
  with_reducible repeat' first | assumption | apply Keeps.ite | apply State.raiseBit_keeps | refine Keeps.fold ?_ (fun _ _ _ => ?_) | dsimp only

theorem State.setLink_keeps {r₀ : State} {s : State} (l st : Nat) (hk : Keeps r₀ s) : Keeps r₀ (State.setLink s l st) := by
  unfold State.setLink; try dsimp only
  with_reducible repeat' first | assumption | apply Keeps.ite | apply State.put_keeps | apply State.modLink_keeps | dsimp only | apply Keeps.upd

theorem State.trainLink_keeps {r₀ : State} {s : State} (l : Nat) (hk : Keeps r₀ s) : Keeps r₀ (State.trainLink s l) := by
  unfold State.trainLink; try dsimp only
  with_reducible repeat' first | assumption | apply Keeps.ite | apply State.setLink_keeps | apply State.modLink_keeps | apply Keeps.upd

theorem State.linkLost_keeps {r₀ : State} {s : State} (l : Nat) (hk : Keeps r₀ s) : Keeps r₀ (State.linkLost s l) := by
  unfold State.linkLost; try dsimp only
  with_reducible repeat' first | assumption | apply Keeps.ite | apply State.setLink_keeps | apply State.modLink_keeps | apply State.sysCue_keeps | apply State.logEntry_keeps | apply State.faceLost_keeps | dsimp only

theorem State.isolate_keeps {r₀ : State} {s : State} (l cause : Nat) (hk : Keeps r₀ s) : Keeps r₀ (State.isolate s l cause) := by
  unfold State.isolate; try dsimp only
  with_reducible repeat' first | assumption | apply Keeps.ite | apply State.setLink_keeps | apply State.put_keeps | apply State.modLink_keeps | apply State.logEntry_keeps | apply State.sysCue_keeps | apply State.faceLost_keeps | dsimp only

theorem State.linkError_keeps {r₀ : State} {s : State} (l : Nat) (hk : Keeps r₀ s) : Keeps r₀ (State.linkError s l) := by
  unfold State.linkError; try dsimp only
  with_reducible repeat' first | assumption | apply Keeps.ite | apply State.modLink_keeps | apply State.isolate_keeps | dsimp only | apply Keeps.upd

theorem State.setSlot_keeps {r₀ : State} {s : State} (o k : Nat) (x : Slot) (hk : Keeps r₀ s) : Keeps r₀ (State.setSlot s o k x) := by
  unfold State.setSlot; try dsimp only
  with_reducible repeat' first | assumption | apply Keeps.ite | apply Keeps.upd

theorem State.modSlot_keeps {r₀ : State} {s : State} (o k : Nat) (f : Slot → Slot) (hk : Keeps r₀ s) : Keeps r₀ (State.modSlot s o k f) := by
  unfold State.modSlot; try dsimp only
  with_reducible repeat' first | assumption | apply Keeps.ite | apply State.setSlot_keeps

theorem State.setFlx_keeps {r₀ : State} {s : State} (i : Nat) (x : Flux) (hk : Keeps r₀ s) : Keeps r₀ (State.setFlx s i x) := by
  unfold State.setFlx; try dsimp only
  with_reducible repeat' first | assumption | apply Keeps.ite | apply Keeps.upd

theorem State.setRing_keeps {r₀ : State} {s : State} (o r : Nat) (x : Ring) (hk : Keeps r₀ s) : Keeps r₀ (State.setRing s o r x) := by
  unfold State.setRing; try dsimp only
  with_reducible repeat' first | assumption | apply Keeps.ite | apply Keeps.upd

theorem State.dropWrite_keeps {r₀ : State} {s : State} (o : Nat) (hk : Keeps r₀ s) : Keeps r₀ (State.dropWrite s o) := by
  unfold State.dropWrite; try dsimp only
  with_reducible repeat' first | assumption | apply Keeps.ite | apply State.raiseBit_keeps | apply State.countReg_keeps | dsimp only

theorem State.dropRead_keeps {r₀ : State} {s : State} (o : Nat) (u : StreamUse) (hk : Keeps r₀ s) : Keeps r₀ (State.dropRead s o u) := by
  unfold State.dropRead; try dsimp only
  with_reducible repeat' first | assumption | apply Keeps.ite | apply State.setRing_keeps | apply State.count_keeps | dsimp only | apply Keeps.upd

theorem State.frontTo_keeps {r₀ : State} (t : Nat) {s : State} (key : Nat) (hk : Keeps r₀ s) : Keeps r₀ (State.frontTo t s key) := by
  unfold State.frontTo; try dsimp only
  with_reducible repeat' first | assumption | apply Keeps.ite | apply State.dropRead_keeps | apply State.setSlot_keeps | dsimp only | split | apply Keeps.upd

theorem State.beginRead_keeps {r₀ : State} (t : Nat) {s : State} (key : Nat) (hk : Keeps r₀ s) : Keeps r₀ (State.beginRead t s key) := by
  unfold State.beginRead; try dsimp only
  with_reducible repeat' first | assumption | apply Keeps.ite | apply State.count_keeps | apply State.raiseBit_keeps | apply State.setSlot_keeps | apply State.setRing_keeps | dsimp only | split | apply Keeps.upd

theorem State.underrun_keeps {r₀ : State} {s : State} (o k : Nat) (u : StreamUse) (j t : Nat) (hk : Keeps r₀ s) : Keeps r₀ (State.underrun s o k u j t) := by
  unfold State.underrun; try dsimp only
  with_reducible repeat' first | assumption | apply Keeps.ite | apply State.dropRead_keeps | apply State.modEng_keeps | apply State.raiseBit_keeps | apply State.countReg_keeps | apply State.count_keeps | apply State.raiseAt_keeps | dsimp only

theorem State.readGranule_keeps {r₀ : State} (t : Nat) {s : State} (key : Nat) (hk : Keeps r₀ s) : Keeps r₀ (State.readGranule t s key) := by
  unfold State.readGranule; try dsimp only
  with_reducible repeat' first | assumption | apply Keeps.ite | apply State.count_keeps | apply State.setRing_keeps | apply State.setSlot_keeps | apply State.underrun_keeps | apply State.modSlot_keeps | dsimp only | split | apply Keeps.upd

theorem State.readTick_keeps {r₀ : State} {s : State} (t : Nat) (hk : Keeps r₀ s) : Keeps r₀ (State.readTick s t) := by
  unfold State.readTick; try dsimp only
  with_reducible repeat' first | assumption | apply Keeps.ite | apply State.frontTo_keeps | apply State.beginRead_keeps | apply State.readGranule_keeps | refine Keeps.fold ?_ (fun _ _ _ => ?_) | dsimp only

theorem State.roll_keeps {r₀ s : State} (o t : Nat) (p : Play) (h : Keeps r₀ s) : Keeps r₀ (s.roll o t p).1 := by
  unfold State.roll
  apply Keeps.ite1 h
  apply Keeps.ite1
  · split
    · exact h
    · exact State.raiseBit_keeps _ h
  · exact Keeps.ite1 h h

theorem State.slotSample_keeps {r₀ : State} {s : State} (o k m : Nat) (hk : Keeps r₀ s) : Keeps r₀ (State.slotSample s o k m) := by
  unfold State.slotSample; try dsimp only
  with_reducible repeat' first | assumption | apply Keeps.ite | apply State.setSlot_keeps | dsimp only | split | apply Keeps.upd

theorem State.satTick_keeps {r₀ : State} {s : State} (last t : Nat) (hk : Keeps r₀ s) : Keeps r₀ (State.satTick s last t) := by
  unfold State.satTick; try dsimp only
  with_reducible repeat' first | assumption | apply Keeps.ite | apply State.raiseBit_keeps | refine Keeps.fold ?_ (fun _ _ _ => ?_) | dsimp only

theorem State.clipTick_keeps {r₀ : State} {s : State} (last t : Nat) (hk : Keeps r₀ s) : Keeps r₀ (State.clipTick s last t) := by
  unfold State.clipTick; try dsimp only
  with_reducible repeat' first | assumption | apply Keeps.ite | apply State.raiseBit_keeps | apply State.countReg_keeps | refine Keeps.fold ?_ (fun _ _ _ => ?_) | dsimp only

theorem State.judgeTick_keeps {r₀ : State} {s : State} (t : Nat) (hk : Keeps r₀ s) : Keeps r₀ (State.judgeTick s t) := by
  unfold State.judgeTick; try dsimp only
  with_reducible repeat' first | assumption | apply Keeps.ite | apply State.satTick_keeps | apply State.clipTick_keeps | dsimp only

theorem State.rollSlot_keeps {r₀ s : State} (t key : Nat) (h : Keeps r₀ s) : Keeps r₀ (State.rollSlot t s key) := by
  unfold State.rollSlot
  dsimp only
  split
  · exact h
  · exact State.modSlot_keeps _ _ _ (State.roll_keeps _ _ _ h)

theorem State.rfTick_keeps {r₀ : State} {s : State} (t : Nat) (hk : Keeps r₀ s) : Keeps r₀ (State.rfTick s t) := by
  unfold State.rfTick; try dsimp only
  with_reducible repeat' first | assumption | apply Keeps.ite | apply State.readTick_keeps | apply State.rollSlot_keeps | apply State.slotSample_keeps | apply State.judgeTick_keeps | refine Keeps.fold ?_ (fun _ _ _ => ?_) | dsimp only

theorem State.rfTicks_keeps {r₀ : State} (n t : Nat) {s : State} (h : Keeps r₀ s) : Keeps r₀ (State.rfTicks n t s) := by
  induction n generalizing t s with
  | zero => exact h
  | succ n ih =>
    simp only [State.rfTicks]
    exact Keeps.ite h (ih _ (State.rfTick_keeps _ h))

theorem State.fluxSample_keeps {r₀ : State} {s : State} (i m : Nat) (hk : Keeps r₀ s) : Keeps r₀ (State.fluxSample s i m) := by
  unfold State.fluxSample; try dsimp only
  with_reducible repeat' first | assumption | apply Keeps.ite | apply State.setFlx_keeps | apply State.raiseBit_keeps | apply State.countReg_keeps | dsimp only | split | apply Keeps.upd

theorem State.fluxRoll_keeps {r₀ s : State} (i t : Nat) (h : Keeps r₀ s) : Keeps r₀ (s.fluxRoll i t) := by
  unfold State.fluxRoll
  split
  · exact h
  · exact State.setFlx_keeps _ _ (State.roll_keeps _ _ _ h)

theorem State.fluxTick_keeps {r₀ : State} (i : Nat) {s : State} (t : Nat) (hk : Keeps r₀ s) : Keeps r₀ (State.fluxTick i s t) := by
  unfold State.fluxTick; try dsimp only
  with_reducible repeat' first | assumption | apply Keeps.ite | apply State.fluxRoll_keeps | apply State.fluxSample_keeps

theorem State.fluxTicks_keeps {r₀ : State} (i n t : Nat) {s : State} (h : Keeps r₀ s) : Keeps r₀ (State.fluxTicks i n t s) := by
  induction n generalizing t s with
  | zero => exact h
  | succ n ih =>
    have h1 := State.fluxTick_keeps i t h
    simp only [State.fluxTicks]
    exact Keeps.ite h1 (ih _ h1)

theorem State.settle_keeps {r₀ : State} {s : State} (t : Nat) (hk : Keeps r₀ s) : Keeps r₀ (State.settle s t) := by
  unfold State.settle; try dsimp only
  with_reducible repeat' first | assumption | apply Keeps.ite | apply State.rfTicks_keeps | apply State.fluxTicks_keeps | apply State.setFlx_keeps | refine Keeps.fold ?_ (fun _ _ _ => ?_) | dsimp only | apply Keeps.upd

theorem State.pass_keeps {r₀ : State} {s : State} (n : Nat) (hk : Keeps r₀ s) : Keeps r₀ (State.pass s n) := by
  unfold State.pass; try dsimp only
  with_reducible repeat' first | assumption | apply Keeps.ite | apply State.settle_keeps | apply State.tickOn_keeps | apply State.haltDue_keeps

theorem State.advanceTo_keeps {r₀ : State} {s : State} (t : Nat) (hk : Keeps r₀ s) : Keeps r₀ (State.advanceTo s t) := by
  unfold State.advanceTo; try dsimp only
  with_reducible repeat' first | assumption | apply Keeps.ite | apply State.pass_keeps

theorem State.elapseTo_keeps {r₀ : State} {s : State} (u : Nat) (hk : Keeps r₀ s) : Keeps r₀ (State.elapseTo s u) := by
  unfold State.elapseTo; try dsimp only
  with_reducible repeat' first | assumption | apply Keeps.ite | apply State.pass_keeps

theorem State.cutPlay_keeps {r₀ : State} {s : State} (o tc : Nat) (p : Option Play) (hk : Keeps r₀ s) : Keeps r₀ (State.cutPlay s o tc p).1 := by
  unfold State.cutPlay; try dsimp only
  with_reducible repeat' first | assumption | apply Keeps.ite | apply State.raiseBit_keeps | dsimp only | split

theorem State.startPlay_keeps {r₀ : State} {s : State} (o k tc : Nat) (p : Option Play) (hk : Keeps r₀ s) : Keeps r₀ (State.startPlay s o k tc p) := by
  unfold State.startPlay; try dsimp only
  with_reducible repeat' first | assumption | apply Keeps.ite | apply State.cutPlay_keeps | apply State.modSlot_keeps | apply State.setFlx_keeps | dsimp only | apply Keeps.upd

theorem State.startSlot_keeps {r₀ : State} {s : State} (o k tc : Nat) (p : Option Play) (hk : Keeps r₀ s) : Keeps r₀ (State.startSlot s o k tc p) := by
  unfold State.startSlot; try dsimp only
  with_reducible repeat' first | assumption | apply Keeps.ite | apply State.modSlot_keeps | apply State.startPlay_keeps | dsimp only | apply Keeps.upd

theorem State.setCoef_keeps {r₀ : State} {s : State} (i idx : Nat) (v : Word) (hk : Keeps r₀ s) : Keeps r₀ (State.setCoef s i idx v) := by
  unfold State.setCoef; try dsimp only
  with_reducible repeat' first | assumption | apply Keeps.ite | apply State.setReg_keeps | dsimp only | apply Keeps.upd

theorem State.landSlot_keeps {r₀ : State} {s : State} (o k tc : Nat) (eff : Eff) (hk : Keeps r₀ s) : Keeps r₀ (State.landSlot s o k tc eff) := by
  unfold State.landSlot; try dsimp only
  with_reducible repeat' first | assumption | apply Keeps.ite | apply State.startSlot_keeps | apply State.raiseBit_keeps | apply State.modSlot_keeps | dsimp only | split | apply Keeps.upd

theorem State.landFlux_keeps {r₀ : State} {s : State} (i tc : Nat) (eff : Eff) (hk : Keeps r₀ s) : Keeps r₀ (State.landFlux s i tc eff) := by
  unfold State.landFlux; try dsimp only
  with_reducible repeat' first | assumption | apply Keeps.ite | apply State.startPlay_keeps | apply State.raiseBit_keeps | apply State.setFlx_keeps | apply State.setCoef_keeps | dsimp only | split | apply Keeps.upd

theorem State.landOut_keeps {r₀ : State} {s : State} (e tc : Nat) (eff : Eff) (hk : Keeps r₀ s) : Keeps r₀ (State.landOut s e tc eff) := by
  unfold State.landOut; try dsimp only
  with_reducible repeat' first | assumption | apply Keeps.ite | apply State.landSlot_keeps | apply State.landFlux_keeps

theorem State.takeJump_keeps {r₀ : State} {s : State} (o k : Nat) (cut : Bool) (hk : Keeps r₀ s) : Keeps r₀ (State.takeJump s o k cut) := by
  unfold State.takeJump; try dsimp only
  with_reducible repeat' first | assumption | apply Keeps.ite | apply State.raiseBit_keeps | apply State.modSlot_keeps | apply State.setFlx_keeps | dsimp only | apply Keeps.upd

theorem State.outEvent_keeps {r₀ : State} {s : State} (t : Nat) (x : Nat ⊕ (Nat × Nat × Bool)) (hk : Keeps r₀ s) : Keeps r₀ (State.outEvent s t x) := by
  unfold State.outEvent; try dsimp only
  with_reducible repeat' first | assumption | apply Keeps.ite | apply State.settle_keeps | apply State.modEng_keeps | apply State.landOut_keeps | apply State.takeJump_keeps | dsimp only | split | apply Keeps.upd

theorem State.outEvents_keeps {r₀ : State} (n t : Nat) {s : State} (h : Keeps r₀ s) : Keeps r₀ (State.outEvents n t s) := by
  induction n generalizing s with
  | zero => exact h
  | succ n ih =>
    simp only [State.outEvents]
    split
    · exact ih (State.outEvent_keeps _ _ h)
    · exact h

theorem State.outAt_keeps {r₀ : State} {s : State} (t : Nat) (hk : Keeps r₀ s) : Keeps r₀ (State.outAt s t) := by
  unfold State.outAt; try dsimp only
  with_reducible repeat' first | assumption | apply Keeps.ite | apply State.outEvents_keeps | apply State.settle_keeps | refine Keeps.fold ?_ (fun _ _ _ => ?_) | dsimp only

theorem State.judge_keeps {r₀ : State} {s : State} (hk : Keeps r₀ s) : Keeps r₀ (State.judge s) := by
  unfold State.judge; try dsimp only
  with_reducible repeat' first | assumption | apply Keeps.ite | apply State.outAt_keeps | apply State.put_keeps | refine Keeps.fold ?_ (fun _ _ _ => ?_) | dsimp only | apply Keeps.upd

theorem State.mvpIdle_keeps {r₀ : State} {s : State} (hk : Keeps r₀ s) : Keeps r₀ (State.mvpIdle s) := by
  unfold State.mvpIdle; try dsimp only
  with_reducible repeat' first | assumption | apply Keeps.ite | dsimp only | apply Keeps.upd

theorem State.dropLastState_keeps {r₀ : State} {s : State} (hk : Keeps r₀ s) : Keeps r₀ (State.dropLastState s) := by
  unfold State.dropLastState; try dsimp only
  with_reducible repeat' first | assumption | apply Keeps.ite | apply State.mvpIdle_keeps

theorem State.eachEng_keeps {r₀ : State} {s : State} (f : Eng → Eng) (hk : Keeps r₀ s) : Keeps r₀ (State.eachEng s f) := by
  unfold State.eachEng; try dsimp only
  with_reducible repeat' first | assumption | apply Keeps.ite | apply Keeps.upd

theorem State.haltAll_keeps {r₀ : State} {s : State} (t : Nat) (hk : Keeps r₀ s) : Keeps r₀ (State.haltAll s t) := by
  unfold State.haltAll; try dsimp only
  with_reducible repeat' first | assumption | apply Keeps.ite | apply Keeps.optIte | apply Keeps.optSome | apply Keeps.optNone | apply State.eachEng_keeps | apply Keeps.upd

theorem State.releaseEngs_keeps {r₀ : State} {s : State} (hk : Keeps r₀ s) : Keeps r₀ (State.releaseEngs s) := by
  unfold State.releaseEngs; try dsimp only
  with_reducible repeat' first | assumption | apply Keeps.ite | apply State.eachEng_keeps | split | apply Keeps.upd

theorem State.cutSlots_keeps {r₀ : State} {s : State} (hk : Keeps r₀ s) : Keeps r₀ (State.cutSlots s) := by
  unfold State.cutSlots; try dsimp only
  with_reducible repeat' first | assumption | apply Keeps.ite | apply Keeps.upd

theorem State.cutFlux_keeps {r₀ : State} {s : State} (hk : Keeps r₀ s) : Keeps r₀ (State.cutFlux s) := by
  unfold State.cutFlux; try dsimp only
  with_reducible repeat' first | assumption | apply Keeps.ite | apply Keeps.upd

theorem State.startRamp_keeps {r₀ : State} {s : State} (i : Nat) (target : Int) (off : Bool) (hk : Keeps r₀ s) : Keeps r₀ (State.startRamp s i target off) := by
  unfold State.startRamp; try dsimp only
  with_reducible repeat' first | assumption | apply Keeps.ite | apply State.setFlx_keeps | apply State.raiseBit_keeps | dsimp only | apply Keeps.upd

theorem State.safeRamps_keeps {r₀ : State} {s : State} (hk : Keeps r₀ s) : Keeps r₀ (State.safeRamps s) := by
  unfold State.safeRamps; try dsimp only
  with_reducible repeat' first | assumption | apply Keeps.ite | apply State.startRamp_keeps | refine Keeps.fold ?_ (fun _ _ _ => ?_) | dsimp only

theorem State.unprime_keeps {r₀ : State} {s : State} (hk : Keeps r₀ s) : Keeps r₀ (State.unprime s) := by
  unfold State.unprime; try dsimp only
  with_reducible repeat' first | assumption | apply Keeps.ite | apply State.setRing_keeps | apply State.put_keeps | refine Keeps.fold ?_ (fun _ _ _ => ?_) | dsimp only | apply Keeps.upd

theorem State.applyAtt_keeps {r₀ : State} {s : State} (hk : Keeps r₀ s) : Keeps r₀ (State.applyAtt s) := by
  unfold State.applyAtt; try dsimp only
  with_reducible repeat' first | assumption | apply Keeps.ite | apply State.put_keeps | refine Keeps.fold ?_ (fun _ _ _ => ?_) | dsimp only

theorem State.setMode_keeps {r₀ : State} {s0 : State} (m : Mode) (hk : Keeps r₀ s0) : Keeps r₀ (State.setMode s0 m) := by
  unfold State.setMode; try dsimp only
  with_reducible repeat' first | assumption | apply Keeps.ite | apply State.dropLastState_keeps | apply State.run_keeps | apply State.applyAtt_keeps | apply State.put_keeps | dsimp only | apply Keeps.upd

theorem State.interruptCommands_keeps {r₀ : State} {s : State} (hk : Keeps r₀ s) : Keeps r₀ (State.interruptCommands s) := by
  unfold State.interruptCommands; try dsimp only
  with_reducible repeat' first | assumption | apply Keeps.ite | apply State.complete_keeps | refine Keeps.fold ?_ (fun _ _ _ => ?_) | dsimp only | split | apply Keeps.upd

theorem State.freezeQuarry_keeps {r₀ : State} {s : State} (hk : Keeps r₀ s) : Keeps r₀ (State.freezeQuarry s) := by
  unfold State.freezeQuarry; try dsimp only
  with_reducible repeat' first | assumption | apply Keeps.ite | apply State.put_keeps | apply Keeps.upd

theorem State.acqsSafe_keeps {r₀ : State} {s : State} (hk : Keeps r₀ s) : Keeps r₀ (State.acqsSafe s) := by
  unfold State.acqsSafe; try dsimp only
  with_reducible repeat' first | assumption | apply Keeps.ite | apply State.acqSafe_keeps | refine Keeps.fold ?_ (fun _ _ _ => ?_) | dsimp only

theorem State.enterSafe_keeps {r₀ : State} {s : State} (first : Nat) (cmd : Bool) (hk : Keeps r₀ s) : Keeps r₀ (State.enterSafe s first cmd) := by
  unfold State.enterSafe; try dsimp only
  with_reducible repeat' first | assumption | apply Keeps.ite | apply State.run_keeps | apply State.judge_keeps | apply State.interruptCommands_keeps | apply State.haltAll_keeps | apply State.releaseEngs_keeps | apply State.cutSlots_keeps | apply State.cutFlux_keeps | apply State.safeRamps_keeps | apply State.unprime_keeps | apply State.mvpIdle_keeps | apply State.acqsSafe_keeps | apply State.freezeQuarry_keeps | apply State.announceSafe_keeps | apply State.put_keeps | apply State.setMode_keeps | apply State.msi_keeps | apply State.notice_keeps | dsimp only | apply Keeps.upd

theorem State.safeCause_keeps {r₀ : State} {s : State} (bit : Nat) (cmd : Bool) (hk : Keeps r₀ s) : Keeps r₀ (State.safeCause s bit cmd) := by
  unfold State.safeCause; try dsimp only
  with_reducible repeat' first | assumption | apply Keeps.ite | apply State.setReg_keeps | apply State.put_keeps | apply State.interruptCommands_keeps | apply State.safeRamps_keeps | apply State.enterSafe_keeps | dsimp only | split | apply Keeps.upd

theorem State.engFault_keeps {r₀ : State} {s : State} (e code arg : Nat) (pc : Option Nat) (hk : Keeps r₀ s) : Keeps r₀ (State.engFault s e code arg pc) := by
  unfold State.engFault; try dsimp only
  with_reducible repeat' first | assumption | apply Keeps.ite | apply State.setEng_keeps | apply State.sysCue_keeps | apply State.logEntry_keeps | apply State.advanceTo_keeps | apply State.safeCause_keeps | dsimp only

theorem State.lockTo_keeps {r₀ : State} {s : State} (b : Bool) (hk : Keeps r₀ s) : Keeps r₀ (State.lockTo s b) := by
  unfold State.lockTo; try dsimp only
  with_reducible repeat' first | assumption | apply Keeps.ite | apply State.put_keeps | dsimp only | apply Keeps.upd

theorem State.loseLock_keeps {r₀ : State} {s : State} (hk : Keeps r₀ s) : Keeps r₀ (State.loseLock s) := by
  unfold State.loseLock; try dsimp only
  with_reducible repeat' first | assumption | apply Keeps.ite | apply State.put_keeps | apply State.sysCue_keeps | dsimp only | apply Keeps.upd

theorem State.switchRef_keeps {r₀ : State} {s : State} (b : Bool) (hk : Keeps r₀ s) : Keeps r₀ (State.switchRef s b) := by
  unfold State.switchRef; try dsimp only
  with_reducible repeat' first | assumption | apply Keeps.ite | apply State.put_keeps | apply State.raiseBit_keeps | apply State.count_keeps | apply State.sysCue_keeps

theorem State.lockAgain_keeps {r₀ : State} {s : State} (b : Bool) (hk : Keeps r₀ s) : Keeps r₀ (State.lockAgain s b) := by
  unfold State.lockAgain; try dsimp only
  with_reducible repeat' first | assumption | apply Keeps.ite | apply State.switchRef_keeps | apply State.lockTo_keeps

theorem State.relock_keeps {r₀ : State} {s : State} (hk : Keeps r₀ s) : Keeps r₀ (State.relock s) := by
  unfold State.relock; try dsimp only
  with_reducible repeat' first | assumption | apply Keeps.ite | apply State.lockAgain_keeps | apply State.loseLock_keeps | split

theorem State.regain_keeps {r₀ : State} {s : State} (b : Bool) (edge : Nat) (hk : Keeps r₀ s) : Keeps r₀ (State.regain s b edge) := by
  unfold State.regain; try dsimp only
  with_reducible repeat' first | assumption | apply Keeps.ite | apply State.lockAgain_keeps | apply State.put_keeps | dsimp only

theorem State.loadTT_keeps {r₀ : State} {s : State} (v : Nat) (hk : Keeps r₀ s) : Keeps r₀ (State.loadTT s v) := by
  unfold State.loadTT; try dsimp only
  with_reducible repeat' first | assumption | apply Keeps.ite | apply step_keeps | dsimp only | apply Keeps.upd

theorem State.applyTrim_keeps {r₀ : State} {s : State} (hk : Keeps r₀ s) : Keeps r₀ (State.applyTrim s) := by
  unfold State.applyTrim; try dsimp only
  with_reducible repeat' first | assumption | apply Keeps.ite | apply State.put_keeps | apply State.acqSettle_keeps | refine Keeps.fold ?_ (fun _ _ _ => ?_) | dsimp only | apply Keeps.upd

theorem State.setDom_keeps {r₀ : State} {s : State} (b : Bool) (d : Dom) (hk : Keeps r₀ s) : Keeps r₀ (State.setDom s b d) := by
  unfold State.setDom; try dsimp only
  with_reducible repeat' first | assumption | apply Keeps.ite | apply Keeps.upd

theorem State.domOffset_keeps {r₀ : State} {s : State} (b : Bool) (off : Int) (hk : Keeps r₀ s) : Keeps r₀ (State.domOffset s b off) := by
  unfold State.domOffset; try dsimp only
  with_reducible repeat' first | assumption | apply Keeps.ite | apply State.setDom_keeps | apply State.put_keeps | dsimp only | apply Keeps.upd

theorem State.domEstimate_keeps {r₀ : State} {s : State} (b : Bool) (off : Int) (hk : Keeps r₀ s) : Keeps r₀ (State.domEstimate s b off) := by
  unfold State.domEstimate; try dsimp only
  with_reducible repeat' first | assumption | apply Keeps.ite | apply State.setDom_keeps | apply State.domOffset_keeps | dsimp only | apply Keeps.upd

theorem State.setWt_keeps {r₀ : State} {s : State} (sec ns frac : Nat) (hk : Keeps r₀ s) : Keeps r₀ (State.setWt s sec ns frac) := by
  unfold State.setWt; try dsimp only
  with_reducible repeat' first | assumption | apply Keeps.ite | apply State.markWt_keeps | apply State.domOffset_keeps | refine Keeps.fold ?_ (fun _ _ _ => ?_) | dsimp only | apply Keeps.upd

theorem State.moveWt_keeps {r₀ : State} {s : State} (d : Int) (hk : Keeps r₀ s) : Keeps r₀ (State.moveWt s d) := by
  unfold State.moveWt; try dsimp only
  with_reducible repeat' first | assumption | apply Keeps.ite | apply State.setWt_keeps | dsimp only

theorem State.sourceLost_keeps {r₀ : State} {s : State} (b : Bool) (hk : Keeps r₀ s) : Keeps r₀ (State.sourceLost s b) := by
  unfold State.sourceLost; try dsimp only
  with_reducible repeat' first | assumption | apply Keeps.ite | apply State.setDom_keeps | apply State.put_keeps | apply Keeps.upd

theorem State.skim_keeps {r₀ : State} (l : List QueuedCmd) {s : State} (h : Keeps r₀ s) : Keeps r₀ (State.skim l s) := by
  induction l generalizing s with
  | nil => exact Keeps.upd h
  | cons q qs ih =>
    simp only [State.skim]
    apply Keeps.ite
    · exact ih (State.complete_keeps _ _ _ _ _ h)
    · exact Keeps.upd h

theorem State.skimQ_keeps {r₀ : State} {s : State} (hk : Keeps r₀ s) : Keeps r₀ (State.skimQ s) := by
  unfold State.skimQ; try dsimp only
  with_reducible repeat' first | assumption | apply Keeps.ite | apply State.skim_keeps | intro _ | dsimp only

theorem State.popAdmin_keeps {r₀ s u : State} {op : Nat} {c : Cmd} (h : Keeps r₀ s) (hu : s.popAdmin op c = some u) : Keeps r₀ u := by
  simp only [State.popAdmin] at hu
  split at hu
  · cases hu
  · split at hu
    · cases hu; exact h
    · split at hu
      · cases hu; exact State.skimQ_keeps (Keeps.upd h)
      · cases hu

theorem State.admin_keeps {r₀ s : State} {op : Nat} {c : Cmd} {ok : Bool} {body : State → State} (h : Keeps r₀ s)
    (hb : ∀ u, Keeps r₀ u → Keeps r₀ (body u)) : KeepsR r₀ (s.admin op c ok body) := by
  unfold State.admin
  split
  · exact KeepsR.next h
  · rename_i u hu
    have hk := State.popAdmin_keeps h hu
    apply KeepsR.ite
    · exact KeepsR.next (State.complete_keeps _ _ _ _ _ hk)
    · split
      · exact KeepsR.next (hb _ hk)
      · exact KeepsR.next (State.complete_keeps _ _ _ _ _ (State.countReg_keeps _ _ _ _ hk))
      · exact KeepsR.next (State.complete_keeps _ _ _ _ _ hk)

theorem State.journal_keeps {r₀ s : State} (rs : List JRec) (h : Keeps r₀ s) : Keeps r₀ (s.journal rs) := by
  unfold State.journal
  apply State.put_keeps
  apply State.put_keeps
  exact ⟨h.queue, h.sram, h.bulk, Nat.le_trans h.minGh (Flash.append_min _ _ _ _).1, Nat.le_trans h.minPa (Flash.append_min _ _ _ _).2⟩

theorem State.persist_keeps {r₀ s : State} (rs : List JRec) (h : Keeps r₀ s) : Keeps r₀ (s.persist rs).1 := by
  have hf {f : List JRec} : Keeps r₀ { s with flash := { s.flash with todo := f } } := ⟨h.queue, h.sram, h.bulk, h.minGh, h.minPa⟩
  unfold State.persist
  apply Keeps.ite1
  · apply Keeps.ite
    · exact State.put_keeps _ _ (State.journal_keeps _ hf)
    · exact State.journal_keeps _ hf
  · exact State.raiseBit_keeps _ hf

theorem execGetStatus_keeps {r₀ : State} (c : Cmd) {s : State} (hk : Keeps r₀ s) : KeepsR r₀ (execGetStatus c s) := by
  unfold execGetStatus; try dsimp only
  with_reducible repeat' first | assumption | apply KeepsR.next | apply KeepsR.ite | apply Keeps.ite | apply State.admin_keeps | apply State.complete_keeps | intro _ | dsimp only

theorem execReadLog_keeps {r₀ : State} (c : Cmd) {s : State} (hk : Keeps r₀ s) : KeepsR r₀ (execReadLog c s) := by
  unfold execReadLog; try dsimp only
  with_reducible repeat' first | assumption | apply KeepsR.next | apply KeepsR.ite | apply Keeps.ite | apply State.admin_keeps | apply State.complete_keeps | intro _ | dsimp only

theorem execCommit_keeps {r₀ : State} (c : Cmd) {s : State} (hk : Keeps r₀ s) : KeepsR r₀ (execCommit c s) := by
  unfold execCommit; try dsimp only
  with_reducible repeat' first | assumption | apply KeepsR.next | apply KeepsR.ite | apply Keeps.ite | apply State.admin_keeps | apply State.complete_keeps | intro _ | dsimp only

theorem execReadTelemetry_keeps {r₀ : State} (c : Cmd) {s : State} (hk : Keeps r₀ s) : KeepsR r₀ (execReadTelemetry c s) := by
  unfold execReadTelemetry; try dsimp only
  with_reducible repeat' first | assumption | apply KeepsR.next | apply KeepsR.ite | apply Keeps.ite | apply State.admin_keeps | apply State.complete_keeps | intro _ | dsimp only | apply Keeps.upd

theorem State.setThr_keeps {r₀ : State} {s : State} (z : Nat) (a b : Word) (hk : Keeps r₀ s) : Keeps r₀ (State.setThr s z a b) := by
  unfold State.setThr; try dsimp only
  with_reducible repeat' first | assumption | apply Keeps.ite | apply State.setReg_keeps | dsimp only | apply Keeps.upd

theorem execSetThresholds_keeps {r₀ : State} (c : Cmd) {s : State} (hk : Keeps r₀ s) : KeepsR r₀ (execSetThresholds c s) := by
  unfold execSetThresholds; try dsimp only
  with_reducible repeat' first | assumption | apply KeepsR.next | apply KeepsR.ite | apply Keeps.ite | apply State.admin_keeps | apply State.complete_keeps | apply State.setThr_keeps | apply State.persist_keeps | refine Keeps.fold ?_ (fun _ _ _ => ?_) | intro _ | dsimp only

theorem State.toInterval_keeps {r₀ : State} {s : State} (period : Nat) (hk : Keeps r₀ s) : Keeps r₀ (State.toInterval s period) := by
  unfold State.toInterval; try dsimp only
  with_reducible repeat' first | assumption | apply Keeps.ite | apply State.elapseTo_keeps | apply State.advanceTo_keeps

theorem State.setLimit_keeps {r₀ : State} {s : State} (hk : Keeps r₀ s) : Keeps r₀ (State.setLimit s) := by
  unfold State.setLimit; try dsimp only
  with_reducible repeat' first | assumption | apply Keeps.ite | apply State.put_keeps | dsimp only

theorem State.groupLeaves_keeps {r₀ : State} {s : State} (g : Nat) (hk : Keeps r₀ s) : Keeps r₀ (State.groupLeaves s g) := by
  unfold State.groupLeaves; try dsimp only
  with_reducible repeat' first | assumption | apply Keeps.ite | apply State.put_keeps | apply State.setLimit_keeps | apply State.logEntry_keeps | dsimp only

theorem State.uncorrectable_keeps {r₀ : State} {s : State} (a : Nat) (hk : Keeps r₀ s) : Keeps r₀ (State.uncorrectable s a) := by
  unfold State.uncorrectable; try dsimp only
  with_reducible repeat' first | assumption | apply Keeps.ite | apply State.countReg_keeps | apply State.wr64_keeps | apply State.sysCue_keeps | apply State.put_keeps | apply State.groupLeaves_keeps | dsimp only | split | apply Keeps.upd

theorem State.trainChannel_keeps {r₀ : State} {s : State} (sw : List Sweep) (c : Nat) (hk : Keeps r₀ s) : Keeps r₀ (State.trainChannel s sw c) := by
  unfold State.trainChannel; try dsimp only
  with_reducible repeat' first | assumption | apply Keeps.ite | apply State.takeFree_keeps | apply State.setReg_keeps | dsimp only

theorem State.fullTrain_keeps {r₀ s : State} (sw : List Sweep) (keep : Bool) (h : Keeps r₀ s) : Keeps r₀ (s.fullTrain sw keep) := by
  unfold State.fullTrain
  extract_lets ok gs map same s1 s2 s3 m4 s4
  have h1 : Keeps r₀ s1 := State.put_keeps _ _ (State.put_keeps _ _ (State.put_keeps _ _ (State.put_keeps _ _ h)))
  have h2 : Keeps r₀ s2 := Keeps.ite h1 ⟨h1.queue, h1.sram, fun _ => rfl, h1.minGh, h1.minPa⟩
  have h3 : Keeps r₀ s3 := Keeps.ite h2 (Keeps.fold h2 (fun _ _ hx => Keeps.fold hx (fun _ _ hy => State.trainChannel_keeps _ _ hy)))
  have h4 : Keeps r₀ s4 := State.setLimit_keeps ⟨h3.queue, h3.sram, h3.bulk, h3.minGh, h3.minPa⟩
  exact Keeps.fold h4 (fun _ _ hx => State.logEntry_keeps _ _ _ _ hx)

theorem State.writeVerdict_keeps {r₀ : State} {s : State} (v t : Nat) (x : Option Verdict) (hk : Keeps r₀ s) : Keeps r₀ (State.writeVerdict s v t x) := by
  unfold State.writeVerdict; try dsimp only
  with_reducible repeat' first | assumption | apply Keeps.ite | refine Keeps.fold ?_ (fun _ _ _ => ?_) | dsimp only | split | apply Keeps.upd

theorem State.togglePauli_keeps {r₀ : State} {s : State} (q : Nat) (v : BitVec 2) (hk : Keeps r₀ s) : Keeps r₀ (State.togglePauli s q v) := by
  unfold State.togglePauli; try dsimp only
  with_reducible repeat' first | assumption | apply Keeps.ite | dsimp only | apply Keeps.upd

theorem State.storeDesc_keeps {r₀ : State} {s : State} (o d : Nat) (w0 w1 : Word) (hk : Keeps r₀ s) : Keeps r₀ (State.storeDesc s o d w0 w1) := by
  unfold State.storeDesc; try dsimp only
  with_reducible repeat' first | assumption | apply Keeps.ite | apply State.raiseBit_keeps | apply Memory.wf_memSetWord | dsimp only | apply Keeps.upd | refine Keeps.mkS ?_ (fun w => ?_)

theorem State.passGate_keeps {r₀ : State} {s : State} (o : Nat) (desc : Option Nat) (gran rs : List (Nat × Nat)) (tag : Option (BitVec 16)) (hk : Keeps r₀ s) : Keeps r₀ (State.passGate s o desc gran rs tag) := by
  unfold State.passGate; try dsimp only
  with_reducible repeat' first | assumption | apply Keeps.ite | dsimp only | apply Keeps.upd

theorem State.unpass_keeps {r₀ s : State} (g : GatePass) (h : Keeps r₀ s) : Keeps r₀ (s.unpass g) := by
  have h1 : Keeps r₀ { s with sram := g.old.foldl (fun (m : Memory) (r : Nat × List Byte) => memSets m r.1 r.2) s.sram
                              gate := s.gate.filter (· != g) } :=
    ⟨h.queue, fun w => Memory.wf_fold (h.sram w) (fun m x hm => Memory.wf_memSets m _ _ hm), h.bulk, h.minGh, h.minPa⟩
  unfold State.unpass
  extract_lets s1 s2 s3
  have h3 : Keeps r₀ s3 := State.dropWrite_keeps _ (Keeps.ite (State.put_keeps _ _ h1) h1)
  split
  · exact h3
  · exact ⟨h3.queue, h3.sram, h3.bulk, h3.minGh, h3.minPa⟩

theorem State.activate_keeps {r₀ : State} {s : State} (o : Nat) (segs : List Nat) (hk : Keeps r₀ s) : Keeps r₀ (State.activate s o segs) := by
  unfold State.activate; try dsimp only
  with_reducible repeat' first | assumption | apply Keeps.ite | apply State.unpass_keeps | refine Keeps.fold ?_ (fun _ _ _ => ?_) | dsimp only | split

theorem State.libWord_keeps {r₀ s : State} (a : Nat) (w : Word) (h : Keeps r₀ s) : Keeps r₀ (s.libWord a w) := by
  unfold State.libWord
  split
  · apply Keeps.ite (State.dropWrite_keeps _ h)
    exact Keeps.mkS2 (State.passGate_keeps _ _ _ _ _ h) h (fun hw => Memory.wf_memSetWord _ _ _ hw)
  · exact h

theorem State.fin_keeps {r₀ : State} {s : State} (e cost : Nat) (hk : Keeps r₀ s) : Keeps r₀ (State.fin s e cost) := by
  unfold State.fin; try dsimp only
  with_reducible repeat' first | assumption | apply Keeps.ite | apply State.modEng_keeps | apply Keeps.upd

theorem State.finAt_keeps {r₀ : State} {s : State} (e pc cost : Nat) (hk : Keeps r₀ s) : Keeps r₀ (State.finAt s e pc cost) := by
  unfold State.finAt; try dsimp only
  with_reducible repeat' first | assumption | apply Keeps.ite | apply State.modEng_keeps | apply Keeps.upd

theorem State.issue_keeps {r₀ s : State} {e : Nat} {f : JWord} {F : Form} {more : Eng → Bool} {xfer tl : Bool}
    {skip : State → Eng → State} {run : State → Eng → Option State} (h : Keeps r₀ s)
    (hs : ∀ u g, Keeps r₀ u → Keeps r₀ (skip u g))
    (hr : ∀ u g v, Keeps r₀ u → Keeps r₀ v → Keeps r₀ ((run u g).getD v)) :
    KeepsR r₀ (s.issue e f F more xfer tl skip run) := by
  have h1 := State.advanceTo_keeps (s.issueTick e) h
  unfold State.issue
  apply KeepsR.ite (KeepsR.next h)
  dsimp only
  split
  · exact KeepsR.next (State.engFault_keeps _ _ _ _ (State.modEng_keeps _ _ h1))
  · exact KeepsR.next (State.engFault_keeps _ _ _ _ (State.modEng_keeps _ _ h1))
  · rename_i s1 _ _ hc
    have h2 : Keeps r₀ s1 := by simpa [hc] using State.fetchInstr_keeps e h1
    exact KeepsR.next (State.engFault_keeps _ _ _ _ h2)
  · rename_i s1 _ _ hc
    have h2 : Keeps r₀ s1 := by simpa [hc] using State.fetchInstr_keeps e h1
    apply KeepsR.ite (KeepsR.next (State.engFault_keeps _ _ _ _ h2))
    apply KeepsR.ite (KeepsR.next (State.engFault_keeps _ _ _ _ h2))
    exact KeepsR.ite (KeepsR.next (hr _ _ _ h2 h)) (KeepsR.next (hs _ _ h2))

theorem State.issue_some {r₀ s : State} {e : Nat} {f : JWord} {F : Form} {more : Eng → Bool} {xfer tl : Bool}
    {skip : State → Eng → State} {run : State → Eng → Option State} (h : Keeps r₀ s)
    (hs : ∀ u g, Keeps r₀ u → Keeps r₀ (skip u g))
    (hr : ∀ u g v, Keeps r₀ u → run u g = some v → Keeps r₀ v) :
    KeepsR r₀ (s.issue e f F more xfer tl skip run) := by
  refine State.issue_keeps h hs (fun u g v hu hv => ?_)
  cases hx : run u g with
  | none => exact hv
  | some w => exact hr u g w hu hx

theorem State.issuePlain_keeps {r₀ s : State} {e : Nat} {f : JWord} {F : Form} {more : Eng → Bool} {cost : Nat}
    {act : State → Eng → State} (h : Keeps r₀ s) (ha : ∀ u g, Keeps r₀ u → Keeps r₀ (act u g)) :
    KeepsR r₀ (s.issuePlain e f F more cost act) := by
  unfold State.issuePlain
  exact State.issue_keeps h (fun u _ hu => State.fin_keeps _ _ hu) (fun u g v hu _ => State.fin_keeps _ _ (ha u g hu))

theorem State.advTc_keeps {r₀ : State} {s : State} (e adv : Nat) (hk : Keeps r₀ s) : Keeps r₀ (State.advTc s e adv) := by
  unfold State.advTc; try dsimp only
  with_reducible repeat' first | assumption | apply Keeps.ite | apply State.modEng_keeps | apply Keeps.upd

theorem State.deposit_keeps {r₀ s : State} (e : Nat) (eff : Eff) (adv cost : Nat) (mark : Option Eff) (h : Keeps r₀ s) :
    Keeps r₀ (s.deposit e eff adv cost mark) := by
  have h1 : Keeps r₀ (if (s.eng e).lateCue then s.sysCue 904 else s) := Keeps.ite (State.sysCue_keeps _ h) h
  unfold State.deposit
  apply Keeps.ite (State.setEng_keeps _ _ h)
  split
  · exact State.engFault_keeps _ _ _ _ h
  · exact State.engFault_keeps _ _ _ _ h
  · apply Keeps.ite
    · exact State.engFault_keeps _ _ _ _ h1
    · exact State.fin_keeps _ _ (State.advTc_keeps _ _ (State.setEng_keeps _ _ h1))
  · exact State.fin_keeps _ _ (State.advTc_keeps _ _ (State.setEng_keeps _ _ h))

theorem State.issueTimeline_keeps {r₀ s : State} {e : Nat} {f : JWord} {F : Form} {more : Eng → Bool} {cost : Nat}
    {adv : State → Eng → Nat} {eff : State → Eng → Eff} {mark : Option Eff} (h : Keeps r₀ s) :
    KeepsR r₀ (s.issueTimeline e f F more cost adv eff mark) := by
  unfold State.issueTimeline
  exact State.issue_keeps h (fun u _ hu => State.fin_keeps _ _ (State.advTc_keeps _ _ hu))
    (fun u g v hu _ => State.deposit_keeps _ _ _ _ _ hu)

theorem State.modMe_keeps {r₀ : State} {s : State} (e : Nat) (f : Me → Me) (hk : Keeps r₀ s) : Keeps r₀ (State.modMe s e f) := by
  unfold State.modMe; try dsimp only
  with_reducible repeat' first | assumption | apply Keeps.ite | apply State.modEng_keeps | apply Keeps.upd

theorem State.useAg_keeps {r₀ : State} {s : State} (e k p : Nat) (hk : Keeps r₀ s) : Keeps r₀ (State.useAg s e k p).2 := by
  unfold State.useAg; try dsimp only
  with_reducible repeat' first | assumption | apply Keeps.ite | apply State.setEng_keeps | dsimp only | apply Keeps.upd

theorem State.portWrite_keeps {r₀ : State} {s : State} (e : Nat) (y : Bool) (a p : Nat) (w : Word) (hk : Keeps r₀ s) : Keeps r₀ (State.portWrite s e y a p w) := by
  unfold State.portWrite; try dsimp only
  with_reducible repeat' first | assumption | apply Keeps.ite | apply State.setDataWord_keeps | apply State.modMe_keeps | dsimp only | apply Keeps.upd

theorem State.meInvalid_keeps {r₀ : State} {s : State} (e : Nat) (hk : Keeps r₀ s) : Keeps r₀ (State.meInvalid s e) := by
  unfold State.meInvalid; try dsimp only
  with_reducible repeat' first | assumption | apply Keeps.ite | apply State.modMe_keeps | apply Keeps.upd

theorem State.overflow_keeps {r₀ : State} {s : State} (e tick : Nat) (fired : Bool) (hk : Keeps r₀ s) : Keeps r₀ (State.overflow s e tick fired) := by
  unfold State.overflow; try dsimp only
  with_reducible repeat' first | assumption | apply Keeps.ite | apply State.modEng_keeps | apply State.meInvalid_keeps | apply State.raiseAt_keeps | dsimp only

theorem State.addProduct_keeps {r₀ s : State} (e tick : Nat) (p : Int × Int) (fired : Bool) (h : Keeps r₀ s) :
    Keeps r₀ (s.addProduct e tick p fired).1 := by
  unfold State.addProduct
  extract_lets m sat s1
  have h1 : Keeps r₀ s1 := State.modMe_keeps _ _ h
  apply Keeps.ite1
  · exact State.overflow_keeps _ _ _ h1
  · exact h1

theorem State.accEcc_keeps {r₀ : State} {s : State} (e tick : Nat) (r : AccRun) (hk : Keeps r₀ s) : Keeps r₀ (State.accEcc s e tick r) := by
  unfold State.accEcc; try dsimp only
  with_reducible repeat' first | assumption | apply Keeps.ite | apply State.modEng_keeps | apply State.run_keeps | apply Keeps.upd

theorem State.memProduct_keeps {r₀ s : State} (e : Nat) (r : AccRun) (h : Keeps r₀ s) : Keeps r₀ (s.memProduct e r) := by
  unfold State.memProduct
  extract_lets ux uy
  have hy : Keeps r₀ uy.2 := State.useAg_keeps _ _ _ (State.useAg_keeps _ _ _ h)
  split
  · exact State.accEcc_keeps _ _ _ h
  · rename_i t ht
    cases hx : uy.2.eccData e false ux.1 with
    | none => rw [hx] at ht; cases ht
    | some v =>
      rw [hx] at ht
      exact State.modMe_keeps _ _ (State.addProduct_keeps _ _ _ _ (State.eccData_keeps (State.eccData_keeps hy hx) ht))

theorem State.winProduct_keeps {r₀ s : State} (e : Nat) (r : AccRun) (b : BufSample) (tick : Nat) (h : Keeps r₀ s) :
    Keeps r₀ (s.winProduct e r b tick) := by
  unfold State.winProduct
  extract_lets ux
  have hx : Keeps r₀ ux.2 := State.useAg_keeps _ _ _ h
  split
  · exact State.accEcc_keeps _ _ _ h
  · rename_i t ht
    extract_lets a q s1
    have hq : Keeps r₀ q.1 := State.addProduct_keeps _ _ _ _ (State.eccData_keeps hx ht)
    exact State.modMe_keeps _ _ (Keeps.ite (State.meInvalid_keeps _ hq) hq)

theorem State.makeCapture_keeps {r₀ : State} {s : State} (e : Nat) (c : Nat × Word) (hk : Keeps r₀ s) : Keeps r₀ (State.makeCapture s e c) := by
  unfold State.makeCapture; try dsimp only
  with_reducible repeat' first | assumption | apply Keeps.ite | apply State.useAg_keeps | apply State.portWrite_keeps | apply State.modMe_keeps | dsimp only | apply Keeps.upd

theorem State.catchUp_keeps {r₀ : State} (e t n : Nat) {s : State} (h : Keeps r₀ s) : Keeps r₀ (State.catchUp e t n s) := by
  induction n generalizing s with
  | zero => exact h
  | succ n ih =>
    simp only [State.catchUp]
    split
    · exact ih (State.makeCapture_keeps _ _ h)
    · exact ih (State.winProduct_keeps _ _ _ _ h)
    · exact ih (State.memProduct_keeps _ _ h)
    · exact Keeps.ite (State.modMe_keeps _ _ h) h
    · exact h

theorem State.meTo_keeps {r₀ : State} {s : State} (e t : Nat) (hk : Keeps r₀ s) : Keeps r₀ (State.meTo s e t) := by
  unfold State.meTo; try dsimp only
  with_reducible repeat' first | assumption | apply Keeps.ite | apply State.catchUp_keeps | apply State.modMe_keeps | apply Keeps.upd

theorem State.meSeen_keeps {r₀ : State} {s : State} (e : Nat) (hk : Keeps r₀ s) : Keeps r₀ (State.meSeen s e) := by
  unfold State.meSeen; try dsimp only
  with_reducible repeat' first | assumption | apply Keeps.ite | apply State.meTo_keeps

theorem State.mesTo_keeps {r₀ : State} {s : State} (t : Nat) (hk : Keeps r₀ s) : Keeps r₀ (State.mesTo s t) := by
  unfold State.mesTo; try dsimp only
  with_reducible repeat' first | assumption | apply Keeps.ite | apply State.meTo_keeps | refine Keeps.fold ?_ (fun _ _ _ => ?_) | dsimp only

theorem execNop_keeps {r₀ : State} (e : Fin 1024) (f : JWord) {s : State} (hk : Keeps r₀ s) : KeepsR r₀ (execNop e f s) := by
  unfold execNop; try dsimp only
  with_reducible repeat' first | assumption | apply KeepsR.next | apply KeepsR.ite | apply Keeps.ite | apply Keeps.optIte | apply Keeps.optSome | apply Keeps.optNone | apply State.issuePlain_keeps | intro _ | dsimp only | apply Keeps.upd

theorem execJmp_keeps {r₀ : State} (e : Fin 1024) (f : JWord) {s : State} (hk : Keeps r₀ s) : KeepsR r₀ (execJmp e f s) := by
  unfold execJmp; try dsimp only
  with_reducible repeat' first | assumption | apply KeepsR.next | apply KeepsR.ite | apply Keeps.ite | apply Keeps.optIte | apply Keeps.optSome | apply Keeps.optNone | apply State.issue_keeps | apply State.fin_keeps | apply State.engFault_keeps | apply State.finAt_keeps | intro _ | dsimp only | apply Keeps.upd

theorem execJmpc_keeps {r₀ : State} (e : Fin 1024) (f : JWord) {s : State} (hk : Keeps r₀ s) : KeepsR r₀ (execJmpc e f s) := by
  unfold execJmpc; try dsimp only
  with_reducible repeat' first | assumption | apply KeepsR.next | apply KeepsR.ite | apply Keeps.ite | apply Keeps.optIte | apply Keeps.optSome | apply Keeps.optNone | apply State.issue_keeps | apply State.fin_keeps | apply State.setEng_keeps | apply State.finAt_keeps | apply State.engFault_keeps | intro _ | dsimp only | apply Keeps.upd

theorem execCall_keeps {r₀ : State} (e : Fin 1024) (f : JWord) {s : State} (hk : Keeps r₀ s) : KeepsR r₀ (execCall e f s) := by
  unfold execCall; try dsimp only
  with_reducible repeat' first | assumption | apply KeepsR.next | apply KeepsR.ite | apply Keeps.ite | apply Keeps.optIte | apply Keeps.optSome | apply Keeps.optNone | apply State.issue_keeps | apply State.fin_keeps | apply State.engFault_keeps | apply State.setEng_keeps | apply State.finAt_keeps | intro _ | dsimp only | apply Keeps.upd

theorem execRet_keeps {r₀ : State} (e : Fin 1024) (f : JWord) {s : State} (hk : Keeps r₀ s) : KeepsR r₀ (execRet e f s) := by
  unfold execRet; try dsimp only
  with_reducible repeat' first | assumption | apply KeepsR.next | apply KeepsR.ite | apply Keeps.ite | apply Keeps.optIte | apply Keeps.optSome | apply Keeps.optNone | apply State.issue_keeps | apply State.fin_keeps | apply State.engFault_keeps | apply State.setEng_keeps | apply State.finAt_keeps | intro _ | dsimp only | split | apply Keeps.upd

theorem execLoop_keeps {r₀ : State} (e : Fin 1024) (f : JWord) {s : State} (hk : Keeps r₀ s) : KeepsR r₀ (execLoop e f s) := by
  unfold execLoop; try dsimp only
  with_reducible repeat' first | assumption | apply KeepsR.next | apply KeepsR.ite | apply Keeps.ite | apply Keeps.optIte | apply Keeps.optSome | apply Keeps.optNone | apply State.issue_keeps | apply State.fin_keeps | apply State.engFault_keeps | apply State.finAt_keeps | apply State.setEng_keeps | intro _ | dsimp only | apply Keeps.upd

theorem execEndl_keeps {r₀ : State} (e : Fin 1024) (f : JWord) {s : State} (hk : Keeps r₀ s) : KeepsR r₀ (execEndl e f s) := by
  unfold execEndl; try dsimp only
  with_reducible repeat' first | assumption | apply KeepsR.next | apply KeepsR.ite | apply Keeps.ite | apply Keeps.optIte | apply Keeps.optSome | apply Keeps.optNone | apply State.issue_keeps | apply State.fin_keeps | apply State.count_keeps | apply State.setEng_keeps | apply State.finAt_keeps | apply State.engFault_keeps | intro _ | dsimp only | split | apply Keeps.upd

theorem execHalt_keeps {r₀ : State} (e : Fin 1024) (f : JWord) {s : State} (hk : Keeps r₀ s) : KeepsR r₀ (execHalt e f s) := by
  unfold execHalt; try dsimp only
  with_reducible repeat' first | assumption | apply KeepsR.next | apply KeepsR.ite | apply Keeps.ite | apply Keeps.optIte | apply Keeps.optSome | apply Keeps.optNone | apply State.issue_keeps | apply State.fin_keeps | apply State.setEng_keeps | intro _ | dsimp only | apply Keeps.upd

theorem execSyncw_keeps {r₀ : State} (e : Fin 1024) (f : JWord) {s : State} (hk : Keeps r₀ s) : KeepsR r₀ (execSyncw e f s) := by
  unfold execSyncw; try dsimp only
  with_reducible repeat' first | assumption | apply KeepsR.next | apply KeepsR.ite | apply Keeps.ite | apply Keeps.optIte | apply Keeps.optSome | apply Keeps.optNone | apply State.issue_keeps | apply State.fin_keeps | apply State.setEng_keeps | intro _ | dsimp only | apply Keeps.upd

theorem execWaitc_keeps {r₀ : State} (e : Fin 1024) (f : JWord) {s : State} (hk : Keeps r₀ s) : KeepsR r₀ (execWaitc e f s) := by
  unfold execWaitc; try dsimp only
  with_reducible repeat' first | assumption | apply KeepsR.next | apply KeepsR.ite | apply Keeps.ite | apply Keeps.optIte | apply Keeps.optSome | apply Keeps.optNone | apply State.issue_keeps | apply State.fin_keeps | apply State.setEng_keeps | intro _ | dsimp only | apply Keeps.upd

theorem execFire_keeps {r₀ : State} (e : Fin 1024) (f : JWord) {s : State} (hk : Keeps r₀ s) : KeepsR r₀ (execFire e f s) := by
  unfold execFire; try dsimp only
  with_reducible repeat' first | assumption | apply KeepsR.next | apply KeepsR.ite | apply Keeps.ite | apply Keeps.optIte | apply Keeps.optSome | apply Keeps.optNone | apply State.issuePlain_keeps | apply State.raiseAt_keeps | intro _ | dsimp only | apply Keeps.upd

theorem execTrap_keeps {r₀ : State} (e : Fin 1024) (f : JWord) {s : State} (hk : Keeps r₀ s) : KeepsR r₀ (execTrap e f s) := by
  unfold execTrap; try dsimp only
  with_reducible repeat' first | assumption | apply KeepsR.next | apply KeepsR.ite | apply Keeps.ite | apply Keeps.optIte | apply Keeps.optSome | apply Keeps.optNone | apply State.issue_keeps | apply State.fin_keeps | apply State.engFault_keeps | intro _ | dsimp only | apply Keeps.upd

theorem execSyncwEnd_keeps {r₀ : State} (e : Fin 1024) {s : State} (hk : Keeps r₀ s) : KeepsR r₀ (execSyncwEnd e s) := by
  unfold execSyncwEnd; try dsimp only
  with_reducible repeat' first | assumption | apply KeepsR.next | apply KeepsR.ite | apply Keeps.ite | apply State.advanceTo_keeps | apply State.modEng_keeps | dsimp only | split | apply Keeps.upd

theorem execWaitcTimeout_keeps {r₀ : State} (e : Fin 1024) {s : State} (hk : Keeps r₀ s) : KeepsR r₀ (execWaitcTimeout e s) := by
  unfold execWaitcTimeout; try dsimp only
  with_reducible repeat' first | assumption | apply KeepsR.next | apply KeepsR.ite | apply Keeps.ite | apply State.advanceTo_keeps | apply State.modEng_keeps | dsimp only | split | apply Keeps.upd

theorem State.lsIssue_keeps {r₀ s : State} {e : Fin 1024} {f : JWord} {cost : Nat} {act : State → Eng → Bool → Nat → Option State}
    (h : Keeps r₀ s) (ha : ∀ u g y a v, Keeps r₀ u → act u g y a = some v → Keeps r₀ v) : KeepsR r₀ (s.lsIssue e f cost act) := by
  unfold State.lsIssue
  refine State.issue_some h (fun u _ hu => State.fin_keeps _ _ hu) (fun u g v hu hv => ?_)
  dsimp only at hv
  split at hv
  · cases hv; exact State.engFault_keeps _ _ _ _ hu
  · split at hv
    · cases hv; exact State.engFault_keeps _ _ _ _ hu
    · split at hv
      · cases hv
      · split at hv
        · rename_i w hw
          exact ha _ _ _ _ _ (State.eccData_keeps hu hw) hv
        · cases hv; exact State.engFault_keeps _ _ _ _ hu

theorem execLd_keeps {r₀ s : State} (e : Fin 1024) (f : JWord) (h : Keeps r₀ s) : KeepsR r₀ (execLd e f s) := by
  unfold execLd
  refine State.lsIssue_keeps h (fun u g y a v hu hv => ?_)
  dsimp only at hv
  split at hv
  · cases hv
  · cases hv; exact State.fin_keeps _ _ (State.modEng_keeps _ _ (State.meSeen_keeps _ hu))

theorem execSt_keeps {r₀ s : State} (e : Fin 1024) (f : JWord) (h : Keeps r₀ s) : KeepsR r₀ (execSt e f s) := by
  unfold execSt
  refine State.lsIssue_keeps h (fun u g y a v hu hv => ?_)
  dsimp only at hv
  split at hv
  · cases hv
  · cases hv; exact State.fin_keeps _ _ (State.portWrite_keeps _ _ _ _ _ (State.meSeen_keeps _ hu))

theorem execLdv_keeps {r₀ : State} (e : Fin 1024) (f : JWord) {s : State} (hk : Keeps r₀ s) : KeepsR r₀ (execLdv e f s) := by
  unfold execLdv; try dsimp only
  with_reducible repeat' first | assumption | apply KeepsR.next | apply KeepsR.ite | apply Keeps.ite | apply Keeps.optIte | apply Keeps.optSome | apply Keeps.optNone | apply State.issuePlain_keeps | apply State.setEng_keeps | apply State.setReg_keeps | intro _ | dsimp only | apply Keeps.upd

theorem execLdf_keeps {r₀ : State} (e : Fin 1024) (f : JWord) {s : State} (hk : Keeps r₀ s) : KeepsR r₀ (execLdf e f s) := by
  unfold execLdf; try dsimp only
  with_reducible repeat' first | assumption | apply KeepsR.next | apply KeepsR.ite | apply Keeps.ite | apply Keeps.optIte | apply Keeps.optSome | apply Keeps.optNone | apply State.issuePlain_keeps | apply State.setEng_keeps | apply State.setReg_keeps | intro _ | dsimp only | apply Keeps.upd

theorem execBdma_keeps {r₀ : State} (e : Fin 1024) (f : JWord) {s : State} (hk : Keeps r₀ s) : KeepsR r₀ (execBdma e f s) := by
  unfold execBdma; try dsimp only
  with_reducible repeat' first | assumption | apply KeepsR.next | apply KeepsR.ite | apply Keeps.ite | apply Keeps.optIte | apply Keeps.optSome | apply Keeps.optNone | apply State.issue_keeps | apply State.fin_keeps | apply State.engFault_keeps | apply State.setEng_keeps | intro _ | dsimp only | split | apply Keeps.upd

theorem execCsrr_keeps {r₀ : State} (e : Fin 1024) (f : JWord) {s : State} (hk : Keeps r₀ s) : KeepsR r₀ (execCsrr e f s) := by
  unfold execCsrr; try dsimp only
  with_reducible repeat' first | assumption | apply KeepsR.next | apply KeepsR.ite | apply Keeps.ite | apply Keeps.optIte | apply Keeps.optSome | apply Keeps.optNone | apply State.issuePlain_keeps | apply State.meSeen_keeps | apply State.modEng_keeps | apply State.setEng_keeps | apply State.setReg_keeps | intro _ | dsimp only | apply Keeps.upd

theorem execCsrw_keeps {r₀ : State} (e : Fin 1024) (f : JWord) {s : State} (hk : Keeps r₀ s) : KeepsR r₀ (execCsrw e f s) := by
  unfold execCsrw; try dsimp only
  with_reducible repeat' first | assumption | apply KeepsR.next | apply KeepsR.ite | apply Keeps.ite | apply Keeps.optIte | apply Keeps.optSome | apply Keeps.optNone | apply State.issuePlain_keeps | apply State.meSeen_keeps | apply State.modEng_keeps | apply State.setEng_keeps | apply State.setReg_keeps | intro _ | dsimp only | apply Keeps.upd

theorem execRdtt_keeps {r₀ : State} (e : Fin 1024) (f : JWord) {s : State} (hk : Keeps r₀ s) : KeepsR r₀ (execRdtt e f s) := by
  unfold execRdtt; try dsimp only
  with_reducible repeat' first | assumption | apply KeepsR.next | apply KeepsR.ite | apply Keeps.ite | apply Keeps.optIte | apply Keeps.optSome | apply Keeps.optNone | apply State.issuePlain_keeps | apply State.setEng_keeps | apply State.setReg_keeps | intro _ | dsimp only | apply Keeps.upd

theorem State.issueAcc_keeps {r₀ s : State} {e : Fin 1024} {f : JWord} {F : Form} {more : Eng → Bool} {cost : Nat}
    {act : State → Eng → State} (h : Keeps r₀ s) (ha : ∀ u g, Keeps r₀ u → Keeps r₀ (act u g)) :
    KeepsR r₀ (s.issueAcc e f F more cost act) := by
  unfold State.issueAcc
  refine State.issue_some h (fun u _ hu => State.fin_keeps _ _ hu) (fun u g v hu hv => ?_)
  dsimp only at hv
  split at hv
  · cases hv
  · cases hv; exact State.fin_keeps _ _ (ha _ _ (State.meSeen_keeps _ hu))

theorem State.issueMe_keeps {r₀ s : State} {e : Fin 1024} {f : JWord} {F : Form} {more : Eng → Bool} {cost : Nat}
    {act : State → Eng → State} (h : Keeps r₀ s) (ha : ∀ u g, Keeps r₀ u → Keeps r₀ (act u g)) :
    KeepsR r₀ (s.issueMe e f F more cost act) := by
  unfold State.issueMe
  refine State.issue_some h (fun u _ hu => State.fin_keeps _ _ hu) (fun u g v hu hv => ?_)
  cases hv
  exact State.fin_keeps _ _ (ha _ _ (State.meSeen_keeps _ hu))

theorem State.skipWindow_keeps {r₀ : State} {s : State} (e : Nat) (id : Option Nat) (hk : Keeps r₀ s) : Keeps r₀ (State.skipWindow s e id) := by
  unfold State.skipWindow; try dsimp only
  with_reducible repeat' first | assumption | apply Keeps.ite | apply State.modEng_keeps | apply State.modMe_keeps | intro _ | dsimp only | apply Keeps.upd

theorem State.startWindow_keeps {r₀ : State} {s : State} (e x n : Nat) (conj : Bool) (hk : Keeps r₀ s) : Keeps r₀ (State.startWindow s e x n conj) := by
  unfold State.startWindow; try dsimp only
  with_reducible repeat' first | assumption | apply Keeps.ite | apply State.skipWindow_keeps | apply State.modMe_keeps | apply State.run_keeps | dsimp only | split | apply Keeps.upd

theorem execMac_keeps {r₀ : State} (e : Fin 1024) (f : JWord) {s : State} (hk : Keeps r₀ s) : KeepsR r₀ (execMac e f s) := by
  unfold execMac; try dsimp only
  with_reducible repeat' first | assumption | apply KeepsR.next | apply KeepsR.ite | apply Keeps.ite | apply Keeps.optIte | apply Keeps.optSome | apply Keeps.optNone | apply State.issueAcc_keeps | apply State.startWindow_keeps | intro _ | dsimp only | apply Keeps.upd

theorem execMacx_keeps {r₀ : State} (e : Fin 1024) (f : JWord) {s : State} (hk : Keeps r₀ s) : KeepsR r₀ (execMacx e f s) := by
  unfold execMacx; try dsimp only
  with_reducible repeat' first | assumption | apply KeepsR.next | apply KeepsR.ite | apply Keeps.ite | apply Keeps.optIte | apply Keeps.optSome | apply Keeps.optNone | apply State.issueAcc_keeps | apply State.startWindow_keeps | apply State.modMe_keeps | apply State.run_keeps | intro _ | dsimp only | apply Keeps.upd

theorem execClra_keeps {r₀ : State} (e : Fin 1024) (f : JWord) {s : State} (hk : Keeps r₀ s) : KeepsR r₀ (execClra e f s) := by
  unfold execClra; try dsimp only
  with_reducible repeat' first | assumption | apply KeepsR.next | apply KeepsR.ite | apply Keeps.ite | apply Keeps.optIte | apply Keeps.optSome | apply Keeps.optNone | apply State.issueAcc_keeps | apply State.modMe_keeps | intro _ | dsimp only | apply Keeps.upd

theorem execRda_keeps {r₀ : State} (e : Fin 1024) (f : JWord) {s : State} (hk : Keeps r₀ s) : KeepsR r₀ (execRda e f s) := by
  unfold execRda; try dsimp only
  with_reducible repeat' first | assumption | apply KeepsR.next | apply KeepsR.ite | apply Keeps.ite | apply Keeps.optIte | apply Keeps.optSome | apply Keeps.optNone | apply State.issueAcc_keeps | apply State.setEng_keeps | apply State.setReg_keeps | apply State.overflow_keeps | intro _ | dsimp only | apply Keeps.upd

theorem execCbset_keeps {r₀ : State} (e : Fin 1024) (f : JWord) {s : State} (hk : Keeps r₀ s) : KeepsR r₀ (execCbset e f s) := by
  unfold execCbset; try dsimp only
  with_reducible repeat' first | assumption | apply KeepsR.next | apply KeepsR.ite | apply Keeps.ite | apply Keeps.optIte | apply Keeps.optSome | apply Keeps.optNone | apply State.issue_keeps | apply State.fin_keeps | apply State.meSeen_keeps | apply State.engFault_keeps | apply State.modMe_keeps | intro _ | dsimp only | apply Keeps.upd

theorem State.eccDisc_keeps {r₀ s u : State} {e a : Nat} {map : Bool} {x y : Int} (h : Keeps r₀ s)
    (hu : s.eccDisc e map a x y = some u) : Keeps r₀ u := by
  unfold State.eccDisc at hu
  dsimp only at hu
  split at hu
  · cases hr : s.eccRange e map a 12 with
    | none => rw [hr] at hu; cases hu
    | some t => rw [hr] at hu; exact State.eccData_keeps (State.eccRange_keeps h hr) hu
  · exact State.eccRange_keeps h hu

theorem execDisc_keeps {r₀ s : State} (e : Fin 1024) (f : JWord) (h : Keeps r₀ s) : KeepsR r₀ (execDisc e f s) := by
  unfold execDisc
  refine State.issue_keeps h (fun u _ hu => State.fin_keeps _ _ hu) (fun u g v hu hv => ?_)
  extract_lets map a w x y
  have hw : Keeps r₀ w := State.meSeen_keeps _ hu
  refine Keeps.optIte (State.engFault_keeps _ _ _ _ hu) (Keeps.optIte (State.engFault_keeps _ _ _ _ hu) (Keeps.optIte hv ?_))
  split
  · rename_i z hz
    exact State.fin_keeps _ _ (State.setEng_keeps _ _ (State.eccDisc_keeps hw hz))
  · exact State.engFault_keeps _ _ _ _ hu

theorem execPubv_keeps {r₀ : State} (e : Fin 1024) (f : JWord) {s : State} (hk : Keeps r₀ s) : KeepsR r₀ (execPubv e f s) := by
  unfold execPubv; try dsimp only
  with_reducible repeat' first | assumption | apply KeepsR.next | apply KeepsR.ite | apply Keeps.ite | apply Keeps.optIte | apply Keeps.optSome | apply Keeps.optNone | apply State.issueMe_keeps | apply State.writeVerdict_keeps | apply State.raiseAt_keeps | intro _ | dsimp only | apply Keeps.upd

theorem execPubs_keeps {r₀ : State} (e : Fin 1024) (f : JWord) {s : State} (hk : Keeps r₀ s) : KeepsR r₀ (execPubs e f s) := by
  unfold execPubs; try dsimp only
  with_reducible repeat' first | assumption | apply KeepsR.next | apply KeepsR.ite | apply Keeps.ite | apply Keeps.optIte | apply Keeps.optSome | apply Keeps.optNone | apply State.issueMe_keeps | intro _ | dsimp only | apply Keeps.upd

theorem execHist_keeps {r₀ : State} (e : Fin 1024) (f : JWord) {s : State} (hk : Keeps r₀ s) : KeepsR r₀ (execHist e f s) := by
  unfold execHist; try dsimp only
  with_reducible repeat' first | assumption | apply KeepsR.next | apply KeepsR.ite | apply Keeps.ite | apply Keeps.optIte | apply Keeps.optSome | apply Keeps.optNone | apply State.issueMe_keeps | apply State.histAdd_keeps | intro _ | dsimp only | apply Keeps.upd

theorem execRecd_keeps {r₀ : State} (e : Fin 1024) (f : JWord) {s : State} (hk : Keeps r₀ s) : KeepsR r₀ (execRecd e f s) := by
  unfold execRecd; try dsimp only
  with_reducible repeat' first | assumption | apply KeepsR.next | apply KeepsR.ite | apply Keeps.ite | apply Keeps.optIte | apply Keeps.optSome | apply Keeps.optNone | apply State.issue_keeps | apply State.fin_keeps | apply State.meSeen_keeps | apply State.modMe_keeps | intro _ | dsimp only | apply Keeps.upd

theorem execAccumulationComplete_keeps {r₀ : State} (e : Fin 1024) {s : State} (hk : Keeps r₀ s) : KeepsR r₀ (execAccumulationComplete e s) := by
  unfold execAccumulationComplete; try dsimp only
  with_reducible repeat' first | assumption | apply KeepsR.next | apply KeepsR.ite | apply Keeps.ite | apply State.advanceTo_keeps | apply State.meTo_keeps | dsimp only | split

theorem State.bdmaMove_keeps {r₀ : State} {s : State} (e : Nat) (b : Bdma) (n : Nat) (hk : Keeps r₀ s) : Keeps r₀ (State.bdmaMove s e b n) := by
  unfold State.bdmaMove; try dsimp only
  with_reducible repeat' first | assumption | apply Keeps.ite | apply State.meSeen_keeps | apply State.bulkWrite_keeps | apply State.portWrite_keeps | refine Keeps.fold ?_ (fun _ _ _ => ?_) | dsimp only

theorem execBdmaComplete_keeps {r₀ : State} (e : Fin 1024) {s : State} (hk : Keeps r₀ s) : KeepsR r₀ (execBdmaComplete e s) := by
  unfold execBdmaComplete; try dsimp only
  with_reducible repeat' first | assumption | apply KeepsR.next | apply KeepsR.ite | apply Keeps.ite | apply State.countLost_keeps | apply State.bdmaMove_keeps | apply State.modEng_keeps | apply State.engFault_keeps | dsimp only | split | apply Keeps.upd

theorem execAtc_keeps {r₀ : State} (e : Fin 1024) (f : JWord) {s : State} (hk : Keeps r₀ s) : KeepsR r₀ (execAtc e f s) := by
  unfold execAtc; try dsimp only
  with_reducible repeat' first | assumption | apply KeepsR.next | apply KeepsR.ite | apply Keeps.ite | apply Keeps.optIte | apply Keeps.optSome | apply Keeps.optNone | apply State.issuePlain_keeps | apply State.setEng_keeps | intro _ | dsimp only | apply Keeps.upd

theorem execAdv_keeps {r₀ : State} (e : Fin 1024) (f : JWord) {s : State} (hk : Keeps r₀ s) : KeepsR r₀ (execAdv e f s) := by
  unfold execAdv; try dsimp only
  with_reducible repeat' first | assumption | apply KeepsR.next | apply KeepsR.ite | apply Keeps.ite | apply Keeps.optIte | apply Keeps.optSome | apply Keeps.optNone | apply State.issuePlain_keeps | apply State.setEng_keeps | intro _ | dsimp only | apply Keeps.upd

theorem State.issuePlay_keeps {r₀ s : State} {e : Nat} {f : JWord} {F : Form} {cost : Nat} {adv : State → Eng → Nat}
    {eff : State → Eng → Option Eff} {segs : Eng → List Nat} (h : Keeps r₀ s) :
    KeepsR r₀ (s.issuePlay e f F cost adv eff segs) := by
  unfold State.issuePlay
  refine State.issue_some h (fun u _ hu => State.fin_keeps _ _ (State.advTc_keeps _ _ hu)) (fun a g v ha hv => ?_)
  cases hv
  have put (b : State) (x : Option Eff) (n : Nat) (hb : Keeps r₀ b) : Keeps r₀ (match x with
      | some y => b.deposit e y n cost
      | none => (b.advTc e n).fin e cost) := by
    cases x with
    | none => exact State.fin_keeps _ _ (State.advTc_keeps _ _ hb)
    | some y => exact State.deposit_keeps _ _ _ _ _ hb
  exact Keeps.ite (State.modEng_keeps _ _ (put _ _ _ (State.activate_keeps _ _ ha))) (put _ _ _ ha)

theorem execPlay_keeps {r₀ : State} (e : Fin 1024) (f : JWord) {s : State} (hk : Keeps r₀ s) : KeepsR r₀ (execPlay e f s) := by
  unfold execPlay; try dsimp only
  with_reducible repeat' first | assumption | apply KeepsR.next | apply KeepsR.ite | apply Keeps.ite | apply Keeps.optIte | apply Keeps.optSome | apply Keeps.optNone | apply State.issuePlay_keeps | intro _ | dsimp only | apply Keeps.upd

theorem execPlayf_keeps {r₀ : State} (e : Fin 1024) (f : JWord) {s : State} (hk : Keeps r₀ s) : KeepsR r₀ (execPlayf e f s) := by
  unfold execPlayf; try dsimp only
  with_reducible repeat' first | assumption | apply KeepsR.next | apply KeepsR.ite | apply Keeps.ite | apply Keeps.optIte | apply Keeps.optSome | apply Keeps.optNone | apply State.issuePlay_keeps | intro _ | dsimp only | apply Keeps.upd

theorem execHold_keeps {r₀ : State} (e : Fin 1024) (f : JWord) {s : State} (hk : Keeps r₀ s) : KeepsR r₀ (execHold e f s) := by
  unfold execHold; try dsimp only
  with_reducible repeat' first | assumption | apply KeepsR.next | apply KeepsR.ite | apply Keeps.ite | apply Keeps.optIte | apply Keeps.optSome | apply Keeps.optNone | apply State.issuePlay_keeps | intro _ | dsimp only | apply Keeps.upd

theorem execSetf_keeps {r₀ : State} (e : Fin 1024) (f : JWord) {s : State} (hk : Keeps r₀ s) : KeepsR r₀ (execSetf e f s) := by
  unfold execSetf; try dsimp only
  with_reducible repeat' first | assumption | apply KeepsR.next | apply KeepsR.ite | apply Keeps.ite | apply Keeps.optIte | apply Keeps.optSome | apply Keeps.optNone | apply State.issueTimeline_keeps | intro _ | dsimp only | split | apply Keeps.upd

theorem State.issuePhase_keeps {r₀ s : State} {e : Nat} {f : JWord} {eff : Nat → Eff} (h : Keeps r₀ s) :
    KeepsR r₀ (s.issuePhase e f eff) := by
  unfold State.issuePhase
  exact KeepsR.ite (State.issueTimeline_keeps h) (State.issueTimeline_keeps h)

theorem execShph_keeps {r₀ : State} (e : Fin 1024) (f : JWord) {s : State} (hk : Keeps r₀ s) : KeepsR r₀ (execShph e f s) := by
  unfold execShph; try dsimp only
  with_reducible repeat' first | assumption | apply KeepsR.next | apply KeepsR.ite | apply Keeps.ite | apply Keeps.optIte | apply Keeps.optSome | apply Keeps.optNone | apply State.issuePhase_keeps | intro _ | dsimp only

theorem execSetph_keeps {r₀ : State} (e : Fin 1024) (f : JWord) {s : State} (hk : Keeps r₀ s) : KeepsR r₀ (execSetph e f s) := by
  unfold execSetph; try dsimp only
  with_reducible repeat' first | assumption | apply KeepsR.next | apply KeepsR.ite | apply Keeps.ite | apply Keeps.optIte | apply Keeps.optSome | apply Keeps.optNone | apply State.issuePhase_keeps | intro _ | dsimp only

theorem execSeta_keeps {r₀ : State} (e : Fin 1024) (f : JWord) {s : State} (hk : Keeps r₀ s) : KeepsR r₀ (execSeta e f s) := by
  unfold execSeta; try dsimp only
  with_reducible repeat' first | assumption | apply KeepsR.next | apply KeepsR.ite | apply Keeps.ite | apply Keeps.optIte | apply Keeps.optSome | apply Keeps.optNone | apply State.issueTimeline_keeps | intro _ | dsimp only | apply Keeps.upd

theorem execTset_keeps {r₀ : State} (e : Fin 1024) (f : JWord) {s : State} (hk : Keeps r₀ s) : KeepsR r₀ (execTset e f s) := by
  unfold execTset; try dsimp only
  with_reducible repeat' first | assumption | apply KeepsR.next | apply KeepsR.ite | apply Keeps.ite | apply Keeps.optIte | apply Keeps.optSome | apply Keeps.optNone | apply State.issueTimeline_keeps | intro _ | dsimp only | apply Keeps.upd

theorem execMark_keeps {r₀ : State} (e : Fin 1024) (f : JWord) {s : State} (hk : Keeps r₀ s) : KeepsR r₀ (execMark e f s) := by
  unfold execMark; try dsimp only
  with_reducible repeat' first | assumption | apply KeepsR.next | apply KeepsR.ite | apply Keeps.ite | apply Keeps.optIte | apply Keeps.optSome | apply Keeps.optNone | apply State.issueTimeline_keeps | intro _ | dsimp only | apply Keeps.upd

theorem execPart_keeps {r₀ : State} (e : Fin 1024) (f : JWord) {s : State} (hk : Keeps r₀ s) : KeepsR r₀ (execPart e f s) := by
  unfold execPart; try dsimp only
  with_reducible repeat' first | assumption | apply KeepsR.next | apply KeepsR.ite | apply Keeps.ite | apply Keeps.optIte | apply Keeps.optSome | apply Keeps.optNone | apply State.issueTimeline_keeps | intro _ | dsimp only | apply Keeps.upd

theorem execFlev_keeps {r₀ : State} (e : Fin 1024) (f : JWord) {s : State} (hk : Keeps r₀ s) : KeepsR r₀ (execFlev e f s) := by
  unfold execFlev; try dsimp only
  with_reducible repeat' first | assumption | apply KeepsR.next | apply KeepsR.ite | apply Keeps.ite | apply Keeps.optIte | apply Keeps.optSome | apply Keeps.optNone | apply State.issuePlay_keeps | intro _ | dsimp only | apply Keeps.upd

theorem execWopen_keeps {r₀ : State} (e : Fin 1024) (f : JWord) {s : State} (hk : Keeps r₀ s) : KeepsR r₀ (execWopen e f s) := by
  unfold execWopen; try dsimp only
  with_reducible repeat' first | assumption | apply KeepsR.next | apply KeepsR.ite | apply Keeps.ite | apply Keeps.optIte | apply Keeps.optSome | apply Keeps.optNone | apply State.issueTimeline_keeps | intro _ | dsimp only | apply Keeps.upd

theorem State.land_keeps {r₀ : State} {s : State} (e tc : Nat) (eff : Eff) (hk : Keeps r₀ s) : Keeps r₀ (State.land s e tc eff) := by
  unfold State.land; try dsimp only
  with_reducible repeat' first | assumption | apply Keeps.ite | apply State.modMe_keeps | apply State.landOut_keeps | split | apply Keeps.upd

theorem execEffectLand_keeps {r₀ : State} (e : Fin 1024) {s : State} (hk : Keeps r₀ s) : KeepsR r₀ (execEffectLand e s) := by
  unfold execEffectLand; try dsimp only
  with_reducible repeat' first | assumption | apply KeepsR.next | apply KeepsR.ite | apply Keeps.ite | apply State.advanceTo_keeps | apply State.modEng_keeps | apply State.sysCue_keeps | apply State.land_keeps | dsimp only | split | apply Keeps.upd

theorem execForkDeadline_keeps {r₀ : State} (e : Fin 1024) {s : State} (hk : Keeps r₀ s) : KeepsR r₀ (execForkDeadline e s) := by
  unfold execForkDeadline; try dsimp only
  with_reducible repeat' first | assumption | apply KeepsR.next | apply KeepsR.ite | apply Keeps.ite | apply State.advanceTo_keeps | apply State.modEng_keeps | apply State.sysCue_keeps | dsimp only | split | apply Keeps.upd

theorem execJumpTaken_keeps {r₀ : State} (t : JumpTarget) {s : State} (hk : Keeps r₀ s) : KeepsR r₀ (execJumpTaken t s) := by
  unfold execJumpTaken; try dsimp only
  with_reducible repeat' first | assumption | apply KeepsR.next | apply KeepsR.ite | apply Keeps.ite | apply State.advanceTo_keeps | apply State.takeJump_keeps | dsimp only | split

theorem State.specWrite_keeps {r₀ : State} {s : State} (e : Nat) (r : Routine) (x : Nat) (v : Word) (hk : Keeps r₀ s) : Keeps r₀ (State.specWrite s e r x v).1 := by
  unfold State.specWrite; try dsimp only
  with_reducible repeat' first | assumption | apply Keeps.ite | apply State.modEng_keeps | apply State.setReg_keeps | split | apply Keeps.upd

theorem State.microDeposit_keeps {r₀ s : State} (e : Nat) (r : Routine) (eff : Eff) (adv : Nat) (mark : Option Eff) (drop : Bool)
    {was : State} (h : Keeps r₀ s) (hw : Keeps r₀ was) : KeepsM r₀ (s.microDeposit e r eff adv mark drop was) := by
  have h1 (b : Bool) : Keeps r₀ (if b then s.sysCue 904 else s) := Keeps.ite (State.sysCue_keeps _ h) h
  have h2 (b : Bool) : Keeps r₀ (if b then was.sysCue 904 else was) := Keeps.ite (State.sysCue_keeps _ hw) hw
  unfold State.microDeposit
  extract_lets g tc put
  have hp (q : List QEff) (b : Bool) (z : Routine) : KeepsM r₀ (put q b z) := State.modEng_keeps e _ (h1 _)
  clear_value put
  refine KeepsM.ite (KeepsM.hold hw) ?_
  split
  · exact hw
  · exact hw
  · exact KeepsM.ite (h2 _) (hp _ _ _)
  · exact KeepsM.ite (hp _ _ _) (hp _ _ _)

theorem State.microDep_keeps {r₀ s : State} (e : Nat) (r : Routine) (w : Word) (drop : Bool) (h : Keeps r₀ s) :
    KeepsM r₀ (s.microDep e r w drop) := by
  unfold State.microDep
  extract_lets g x y te act plays
  have hp : ∀ {m : Micro}, KeepsM r₀ m → KeepsM r₀ (plays m) := by
    intro m hm
    cases m with
    | go t q => exact State.modEng_keeps e _ hm
    | jump => exact hm
    | stop => exact hm
    | bad => exact hm
    | hold => exact hm
    | stay => exact hm
  have ha (l : List Nat) : Keeps r₀ (act l) := Keeps.ite h (State.activate_keeps _ _ h)
  have hg : KeepsM r₀ (Micro.go s r) := h
  have hb : KeepsM r₀ (Micro.bad s fIllegal) := h
  clear_value plays act
  split <;> with_reducible repeat' first
    | assumption
    | apply KeepsM.ite
    | apply State.microDeposit_keeps
    | apply ha
    | apply hp
    | dsimp only

theorem State.microAcc_keeps {r₀ s : State} (e : Nat) (r : Routine) {act : State → Micro} (h : Keeps r₀ s)
    (ha : ∀ u, Keeps r₀ u → KeepsM r₀ (act u)) : KeepsM r₀ (s.microAcc e r act) := by
  unfold State.microAcc
  exact KeepsM.ite h (ha _ (State.meSeen_keeps _ h))

theorem State.microMem_keeps {r₀ s : State} (e : Nat) (y : Bool) (a : Nat) (held : Bool) {act : State → Micro} (h : Keeps r₀ s)
    (ha : ∀ u, Keeps r₀ u → KeepsM r₀ (act u)) : KeepsM r₀ (s.microMem e y a held act) := by
  unfold State.microMem
  refine KeepsM.ite h (KeepsM.ite h (KeepsM.ite trivial ?_))
  split
  · rename_i t ht
    exact ha _ (State.eccData_keeps h ht)
  · exact h

theorem KeepsM.disc {r₀ : State} {o : Option State} {f : State → Micro} {b : Micro} (ho : ∀ t, o = some t → Keeps r₀ t)
    (hf : ∀ t, Keeps r₀ t → KeepsM r₀ (f t)) (hb : KeepsM r₀ b) :
    KeepsM r₀ (match (generalizing := false) o with | some t => f t | none => b) := by
  cases o with
  | none => exact hb
  | some t => exact hf t (ho t rfl)

theorem State.micro_keeps {r₀ s : State} (e : Nat) (r : Routine) (w : Word) (drop : Bool) (h : Keeps r₀ s) :
    KeepsM r₀ (s.micro e r w drop) := by
  unfold State.micro
  extract_lets g x y wr fx me
  have hwr (t : State) (q : Routine) (k : Nat) (v : Word) (ht : Keeps r₀ t) : KeepsM r₀ (wr t q k v) :=
    State.specWrite_keeps _ _ _ _ ht
  have hfx (t : State) (ht : Keeps r₀ t) : KeepsM r₀ (fx t) := KeepsM.ite h ht
  have hs (q : Routine) (k : Nat) (v : Word) : Keeps r₀ (s.specWrite e q k v).1 := State.specWrite_keeps _ _ _ _ h
  have hm : Keeps r₀ (s.meSeen e) := State.meSeen_keeps _ h
  have hc (a : Eng) : Keeps r₀ (s.setEng e a) := State.setEng_keeps _ _ h
  clear_value wr fx
  split
  case h_26 =>
    exact KeepsM.ite h (KeepsM.ite trivial (KeepsM.disc (fun t ht => State.eccDisc_keeps hm ht) (fun t ht => hwr _ _ _ _ ht) (KeepsM.bad h)))
  all_goals with_reducible repeat' first
    | assumption
    | exact KeepsM.stay
    | apply hwr
    | apply hfx
    | apply hs
    | apply hc
    | apply KeepsM.ite
    | apply KeepsM.go
    | apply KeepsM.jump
    | apply KeepsM.stop
    | apply KeepsM.bad
    | apply KeepsM.hold
    | apply State.microDep_keeps
    | apply State.microDeposit_keeps
    | apply State.microAcc_keeps
    | apply State.microMem_keeps
    | apply State.portWrite_keeps
    | apply State.raiseAt_keeps
    | apply State.startWindow_keeps
    | apply State.modMe_keeps
    | apply State.writeVerdict_keeps
    | apply State.histAdd_keeps
    | apply State.overflow_keeps
    | apply Keeps.ite
    | apply Keeps.upd
    | intro _
    | dsimp only

theorem State.holdRoutine_keeps {r₀ : State} {s : State} (e : Nat) (r : Routine) (st : EngState) (mpc : Nat) (hk : Keeps r₀ s) : Keeps r₀ (State.holdRoutine s e r st mpc) := by
  unfold State.holdRoutine; try dsimp only
  with_reducible repeat' first | assumption | apply Keeps.ite | apply State.modEng_keeps | apply Keeps.upd

theorem State.nextGroup_keeps {r₀ : State} {s : State} (e : Nat) (r : Routine) (hk : Keeps r₀ s) : Keeps r₀ (State.nextGroup s e r) := by
  unfold State.nextGroup; try dsimp only
  with_reducible repeat' first | assumption | apply Keeps.ite | apply State.modEng_keeps | apply Keeps.upd

theorem State.endRoutine_keeps {r₀ : State} {s : State} (e : Nat) (r : Routine) (hk : Keeps r₀ s) : Keeps r₀ (State.endRoutine s e r) := by
  unfold State.endRoutine; try dsimp only
  with_reducible repeat' first | assumption | apply Keeps.ite | apply State.modEng_keeps | apply Keeps.upd

theorem State.abortRoutine_keeps {r₀ : State} {s : State} (e : Nat) (r : Routine) (code mpc : Nat) (hk : Keeps r₀ s) : Keeps r₀ (State.abortRoutine s e r code mpc) := by
  unfold State.abortRoutine; try dsimp only
  with_reducible repeat' first | assumption | apply Keeps.ite | apply State.modEng_keeps | apply State.engFault_keeps | dsimp only | apply Keeps.upd

theorem State.haltRoutine_keeps {r₀ : State} {s : State} (e : Nat) (r : Routine) (hk : Keeps r₀ s) : Keeps r₀ (State.haltRoutine s e r) := by
  unfold State.haltRoutine; try dsimp only
  with_reducible repeat' first | assumption | apply Keeps.ite | apply State.modEng_keeps | apply Keeps.upd

theorem State.fetchMicro_keeps {r₀ s : State} (e off : Nat) (hk : Keeps r₀ s) : Keeps r₀ (State.fetchMicro s e off).1 :=
  State.microEcc_keeps _ hk

theorem State.runGroup_keeps {r₀ : State} (e n : Nat) {s : State} (r : Routine) (h : Keeps r₀ s) :
    Keeps r₀ (State.runGroup e n s r) := by
  induction n generalizing s r with
  | zero => exact State.nextGroup_keeps _ _ h
  | succ n ih =>
    simp only [State.runGroup]
    have hf : Keeps r₀ (s.fetchMicro e r.pc).1 := State.fetchMicro_keeps _ _ h
    generalize s.fetchMicro e r.pc = p at hf ⊢
    generalize (r.drop.any (fun x => decide (x < s.now)) || s.stopAt.any (fun x => decide (x < s.now))) = drop
    apply Keeps.ite (State.haltRoutine_keeps _ _ h)
    split
    · exact State.abortRoutine_keeps _ _ _ _ hf
    · have hm : KeepsM r₀ (if p.2.isSome then p.1.micro e r (p.2.getD 0) drop else .bad p.1 fEcc) :=
        KeepsM.ite (State.micro_keeps _ _ _ _ hf) hf
      revert hm
      cases (if p.2.isSome then p.1.micro e r (p.2.getD 0) drop else Micro.bad p.1 fEcc) with
      | go t q => exact fun hm => ih _ hm
      | jump t q o => exact fun hm => ih _ hm
      | stop t => exact fun hm => State.endRoutine_keeps _ _ hm
      | stay => exact fun _ => State.nextGroup_keeps _ _ hf
      | bad t c =>
        exact fun hm => Keeps.ite (ih _ hm) (Keeps.ite (ih _ hm) (State.engFault_keeps _ _ _ _ (State.modEng_keeps _ _ hm)))
      | hold t q st met => exact fun hm => State.holdRoutine_keeps _ _ _ _ hm

theorem execUop_keeps {r₀ s : State} (e : Fin 1024) (f : JWord) (h : Keeps r₀ s) : KeepsR r₀ (execUop e f s) := by
  unfold execUop
  refine State.issue_keeps h (fun u _ hu => State.fin_keeps _ _ hu) (fun u g v hu hv => ?_)
  dsimp only
  exact Keeps.optIte (State.engFault_keeps _ _ _ _ hu) (Keeps.optSome (State.modEng_keeps _ _ hu))

theorem State.stepRoutine_keeps {r₀ s : State} (e : Nat) (h : Keeps r₀ s) : Keeps r₀ (s.stepRoutine e) := by
  unfold State.stepRoutine
  split
  · exact h
  · split
    · exact h
    · exact Keeps.ite h (State.runGroup_keeps _ _ _ (State.modEng_keeps _ _ (State.advanceTo_keeps _ h)))

theorem execRoutineResume_keeps {r₀ s : State} (e : Fin 1024) (h : Keeps r₀ s) : KeepsR r₀ (execRoutineResume e s) :=
  KeepsR.next (Keeps.ite (State.stepRoutine_keeps _ h) h)

theorem execAcqArm_keeps {r₀ : State} (c : Cmd) {s : State} (hk : Keeps r₀ s) : KeepsR r₀ (execAcqArm c s) := by
  unfold execAcqArm; try dsimp only
  with_reducible repeat' first | assumption | apply KeepsR.next | apply KeepsR.ite | apply Keeps.ite | apply State.admin_keeps | apply State.modAcq_keeps | apply State.complete_keeps | refine Keeps.fold ?_ (fun _ _ _ => ?_) | intro _ | dsimp only | split | apply Keeps.upd

theorem execAcqDisarm_keeps {r₀ : State} (c : Cmd) {s : State} (hk : Keeps r₀ s) : KeepsR r₀ (execAcqDisarm c s) := by
  unfold execAcqDisarm; try dsimp only
  with_reducible repeat' first | assumption | apply KeepsR.next | apply KeepsR.ite | apply Keeps.ite | apply State.admin_keeps | apply State.acqDisarm_keeps | apply State.complete_keeps | refine Keeps.fold ?_ (fun _ _ _ => ?_) | intro _ | dsimp only

theorem State.acqClear_keeps {r₀ : State} {s : State} (u : Nat) (hk : Keeps r₀ s) : Keeps r₀ (State.acqClear s u) := by
  unfold State.acqClear; try dsimp only
  with_reducible repeat' first | assumption | apply Keeps.ite | apply State.wr_keeps

theorem State.acqBegin_keeps {r₀ : State} {s : State} (u t : Nat) (wt : List Word) (hk : Keeps r₀ s) : Keeps r₀ (State.acqBegin s u t wt) := by
  unfold State.acqBegin; try dsimp only
  with_reducible repeat' first | assumption | apply Keeps.ite | apply State.modAcq_keeps | dsimp only | apply Keeps.upd

theorem execAcqArmTick_keeps {r₀ : State} (u : Fin 16) {s : State} (hk : Keeps r₀ s) : KeepsR r₀ (execAcqArmTick u s) := by
  unfold execAcqArmTick; try dsimp only
  with_reducible repeat' first | assumption | apply KeepsR.next | apply KeepsR.ite | apply Keeps.ite | apply State.advanceTo_keeps | apply State.acqClear_keeps | apply State.modAcq_keeps | apply State.done_keeps | apply State.acqBegin_keeps | apply State.acqOpen_keeps | apply Memory.wf_memClear | dsimp only | split | apply Keeps.upd | refine Keeps.mkS ?_ (fun w => ?_)

theorem State.acqMarkNow_keeps {r₀ : State} {s : State} (u t : Nat) (wt : List Word) (hk : Keeps r₀ s) : Keeps r₀ (State.acqMarkNow s u t wt) := by
  unfold State.acqMarkNow; try dsimp only
  with_reducible repeat' first | assumption | apply Keeps.ite | apply State.acqLine_keeps | apply State.modAcq_keeps | dsimp only | split | apply Keeps.upd

theorem State.acqFull_keeps {r₀ : State} {s : State} (u : Nat) (hk : Keeps r₀ s) : Keeps r₀ (State.acqFull s u) := by
  unfold State.acqFull; try dsimp only
  with_reducible repeat' first | assumption | apply Keeps.ite | apply State.acqClose_keeps | apply State.acqAfter_keeps | split

theorem State.acqAccept_keeps {r₀ : State} {s : State} (u t : Nat) (wt : List Word) (hk : Keeps r₀ s) : Keeps r₀ (State.acqAccept s u t wt) := by
  unfold State.acqAccept; try dsimp only
  with_reducible repeat' first | assumption | apply Keeps.ite | apply State.acqBegin_keeps | apply State.acqOpen_keeps | apply State.modAcq_keeps | apply State.acqFull_keeps | dsimp only | split | apply Keeps.upd

theorem State.acqJudge_keeps {r₀ : State} {s : State} (u t : Nat) (wt : List Word) (hk : Keeps r₀ s) : Keeps r₀ (State.acqJudge s u t wt) := by
  unfold State.acqJudge; try dsimp only
  with_reducible repeat' first | assumption | apply Keeps.ite | apply State.acqMissed_keeps | apply State.acqAccept_keeps | apply State.acqMarkNow_keeps | split

theorem execAcqTrigger_keeps {r₀ : State} (u : Fin 16) {s : State} (hk : Keeps r₀ s) : KeepsR r₀ (execAcqTrigger u s) := by
  unfold execAcqTrigger; try dsimp only
  with_reducible repeat' first | assumption | apply KeepsR.next | apply KeepsR.ite | apply Keeps.ite | apply State.advanceTo_keeps | apply State.modAcq_keeps | apply State.acqJudge_keeps | refine Keeps.fold ?_ (fun _ _ _ => ?_) | dsimp only | split | apply Keeps.upd

theorem execAcqTtTrigger_keeps {r₀ : State} (u : Fin 16) {s : State} (hk : Keeps r₀ s) : KeepsR r₀ (execAcqTtTrigger u s) := by
  unfold execAcqTtTrigger; try dsimp only
  with_reducible repeat' first | assumption | apply KeepsR.next | apply KeepsR.ite | apply Keeps.ite | apply State.advanceTo_keeps | apply State.modAcq_keeps | apply State.acqJudge_keeps | dsimp only | apply Keeps.upd

theorem execAcqSampleWrite_keeps {r₀ : State} (u : Fin 16) (n : Nat) (codes : List (BitVec 12)) {s : State} (hk : Keeps r₀ s) : KeepsR r₀ (execAcqSampleWrite u n codes s) := by
  unfold execAcqSampleWrite; try dsimp only
  with_reducible repeat' first | assumption | apply KeepsR.next | apply KeepsR.ite | apply Keeps.ite | apply State.advanceTo_keeps | apply State.modAcq_keeps | apply State.acqOpen_keeps | apply State.acqStore_keeps | apply State.acqFull_keeps | dsimp only | split | apply Keeps.upd

theorem execRearmEnd_keeps {r₀ : State} (u : Fin 16) {s : State} (hk : Keeps r₀ s) : KeepsR r₀ (execRearmEnd u s) := by
  unfold execRearmEnd; try dsimp only
  with_reducible repeat' first | assumption | apply KeepsR.next | apply KeepsR.ite | apply Keeps.ite | apply State.advanceTo_keeps | apply State.acqRefill_keeps | dsimp only

theorem execAcqRoom_keeps {r₀ : State} (u : Fin 16) {s : State} (hk : Keeps r₀ s) : KeepsR r₀ (execAcqRoom u s) := by
  unfold execAcqRoom; try dsimp only
  with_reducible repeat' first | assumption | apply KeepsR.next | apply KeepsR.ite | apply Keeps.ite | apply State.acqRefill_keeps

theorem State.acqSend_keeps {r₀ : State} {s : State} (u dest : Nat) (ws : List Word) (hk : Keeps r₀ s) : Keeps r₀ (State.acqSend s u dest ws) := by
  unfold State.acqSend; try dsimp only
  with_reducible repeat' first | assumption | apply Keeps.ite | apply State.wr_keeps | apply State.bulkWrite_keeps | apply State.ringPush_keeps | dsimp only

theorem execAcqLineOut_keeps {r₀ : State} (u : Fin 16) {s : State} (hk : Keeps r₀ s) : KeepsR r₀ (execAcqLineOut u s) := by
  unfold execAcqLineOut; try dsimp only
  with_reducible repeat' first | assumption | apply KeepsR.next | apply KeepsR.ite | apply Keeps.ite | apply State.done_keeps | apply State.acqSend_keeps | apply State.modAcq_keeps | dsimp only | apply Keeps.upd

theorem execRecTake_keeps {r₀ : State} (u : Fin 16) {s : State} (hk : Keeps r₀ s) : KeepsR r₀ (execRecTake u s) := by
  unfold execRecTake; try dsimp only
  with_reducible repeat' first | assumption | apply KeepsR.next | apply KeepsR.ite | apply Keeps.ite | apply State.advanceTo_keeps | apply State.modEng_keeps | apply State.modAcq_keeps | apply State.countReg_keeps | apply State.acqSend_keeps | dsimp only | split | apply Keeps.upd

theorem execAcqMissPop_keeps {r₀ : State} (u : Fin 16) {s : State} (hk : Keeps r₀ s) : KeepsR r₀ (execAcqMissPop u s) := by
  unfold execAcqMissPop; try dsimp only
  with_reducible repeat' first | assumption | apply KeepsR.next | apply KeepsR.ite | apply Keeps.ite | apply State.modAcq_keeps | apply Keeps.upd

theorem execAcqBulkRd_keeps {r₀ : State} (u : Fin 16) (v : Word) {s : State} (hk : Keeps r₀ s) : KeepsR r₀ (execAcqBulkRd u v s) := by
  unfold execAcqBulkRd; try dsimp only
  with_reducible repeat' first | assumption | apply KeepsR.next | apply KeepsR.ite | apply Keeps.ite | apply State.put_keeps

theorem State.eachReg_keeps {r₀ s : State} {k : RegK} {f : State → Nat → Nat → Word → State} (h : Keeps r₀ s)
    (hf : ∀ st i j w, Keeps r₀ st → Keeps r₀ (f st i j w)) : Keeps r₀ (s.eachReg k f) := by
  unfold State.eachReg
  exact Keeps.fold h (fun st x hs => Keeps.ite (hf _ _ _ _ hs) hs)

theorem State.clearFld_keeps {r₀ : State} {s : State} (k : RegK) (hi lo : Nat) (hk : Keeps r₀ s) : Keeps r₀ (State.clearFld s k hi lo) := by
  unfold State.clearFld; try dsimp only
  with_reducible repeat' first | assumption | apply Keeps.ite | apply State.put_keeps | apply Keeps.upd

theorem State.dropLevels_keeps {r₀ : State} {s : State} (hk : Keeps r₀ s) : Keeps r₀ (State.dropLevels s) := by
  unfold State.dropLevels; try dsimp only
  with_reducible repeat' first | assumption | apply Keeps.ite | apply Keeps.upd

theorem State.initCells_keeps {r₀ : State} {s : State} (t : Nat) (hk : Keeps r₀ s) : Keeps r₀ (State.initCells s t) := by
  unfold State.initCells; try dsimp only
  with_reducible repeat' first | assumption | apply Keeps.ite | apply Keeps.upd

theorem State.exportFrame_keeps {r₀ : State} {s : State} (e ch t : Nat) (hk : Keeps r₀ s) : Keeps r₀ (State.exportFrame s e ch t) := by
  unfold State.exportFrame; try dsimp only
  with_reducible repeat' first | assumption | apply Keeps.ite | apply State.countReg_keeps | apply State.enqueueDec_keeps | dsimp only | split | apply Keeps.upd

theorem State.jumpRequest_keeps {r₀ : State} {s : State} (o k t : Nat) (hk : Keeps r₀ s) : Keeps r₀ (State.jumpRequest s o k t) := by
  unfold State.jumpRequest; try dsimp only
  with_reducible repeat' first | assumption | apply Keeps.ite | apply State.count_keeps | apply State.modSlot_keeps | apply State.setFlx_keeps | dsimp only | apply Keeps.upd

theorem State.clearShot_keeps {r₀ : State} {s : State} (hk : Keeps r₀ s) : Keeps r₀ (State.clearShot s) := by
  unfold State.clearShot; try dsimp only
  with_reducible repeat' first | assumption | apply Keeps.ite | apply State.modMe_keeps | apply State.put_keeps | refine Keeps.fold ?_ (fun _ _ _ => ?_) | dsimp only | apply Keeps.upd

theorem State.sendTrig_keeps {r₀ : State} {s : State} (u reach t : Nat) (hk : Keeps r₀ s) : Keeps r₀ (State.sendTrig s u reach t) := by
  unfold State.sendTrig; try dsimp only
  with_reducible repeat' first | assumption | apply Keeps.ite | apply State.modAcq_keeps | apply Keeps.upd

theorem State.pullTbus_keeps {r₀ : State} {s : State} (k a b : Nat) (hk : Keeps r₀ s) : Keeps r₀ (State.pullTbus s k a b) := by
  unfold State.pullTbus; try dsimp only
  with_reducible repeat' first | assumption | apply Keeps.ite | dsimp only | apply Keeps.upd

theorem State.goOnCue_keeps {r₀ : State} {s : State} (ch t : Nat) (hk : Keeps r₀ s) : Keeps r₀ (State.goOnCue s ch t) := by
  unfold State.goOnCue; try dsimp only
  with_reducible repeat' first | assumption | apply Keeps.ite | apply Keeps.upd

theorem State.muteOnCue_keeps {r₀ : State} {s : State} (o t : Nat) (hk : Keeps r₀ s) : Keeps r₀ (State.muteOnCue s o t) := by
  unfold State.muteOnCue; try dsimp only
  with_reducible repeat' first | assumption | apply Keeps.ite | apply State.raiseBit_keeps | apply Keeps.upd

theorem State.deliver_keeps {r₀ s : State} (t ch : Nat) (h : Keeps r₀ s) : Keeps r₀ (s.deliver t ch) := by
  unfold State.deliver
  extract_lets s1 s2 s3 s4 s5 sc s6 s7 s8 s9
  have h1 : Keeps r₀ s1 := ⟨h.queue, h.sram, h.bulk, h.minGh, h.minPa⟩
  have h2 : Keeps r₀ s2 := State.eachEng_keeps _ h1
  have h3 : Keeps r₀ s3 := State.eachReg_keeps h2 (fun _ _ _ _ hx => Keeps.ite (State.jumpRequest_keeps _ _ _ hx) hx)
  have h4 : Keeps r₀ s4 := State.eachReg_keeps h3 (fun _ _ _ _ hx => Keeps.ite (State.jumpRequest_keeps _ _ _ hx) hx)
  have h5 : Keeps r₀ s5 := State.eachReg_keeps h4 (fun _ _ _ _ hx => Keeps.ite (State.muteOnCue_keeps _ _ hx) hx)
  have h6 : Keeps r₀ s6 := Keeps.ite (State.clearShot_keeps h5) h5
  have h7 : Keeps r₀ s7 := Keeps.fold h6 (fun _ _ hx => Keeps.ite (State.sendTrig_keeps _ _ _ hx) hx)
  have h8 : Keeps r₀ s8 := State.eachReg_keeps h7 (fun _ _ _ _ hx => Keeps.ite (State.pullTbus_keeps _ _ _ hx) hx)
  have h9 : Keeps r₀ s9 := State.goOnCue_keeps _ _ h8
  exact Keeps.ite (State.eachReg_keeps h9 (fun _ _ _ _ hx => Keeps.ite (State.exportFrame_keeps _ _ _ hx) hx)) h9

theorem State.coincidence_keeps {r₀ : State} {s : State} (ch : Nat) (hk : Keeps r₀ s) : Keeps r₀ (State.coincidence s ch) := by
  unfold State.coincidence; try dsimp only
  with_reducible repeat' first | assumption | apply Keeps.ite | apply State.setReg_keeps | apply State.countReg_keeps | dsimp only

theorem State.appear_keeps {r₀ : State} (t : Nat) (r : State × List Nat) (e : Nat × Nat) (h : Keeps r₀ r.1) :
    Keeps r₀ (State.appear t r e).1 := by
  unfold State.appear
  extract_lets s again s1
  have h1 : Keeps r₀ s1 := Keeps.ite (State.coincidence_keeps _ h) h
  apply Keeps.ite1 h1
  apply Keeps.ite1
  · exact State.count_keeps _ _ h1
  · exact h1

theorem State.fabricTick_keeps {r₀ : State} {s : State} (t : Nat) (hk : Keeps r₀ s) : Keeps r₀ (State.fabricTick s t) := by
  unfold State.fabricTick; try dsimp only
  with_reducible repeat' first | assumption | apply Keeps.ite | apply State.advanceTo_keeps | apply State.appear_keeps | apply State.deliver_keeps | refine Keeps.fold ?_ (fun _ _ _ => ?_) | refine Keeps.fold1 ?_ (fun _ _ _ => ?_) | dsimp only | apply Keeps.upd

theorem State.cuePass_keeps {r₀ : State} {s : State} (hk : Keeps r₀ s) : Keeps r₀ (State.cuePass s) := by
  unfold State.cuePass; try dsimp only
  with_reducible repeat' first | assumption | apply Keeps.ite | apply State.put_keeps | apply Keeps.upd

theorem State.writeField_keeps {r₀ : State} {s : State} (r : Reg) (f : FieldInfo) (v : Word) (hk : Keeps r₀ s) : Keeps r₀ (State.writeField s r f v) := by
  unfold State.writeField; try dsimp only
  with_reducible repeat' first | assumption | apply Keeps.ite | apply State.setReg_keeps | apply State.put_keeps | dsimp only

theorem State.writeOwn_keeps {r₀ : State} {s : State} (r : Reg) (v : Word) (hk : Keeps r₀ s) : Keeps r₀ (State.writeOwn s r v) := by
  unfold State.writeOwn; try dsimp only
  with_reducible repeat' first | assumption | apply Keeps.ite | apply State.writeField_keeps | refine Keeps.fold ?_ (fun _ _ _ => ?_) | dsimp only

theorem execCueAppear_keeps {r₀ : State} {s : State} (hk : Keeps r₀ s) : KeepsR r₀ (execCueAppear s) := by
  unfold execCueAppear; try dsimp only
  with_reducible repeat' first | assumption | apply KeepsR.next | apply KeepsR.ite | apply Keeps.ite | apply State.mesTo_keeps | apply State.fabricTick_keeps | dsimp only | split

theorem execCueFilterElapse_keeps {r₀ : State} {s : State} (hk : Keeps r₀ s) : KeepsR r₀ (execCueFilterElapse s) := by
  unfold execCueFilterElapse; try dsimp only
  with_reducible repeat' first | assumption | apply KeepsR.next | apply KeepsR.ite | apply Keeps.ite | apply State.mesTo_keeps | apply State.fabricTick_keeps | dsimp only | split

theorem execCueFire_keeps {r₀ : State} (c : BitVec 10) {s : State} (hk : Keeps r₀ s) : KeepsR r₀ (execCueFire c s) := by
  unfold execCueFire; try dsimp only
  with_reducible repeat' first | assumption | apply KeepsR.next | apply KeepsR.ite | apply Keeps.ite | apply State.raiseAt_keeps

theorem execCueConfigWrite_keeps {r₀ : State} (off : BitVec 16) (v : Word) {s : State} (hk : Keeps r₀ s) : KeepsR r₀ (execCueConfigWrite off v s) := by
  unfold execCueConfigWrite; try dsimp only
  with_reducible repeat' first | assumption | apply KeepsR.next | apply KeepsR.ite | apply Keeps.ite | apply State.writeOwn_keeps | apply State.put_keeps | apply State.dropLevels_keeps | split | apply Keeps.upd

theorem execCueCheck_keeps {r₀ : State} {s : State} (hk : Keeps r₀ s) : KeepsR r₀ (execCueCheck s) := by
  unfold execCueCheck; try dsimp only
  with_reducible repeat' first | assumption | apply KeepsR.next | apply KeepsR.ite | apply Keeps.ite | apply State.put_keeps | apply Keeps.upd

theorem execCueCheckDone_keeps {r₀ : State} {s : State} (hk : Keeps r₀ s) : KeepsR r₀ (execCueCheckDone s) := by
  unfold execCueCheckDone; try dsimp only
  with_reducible repeat' first | assumption | apply KeepsR.next | apply KeepsR.ite | apply Keeps.ite | apply State.put_keeps | apply State.cuePass_keeps | apply State.dropLevels_keeps | dsimp only | split | apply Keeps.upd

theorem execConfigCue_keeps {r₀ : State} (c : Cmd) (img : CfgImage) {s : State} (hk : Keeps r₀ s) : KeepsR r₀ (execConfigCue c img s) := by
  unfold execConfigCue; try dsimp only
  with_reducible repeat' first | assumption | apply KeepsR.next | apply KeepsR.ite | apply Keeps.ite | apply State.admin_keeps | apply State.countLost_keeps | apply State.complete_keeps | apply State.writeOwn_keeps | apply State.put_keeps | apply State.cuePass_keeps | refine Keeps.fold ?_ (fun _ _ _ => ?_) | intro _ | dsimp only | split | apply Keeps.upd

theorem State.inputEdge_keeps {r₀ : State} {s : State} (ch sel gf : Nat) (rising : Bool) (hk : Keeps r₀ s) : Keeps r₀ (State.inputEdge s ch sel gf rising) := by
  unfold State.inputEdge; try dsimp only
  with_reducible repeat' first | assumption | apply Keeps.ite | apply State.raiseAt_keeps | dsimp only | apply Keeps.upd

theorem execPinEdge_keeps {r₀ : State} (p : Fin 64) (rising : Bool) {s : State} (hk : Keeps r₀ s) : KeepsR r₀ (execPinEdge p rising s) := by
  unfold execPinEdge; try dsimp only
  with_reducible repeat' first | assumption | apply KeepsR.next | apply KeepsR.ite | apply Keeps.ite | apply State.inputEdge_keeps

theorem execTrigEdge_keeps {r₀ : State} (line : Fin 8) (rising : Bool) (fine : BitVec 8) {s : State} (hk : Keeps r₀ s) : KeepsR r₀ (execTrigEdge line rising fine s) := by
  unfold execTrigEdge; try dsimp only
  with_reducible repeat' first | assumption | apply KeepsR.next | apply KeepsR.ite | apply Keeps.ite | apply State.inputEdge_keeps | apply State.acqMissed_keeps | apply State.sendTrig_keeps | refine Keeps.fold ?_ (fun _ _ _ => ?_) | dsimp only | apply Keeps.upd

theorem State.modQry_keeps {r₀ : State} {s : State} (f : Qry → Qry) (hk : Keeps r₀ s) : Keeps r₀ (State.modQry s f) := by
  unfold State.modQry; try dsimp only
  with_reducible repeat' first | assumption | apply Keeps.ite | apply Keeps.upd

theorem State.setNode_keeps {r₀ : State} {s : State} (b a : Nat) (x : QNode) (hk : Keeps r₀ s) : Keeps r₀ (State.setNode s b a x) := by
  unfold State.setNode; try dsimp only
  with_reducible repeat' first | assumption | apply Keeps.ite | apply State.modQry_keeps | apply Keeps.upd

theorem State.sendSyn_keeps {r₀ : State} {s : State} (f ty hc seq : Nat) (p : List (BitVec 128)) (hk : Keeps r₀ s) : Keeps r₀ (State.sendSyn s f ty hc seq p) := by
  unfold State.sendSyn; try dsimp only
  with_reducible repeat' first | assumption | apply Keeps.ite | apply State.sendFrame_keeps | dsimp only

theorem State.mismatch_keeps {r₀ : State} {s : State} (f : Nat) (hk : Keeps r₀ s) : Keeps r₀ (State.mismatch s f) := by
  unfold State.mismatch; try dsimp only
  with_reducible repeat' first | assumption | apply Keeps.ite | apply State.raiseBit_keeps | split

theorem State.faceStart_keeps {r₀ : State} {s : State} (hk : Keeps r₀ s) : Keeps r₀ (State.faceStart s) := by
  unfold State.faceStart; try dsimp only
  with_reducible repeat' first | assumption | apply Keeps.ite | apply State.sendSyn_keeps | apply State.mismatch_keeps | apply State.modQry_keeps | refine Keeps.fold ?_ (fun _ _ _ => ?_) | dsimp only | split | apply Keeps.upd

theorem State.judgeFaces_keeps {r₀ : State} {s : State} (hk : Keeps r₀ s) : Keeps r₀ (State.judgeFaces s) := by
  unfold State.judgeFaces; try dsimp only
  with_reducible repeat' first | assumption | apply Keeps.ite | apply State.mismatch_keeps | apply State.modQry_keeps | refine Keeps.fold ?_ (fun _ _ _ => ?_) | dsimp only | split | apply Keeps.upd

theorem State.startDecode_keeps {r₀ : State} {s : State} (hk : Keeps r₀ s) : Keeps r₀ (State.startDecode s) := by
  unfold State.startDecode; try dsimp only
  with_reducible repeat' first | assumption | apply Keeps.ite | apply State.takeFree_keeps | apply State.put_keeps | apply State.modQry_keeps | apply State.sendSyn_keeps | refine Keeps.fold ?_ (fun _ _ _ => ?_) | dsimp only | split | apply Keeps.upd

theorem State.closeBench_keeps {r₀ : State} {s : State} (b : Nat) (hk : Keeps r₀ s) : Keeps r₀ (State.closeBench s b) := by
  unfold State.closeBench; try dsimp only
  with_reducible repeat' first | assumption | apply Keeps.ite | apply State.countReg_keeps | apply State.setNode_keeps | apply State.modQry_keeps | apply State.put_keeps | apply State.judgeFaces_keeps | refine Keeps.fold ?_ (fun _ _ _ => ?_) | dsimp only | apply Keeps.upd

theorem State.closeAll_keeps {r₀ : State} (n : Nat) {s : State} (h : Keeps r₀ s) : Keeps r₀ (State.closeAll n s) := by
  induction n generalizing s with
  | zero => exact h
  | succ n ih =>
    simp only [State.closeAll]
    split
    · exact ih (State.closeBench_keeps _ h)
    · exact h

theorem State.closeNow_keeps {r₀ : State} {s : State} (hk : Keeps r₀ s) : Keeps r₀ (State.closeNow s) := by
  unfold State.closeNow; try dsimp only
  with_reducible repeat' first | assumption | apply Keeps.ite | apply State.closeAll_keeps | apply State.modQry_keeps | apply State.startDecode_keeps | dsimp only | apply Keeps.upd

theorem State.sendGrow_keeps {r₀ : State} {s : State} (d : QDecode) (odd : List Nat) (hk : Keeps r₀ s) : Keeps r₀ (State.sendGrow s d odd) := by
  unfold State.sendGrow; try dsimp only
  with_reducible repeat' first | assumption | apply Keeps.ite | apply State.sendSyn_keeps | refine Keeps.fold ?_ (fun _ _ _ => ?_) | dsimp only

theorem State.forgetFrames_keeps {r₀ : State} {s : State} (hc : Nat) (hk : Keeps r₀ s) : Keeps r₀ (State.forgetFrames s hc) := by
  unfold State.forgetFrames; try dsimp only
  with_reducible repeat' first | assumption | apply Keeps.ite | apply State.modQry_keeps | apply Keeps.upd

theorem State.handoff_keeps {r₀ : State} {s : State} (cause hc devs : Nat) (used : List Nat) (hk : Keeps r₀ s) : Keeps r₀ (State.handoff s cause hc devs used) := by
  unfold State.handoff; try dsimp only
  with_reducible repeat' first | assumption | apply Keeps.ite | apply State.modQry_keeps | apply State.put_keeps | apply State.sysCue_keeps | apply State.notice_keeps | apply State.logEntry_keeps | dsimp only | apply Keeps.upd

theorem State.dropBenches_keeps {r₀ : State} {s : State} (k : Nat) (hk : Keeps r₀ s) : Keeps r₀ (State.dropBenches s k) := by
  unfold State.dropBenches; try dsimp only
  with_reducible repeat' first | assumption | apply Keeps.ite | apply State.modQry_keeps | apply State.put_keeps | apply Keeps.upd

theorem State.cover_keeps {r₀ : State} {s : State} (b : Nat) (hk : Keeps r₀ s) : Keeps r₀ (State.cover s b) := by
  unfold State.cover; try dsimp only
  with_reducible repeat' first | assumption | apply Keeps.ite | apply State.modQry_keeps | apply State.put_keeps | dsimp only | apply Keeps.upd

theorem State.commitDecode_keeps {r₀ : State} {s : State} (d : QDecode) (r : QResult) (hk : Keeps r₀ s) : Keeps r₀ (State.commitDecode s d r) := by
  unfold State.commitDecode; try dsimp only
  with_reducible repeat' first | assumption | apply Keeps.ite | apply State.setNode_keeps | apply State.togglePauli_keeps | apply State.cover_keeps | apply State.dropBenches_keeps | apply State.modQry_keeps | apply State.wr_keeps | apply State.sysCue_keeps | apply State.put_keeps | apply State.startDecode_keeps | refine Keeps.fold ?_ (fun _ _ _ => ?_) | dsimp only | apply Keeps.upd

theorem State.qryReset_keeps {r₀ : State} {s : State} (hk : Keeps r₀ s) : Keeps r₀ (State.qryReset s) := by
  unfold State.qryReset; try dsimp only
  with_reducible repeat' first | assumption | apply Keeps.ite | apply State.wr_keeps | apply State.put_keeps | refine Keeps.fold ?_ (fun _ _ _ => ?_) | dsimp only | split | apply Keeps.upd

theorem State.qryUnpass_keeps {r₀ : State} {s : State} (hk : Keeps r₀ s) : Keeps r₀ (State.qryUnpass s) := by
  unfold State.qryUnpass; try dsimp only
  with_reducible repeat' first | assumption | apply Keeps.ite | apply State.put_keeps | apply State.modQry_keeps | apply Keeps.upd

theorem State.qryJudge_keeps {r₀ : State} {s : State} (r : Option (Nat × Nat)) (hk : Keeps r₀ s) : Keeps r₀ (State.qryJudge s r) := by
  unfold State.qryJudge; try dsimp only
  with_reducible repeat' first | assumption | apply Keeps.ite | apply State.put_keeps | split

theorem State.setTally_keeps {r₀ : State} {s : State} (u : Nat) (t : Tally) (hk : Keeps r₀ s) : Keeps r₀ (State.setTally s u t) := by
  unfold State.setTally; try dsimp only
  with_reducible repeat' first | assumption | apply Keeps.ite | apply Keeps.upd

theorem execTallyGo_keeps {r₀ : State} (u : Fin 16) (cont : Bool) {s : State} (hk : Keeps r₀ s) : KeepsR r₀ (execTallyGo u cont s) := by
  unfold execTallyGo; try dsimp only
  with_reducible repeat' first | assumption | apply KeepsR.next | apply KeepsR.ite | apply Keeps.ite | apply State.raiseBit_keeps | apply State.put_keeps | apply State.setTally_keeps | apply State.wr64_keeps | apply State.wr_keeps | dsimp only | split | apply Keeps.upd

theorem execTallyStop_keeps {r₀ : State} (u : Fin 16) {s : State} (hk : Keeps r₀ s) : KeepsR r₀ (execTallyStop u s) := by
  unfold execTallyStop; try dsimp only
  with_reducible repeat' first | assumption | apply KeepsR.next | apply KeepsR.ite | apply Keeps.ite | apply State.setTally_keeps | apply Keeps.upd

theorem State.tallyFault_keeps {r₀ : State} {s : State} (u : Nat) (bit : Fld) (hk : Keeps r₀ s) : Keeps r₀ (State.tallyFault s u bit) := by
  unfold State.tallyFault; try dsimp only
  with_reducible repeat' first | assumption | apply Keeps.ite | apply State.raiseBit_keeps | apply State.countReg_keeps | apply State.sysCue_keeps | apply State.setTally_keeps | apply State.logEntry_keeps | dsimp only | apply Keeps.upd

theorem State.tallyAlive_keeps {r₀ : State} {s : State} (u : Nat) (x : Byte) (hk : Keeps r₀ s) : Keeps r₀ (State.tallyAlive s u x) := by
  unfold State.tallyAlive; try dsimp only
  with_reducible repeat' first | assumption | apply Keeps.ite | apply State.put_keeps | apply State.count_keeps | apply State.tallyFault_keeps | dsimp only

theorem State.tallyMismatch_keeps {r₀ : State} {s : State} (u : Nat) (hk : Keeps r₀ s) : Keeps r₀ (State.tallyMismatch s u) := by
  unfold State.tallyMismatch; try dsimp only
  with_reducible repeat' first | assumption | apply Keeps.ite | apply State.tallyFault_keeps | apply State.setTally_keeps | dsimp only | split | apply Keeps.upd

theorem State.tallyStep_keeps {r₀ : State} {s : State} (u : Nat) (hk : Keeps r₀ s) : Keeps r₀ (State.tallyStep s u) := by
  unfold State.tallyStep; try dsimp only
  with_reducible repeat' first | assumption | apply Keeps.ite | apply State.wr64_keeps | apply State.countReg_keeps | apply State.wr_keeps | apply State.tallyMismatch_keeps | apply State.tallyAlive_keeps | refine Keeps.fold ?_ (fun _ _ _ => ?_) | dsimp only | split

theorem execTallyBlock_keeps {r₀ : State} (u : Fin 16) {s : State} (hk : Keeps r₀ s) : KeepsR r₀ (execTallyBlock u s) := by
  unfold execTallyBlock; try dsimp only
  with_reducible repeat' first | assumption | apply KeepsR.next | apply KeepsR.ite | apply Keeps.ite | apply State.tallyStep_keeps

theorem State.tallyAll_keeps {r₀ : State} (u n : Nat) {s : State} (h : Keeps r₀ s) : Keeps r₀ (State.tallyAll u n s) := by
  induction n generalizing s with
  | zero => exact h
  | succ n ih =>
    simp only [State.tallyAll]
    split
    · exact ih (State.tallyStep_keeps _ h)
    · exact h

theorem State.tallyPart_keeps {r₀ : State} {s : State} (u n : Nat) (hk : Keeps r₀ s) : Keeps r₀ (State.tallyPart s u n) := by
  unfold State.tallyPart; try dsimp only
  with_reducible repeat' first | assumption | apply Keeps.ite | apply State.wr64_keeps | apply State.wr_keeps | dsimp only

theorem State.tallyDone_keeps {r₀ : State} {s : State} (u err : Nat) (hk : Keeps r₀ s) : Keeps r₀ (State.tallyDone s u err) := by
  unfold State.tallyDone; try dsimp only
  with_reducible repeat' first | assumption | apply Keeps.ite | apply State.put_keeps | apply State.raiseBit_keeps | apply State.setTally_keeps | apply Keeps.upd

theorem execTallyEnd_keeps {r₀ : State} (u : Fin 16) {s : State} (hk : Keeps r₀ s) : KeepsR r₀ (execTallyEnd u s) := by
  unfold execTallyEnd; try dsimp only
  with_reducible repeat' first | assumption | apply KeepsR.next | apply KeepsR.ite | apply Keeps.ite | apply State.tallyAll_keeps | apply State.tallyDone_keeps | apply State.takeFree_keeps | apply State.setTally_keeps | apply State.tallyStep_keeps | apply State.tallyPart_keeps | apply State.countLost_keeps | dsimp only | apply Keeps.upd

theorem State.tallyDormant_keeps {r₀ : State} {s : State} (hk : Keeps r₀ s) : Keeps r₀ (State.tallyDormant s) := by
  unfold State.tallyDormant; try dsimp only
  with_reducible repeat' first | assumption | apply Keeps.ite | apply State.tallyDone_keeps | refine Keeps.fold ?_ (fun _ _ _ => ?_) | dsimp only

theorem State.tallyWake_keeps {r₀ : State} {s : State} (hk : Keeps r₀ s) : Keeps r₀ (State.tallyWake s) := by
  unfold State.tallyWake; try dsimp only
  with_reducible repeat' first | assumption | apply Keeps.ite | dsimp only | apply Keeps.upd

theorem State.fluxZero_keeps {r₀ : State} {s : State} (i : Nat) (hk : Keeps r₀ s) : Keeps r₀ (State.fluxZero s i) := by
  unfold State.fluxZero; try dsimp only
  with_reducible repeat' first | assumption | apply Keeps.ite | apply State.setFlx_keeps | apply State.put_keeps | apply Keeps.upd

theorem State.rfOnOff_keeps {r₀ : State} {s : State} (on : Bool) (o : Nat) (hk : Keeps r₀ s) : Keeps r₀ (State.rfOnOff s on o) := by
  unfold State.rfOnOff; try dsimp only
  with_reducible repeat' first | assumption | apply Keeps.ite | apply State.put_keeps

theorem State.rfiOnOff_keeps {r₀ : State} {s : State} (on : Bool) (i : Nat) (hk : Keeps r₀ s) : Keeps r₀ (State.rfiOnOff s on i) := by
  unfold State.rfiOnOff; try dsimp only
  with_reducible repeat' first | assumption | apply Keeps.ite | apply State.put_keeps

theorem State.flxOnOff_keeps {r₀ : State} {s : State} (on : Bool) (i : Nat) (hk : Keeps r₀ s) : Keeps r₀ (State.flxOnOff s on i) := by
  unfold State.flxOnOff; try dsimp only
  with_reducible repeat' first | assumption | apply Keeps.ite | apply State.fluxZero_keeps | apply State.put_keeps | dsimp only

theorem State.setConverters_keeps {r₀ : State} {s : State} (c : Converters) (hk : Keeps r₀ s) : Keeps r₀ (State.setConverters s c) := by
  unfold State.setConverters; try dsimp only
  with_reducible repeat' first | assumption | apply Keeps.ite | apply State.rfOnOff_keeps | apply State.flxOnOff_keeps | apply State.rfiOnOff_keeps | refine Keeps.fold ?_ (fun _ _ _ => ?_) | dsimp only

theorem State.rampDown_keeps {r₀ : State} {s : State} (c : Converters) (hk : Keeps r₀ s) : Keeps r₀ (State.rampDown s c) := by
  unfold State.rampDown; try dsimp only
  with_reducible repeat' first | assumption | apply Keeps.ite | apply State.startRamp_keeps | refine Keeps.fold ?_ (fun _ _ _ => ?_) | dsimp only

theorem State.alignFail_keeps {r₀ : State} {s : State} (c : Converters) (hk : Keeps r₀ s) : Keeps r₀ (State.alignFail s c) := by
  unfold State.alignFail; try dsimp only
  with_reducible repeat' first | assumption | apply Keeps.ite | apply State.raiseBit_keeps | refine Keeps.fold ?_ (fun _ _ _ => ?_) | dsimp only

theorem State.eachLogical_keeps {r₀ : State} {s : State} (f : Nat → Eng → Eng) (hk : Keeps r₀ s) : Keeps r₀ (State.eachLogical s f) := by
  unfold State.eachLogical; try dsimp only
  with_reducible repeat' first | assumption | apply Keeps.ite | apply Keeps.upd

theorem State.holdEngines_keeps {r₀ : State} {s : State} (set : List Nat) (hk : Keeps r₀ s) : Keeps r₀ (State.holdEngines s set) := by
  unfold State.holdEngines; try dsimp only
  with_reducible repeat' first | assumption | apply Keeps.ite | apply State.eachLogical_keeps | apply Keeps.upd

theorem State.reholdEngines_keeps {r₀ : State} {s : State} (hk : Keeps r₀ s) : Keeps r₀ (State.reholdEngines s) := by
  unfold State.reholdEngines; try dsimp only
  with_reducible repeat' first | assumption | apply Keeps.ite | apply State.eachLogical_keeps | split | apply Keeps.upd

theorem State.disarmAll_keeps {r₀ : State} {s : State} (hk : Keeps r₀ s) : Keeps r₀ (State.disarmAll s) := by
  unfold State.disarmAll; try dsimp only
  with_reducible repeat' first | assumption | apply Keeps.ite | apply State.acqDisarm_keeps | refine Keeps.fold ?_ (fun _ _ _ => ?_) | dsimp only

theorem State.resetRings_keeps {r₀ : State} {s : State} (hk : Keeps r₀ s) : Keeps r₀ (State.resetRings s) := by
  unfold State.resetRings; try dsimp only
  with_reducible repeat' first | assumption | apply Keeps.ite | apply State.setRing_keeps | apply State.put_keeps | refine Keeps.fold ?_ (fun _ _ _ => ?_) | dsimp only | apply Keeps.upd

theorem State.clearJumps_keeps {r₀ : State} {s : State} (hk : Keeps r₀ s) : Keeps r₀ (State.clearJumps s) := by
  unfold State.clearJumps; try dsimp only
  with_reducible repeat' first | assumption | apply Keeps.ite | apply State.clearFld_keeps | dsimp only | apply Keeps.upd

theorem State.clearCounts_keeps {r₀ : State} {s : State} (hk : Keeps r₀ s) : Keeps r₀ (State.clearCounts s) := by
  unfold State.clearCounts; try dsimp only
  with_reducible repeat' first | assumption | apply Keeps.ite | apply State.clearFld_keeps | dsimp only | apply Keeps.upd

theorem State.unpark_keeps {r₀ : State} {s : State} (hk : Keeps r₀ s) : Keeps r₀ (State.unpark s) := by
  unfold State.unpark; try dsimp only
  with_reducible repeat' first | assumption | apply Keeps.ite | apply State.setFlx_keeps | apply State.put_keeps | refine Keeps.fold ?_ (fun _ _ _ => ?_) | dsimp only | apply Keeps.upd

theorem State.beginTrans_keeps {r₀ : State} {s : State} (target : Mode) (cmd : Option (BitVec 16 × Nat)) (set : List Nat) (keep : Converters) (hk : Keeps r₀ s) : Keeps r₀ (State.beginTrans s target cmd set keep) := by
  unfold State.beginTrans; try dsimp only
  with_reducible repeat' first | assumption | apply Keeps.ite | apply State.rampDown_keeps | apply Keeps.upd

theorem State.done_keeps {r₀ : State} {s : State} (cmd : Option (BitVec 16 × Nat)) (st : Status) (hk : Keeps r₀ s) : Keeps r₀ (State.done s cmd st) := by
  unfold State.done; try dsimp only
  with_reducible repeat' first | assumption | apply Keeps.ite | apply State.complete_keeps | split

theorem State.abandon_keeps {r₀ : State} {s : State} (t : Trans) (st : Status) (hk : Keeps r₀ s) : Keeps r₀ (State.abandon s t st) := by
  unfold State.abandon; try dsimp only
  with_reducible repeat' first | assumption | apply Keeps.ite | apply State.done_keeps | apply Keeps.upd

theorem State.finishCut_keeps {r₀ : State} {s : State} (hk : Keeps r₀ s) : Keeps r₀ (State.finishCut s) := by
  unfold State.finishCut; try dsimp only
  with_reducible repeat' first | assumption | apply Keeps.ite | apply State.complete_keeps | refine Keeps.fold ?_ (fun _ _ _ => ?_) | dsimp only | apply Keeps.upd

theorem State.enterStandby_keeps {r₀ : State} {s : State} (hk : Keeps r₀ s) : Keeps r₀ (State.enterStandby s) := by
  unfold State.enterStandby; try dsimp only
  with_reducible repeat' first | assumption | apply Keeps.ite | apply State.setConverters_keeps | apply State.releaseEngs_keeps | apply State.disarmAll_keeps | apply State.mvpIdle_keeps | apply State.eachEng_keeps | apply State.clearFld_keeps | apply State.put_keeps | apply State.setMode_keeps | dsimp only | apply Keeps.upd

theorem State.enterPending_keeps {r₀ : State} {s : State} (hk : Keeps r₀ s) : Keeps r₀ (State.enterPending s) := by
  unfold State.enterPending; try dsimp only
  with_reducible repeat' first | assumption | apply Keeps.ite | apply State.enterSafe_keeps | dsimp only | split | apply Keeps.upd

theorem State.rejoin_keeps {r₀ : State} {s : State} (hk : Keeps r₀ s) : Keeps r₀ (State.rejoin s) := by
  unfold State.rejoin; try dsimp only
  with_reducible repeat' first | assumption | apply Keeps.ite | apply State.notifyNeighbours_keeps

theorem State.linksTo_keeps {r₀ : State} {s : State} (old new : Nat) (hk : Keeps r₀ s) : Keeps r₀ (State.linksTo s old new) := by
  unfold State.linksTo; try dsimp only
  with_reducible repeat' first | assumption | apply Keeps.ite | apply State.setLink_keeps | refine Keeps.fold ?_ (fun _ _ _ => ?_) | dsimp only

theorem State.enterDormant_keeps {r₀ : State} {s : State} (hk : Keeps r₀ s) : Keeps r₀ (State.enterDormant s) := by
  unfold State.enterDormant; try dsimp only
  with_reducible repeat' first | assumption | apply Keeps.ite | apply State.modLink_keeps | apply State.mvpIdle_keeps | apply State.tallyDormant_keeps | apply State.notifyNeighbours_keeps | apply State.linksTo_keeps | apply State.put_keeps | apply State.setMode_keeps | refine Keeps.fold ?_ (fun _ _ _ => ?_) | dsimp only | apply Keeps.upd

theorem State.wakeWork_keeps {r₀ : State} {s : State} (r : TransResult) (hk : Keeps r₀ s) : Keeps r₀ (State.wakeWork s r) := by
  unfold State.wakeWork; try dsimp only
  with_reducible repeat' first | assumption | apply Keeps.ite | apply State.fullTrain_keeps | apply State.put_keeps | apply State.relock_keeps | apply State.tallyWake_keeps | apply State.finishCut_keeps | apply State.raiseBit_keeps | apply State.logEntry_keeps | apply State.safeCause_keeps | refine Keeps.fold ?_ (fun _ _ _ => ?_) | dsimp only | apply Keeps.upd

theorem execEnterStandby_keeps {r₀ : State} (c : Cmd) {s : State} (hk : Keeps r₀ s) : KeepsR r₀ (execEnterStandby c s) := by
  unfold execEnterStandby; try dsimp only
  with_reducible repeat' first | assumption | apply KeepsR.next | apply KeepsR.ite | apply Keeps.ite | apply State.admin_keeps | apply State.beginTrans_keeps | apply State.complete_keeps | apply State.linksTo_keeps | intro _ | dsimp only | split

theorem execEnterDormant_keeps {r₀ : State} (c : Cmd) {s : State} (hk : Keeps r₀ s) : KeepsR r₀ (execEnterDormant c s) := by
  unfold execEnterDormant; try dsimp only
  with_reducible repeat' first | assumption | apply KeepsR.next | apply KeepsR.ite | apply Keeps.ite | apply State.admin_keeps | apply State.complete_keeps | apply State.beginTrans_keeps | intro _ | dsimp only

theorem execEnterCalibrate_keeps {r₀ : State} (c : Cmd) {s : State} (hk : Keeps r₀ s) : KeepsR r₀ (execEnterCalibrate c s) := by
  unfold execEnterCalibrate; try dsimp only
  with_reducible repeat' first | assumption | apply KeepsR.next | apply KeepsR.ite | apply Keeps.ite | apply State.admin_keeps | apply State.complete_keeps | apply State.beginTrans_keeps | intro _ | dsimp only | split

theorem execEnterService_keeps {r₀ : State} (c : Cmd) {s : State} (hk : Keeps r₀ s) : KeepsR r₀ (execEnterService c s) := by
  unfold execEnterService; try dsimp only
  with_reducible repeat' first | assumption | apply KeepsR.next | apply KeepsR.ite | apply Keeps.ite | apply State.admin_keeps | apply State.complete_keeps | apply State.beginTrans_keeps | intro _ | dsimp only

theorem execArm_keeps {r₀ : State} (c : Cmd) {s : State} (hk : Keeps r₀ s) : KeepsR r₀ (execArm c s) := by
  unfold execArm; try dsimp only
  with_reducible repeat' first | assumption | apply KeepsR.next | apply KeepsR.ite | apply Keeps.ite | apply State.admin_keeps | apply State.countLost_keeps | apply State.complete_keeps | apply State.cuePass_keeps | apply State.qryJudge_keeps | apply State.beginTrans_keeps | intro _ | dsimp only

theorem execStart_keeps {r₀ : State} (c : Cmd) {s : State} (hk : Keeps r₀ s) : KeepsR r₀ (execStart c s) := by
  unfold execStart; try dsimp only
  with_reducible repeat' first | assumption | apply KeepsR.next | apply KeepsR.ite | apply Keeps.ite | apply State.admin_keeps | apply State.complete_keeps | intro _ | dsimp only | apply Keeps.upd

theorem execStop_keeps {r₀ : State} (c : Cmd) {s : State} (hk : Keeps r₀ s) : KeepsR r₀ (execStop c s) := by
  unfold execStop; try dsimp only
  with_reducible repeat' first | assumption | apply KeepsR.next | apply KeepsR.ite | apply Keeps.ite | apply State.admin_keeps | apply State.complete_keeps | intro _ | dsimp only | apply Keeps.upd

theorem State.doEnterSafe_keeps {r₀ : State} {s : State} (c : Cmd) (hk : Keeps r₀ s) : Keeps r₀ (State.doEnterSafe s c) := by
  unfold State.doEnterSafe; try dsimp only
  with_reducible repeat' first | assumption | apply Keeps.ite | apply State.complete_keeps | apply State.countReg_keeps | apply State.safeCause_keeps

theorem execEnterSafe_keeps {r₀ : State} (c : Cmd) {s : State} (hk : Keeps r₀ s) : KeepsR r₀ (execEnterSafe c s) := by
  unfold execEnterSafe; try dsimp only
  with_reducible repeat' first | assumption | apply KeepsR.next | apply KeepsR.ite | apply Keeps.ite | apply State.doEnterSafe_keeps

theorem execSafeReq_keeps {r₀ : State} {s : State} (hk : Keeps r₀ s) : KeepsR r₀ (execSafeReq s) := by
  unfold execSafeReq; try dsimp only
  with_reducible repeat' first | assumption | apply KeepsR.next | apply KeepsR.ite | apply Keeps.ite | apply State.safeCause_keeps

theorem execWake_keeps {r₀ : State} {s : State} (hk : Keeps r₀ s) : KeepsR r₀ (execWake s) := by
  unfold execWake; try dsimp only
  with_reducible repeat' first | assumption | apply KeepsR.next | apply KeepsR.ite | apply Keeps.ite | apply State.beginTrans_keeps | apply State.linksTo_keeps

theorem execEngHalt_keeps {r₀ : State} (n : Fin 1088) {s : State} (hk : Keeps r₀ s) : KeepsR r₀ (execEngHalt n s) := by
  unfold execEngHalt; try dsimp only
  with_reducible repeat' first | assumption | apply KeepsR.next | apply KeepsR.ite | apply Keeps.ite | dsimp only | split | apply Keeps.upd

theorem execRunStart_keeps {r₀ : State} {s : State} (hk : Keeps r₀ s) : KeepsR r₀ (execRunStart s) := by
  unfold execRunStart; try dsimp only
  with_reducible repeat' first | assumption | apply KeepsR.next | apply KeepsR.ite | apply Keeps.ite | apply State.advanceTo_keeps | apply State.mesTo_keeps | apply State.eachLogical_keeps | apply State.setSlot_keeps | apply State.setFlx_keeps | apply State.clearJumps_keeps | apply State.initCells_keeps | apply State.clearShot_keeps | apply State.faceStart_keeps | apply State.sysCue_keeps | apply State.setMode_keeps | apply State.run_keeps | refine Keeps.fold ?_ (fun _ _ _ => ?_) | dsimp only | split | apply Keeps.upd

theorem execStopTime_keeps {r₀ : State} {s : State} (hk : Keeps r₀ s) : KeepsR r₀ (execStopTime s) := by
  unfold execStopTime; try dsimp only
  with_reducible repeat' first | assumption | apply KeepsR.next | apply KeepsR.ite | apply Keeps.ite | apply State.run_keeps | apply State.advanceTo_keeps | apply State.judge_keeps | apply State.haltAll_keeps | apply State.cutSlots_keeps | apply State.cutFlux_keeps | dsimp only | split | apply Keeps.upd

theorem execRunComplete_keeps {r₀ : State} {s : State} (hk : Keeps r₀ s) : KeepsR r₀ (execRunComplete s) := by
  unfold execRunComplete; try dsimp only
  with_reducible repeat' first | assumption | apply KeepsR.next | apply KeepsR.ite | apply Keeps.ite | apply State.run_keeps | apply State.advanceTo_keeps | dsimp only | apply Keeps.upd

theorem State.endRun_keeps {r₀ : State} {s : State} (t : Trans) (hk : Keeps r₀ s) : Keeps r₀ (State.endRun s t) := by
  unfold State.endRun; try dsimp only
  with_reducible repeat' first | assumption | apply Keeps.ite | apply State.reholdEngines_keeps | apply State.resetRings_keeps | apply State.setMode_keeps | apply State.done_keeps | apply State.notice_keeps | dsimp only | split

theorem State.endArm_keeps {r₀ : State} {s : State} (t : Trans) (r : TransResult) (hk : Keeps r₀ s) : Keeps r₀ (State.endArm s t r) := by
  unfold State.endArm; try dsimp only
  with_reducible repeat' first | assumption | apply Keeps.ite | apply State.fluxZero_keeps | apply State.flxOnOff_keeps | apply State.alignFail_keeps | apply State.abandon_keeps | apply State.mesTo_keeps | apply State.setConverters_keeps | apply State.unpark_keeps | apply State.holdEngines_keeps | apply State.clearCounts_keeps | apply State.clearJumps_keeps | apply State.resetRings_keeps | apply State.initCells_keeps | apply State.qryReset_keeps | apply State.setMode_keeps | apply State.done_keeps | refine Keeps.fold ?_ (fun _ _ _ => ?_) | dsimp only | apply Keeps.upd

theorem State.endCalibrate_keeps {r₀ : State} {s : State} (t : Trans) (r : TransResult) (hk : Keeps r₀ s) : Keeps r₀ (State.endCalibrate s t r) := by
  unfold State.endCalibrate; try dsimp only
  with_reducible repeat' first | assumption | apply Keeps.ite | apply State.setConverters_keeps | apply State.alignFail_keeps | apply State.releaseEngs_keeps | apply State.put_keeps | apply State.setMode_keeps | apply State.applyTrim_keeps | apply State.done_keeps | refine Keeps.fold ?_ (fun _ _ _ => ?_) | dsimp only | apply Keeps.upd

theorem State.endReturn_keeps {r₀ : State} {s : State} (t : Trans) (hk : Keeps r₀ s) : Keeps r₀ (State.endReturn s t) := by
  unfold State.endReturn; try dsimp only
  with_reducible repeat' first | assumption | apply Keeps.ite | apply State.enterPending_keeps | apply State.rejoin_keeps | apply State.done_keeps | apply State.disarmAll_keeps | apply State.mvpIdle_keeps | apply State.setMode_keeps | apply Keeps.upd

theorem execTransitionEnd_keeps {r₀ : State} (r : TransResult) {s : State} (hk : Keeps r₀ s) : KeepsR r₀ (execTransitionEnd r s) := by
  unfold execTransitionEnd; try dsimp only
  with_reducible repeat' first | assumption | apply KeepsR.next | apply KeepsR.ite | apply Keeps.ite | apply State.wakeWork_keeps | apply State.endReturn_keeps | apply State.run_keeps | apply State.endRun_keeps | apply State.abandon_keeps | apply State.enterDormant_keeps | apply State.done_keeps | apply State.disarmAll_keeps | apply State.mvpIdle_keeps | apply State.notifyNeighbours_keeps | apply State.setMode_keeps | apply State.endCalibrate_keeps | apply State.advanceTo_keeps | apply State.endArm_keeps | apply State.enterStandby_keeps | dsimp only | split

theorem State.takeOutcome_keeps {r₀ : State} {s : State} (p : Pub) (hk : Keeps r₀ s) : Keeps r₀ (State.takeOutcome s p) := by
  unfold State.takeOutcome; try dsimp only
  with_reducible repeat' first | assumption | apply Keeps.ite | apply State.countReg_keeps | apply State.handoff_keeps | apply State.setNode_keeps | apply State.modQry_keeps | refine Keeps.fold ?_ (fun _ _ _ => ?_) | dsimp only | apply Keeps.upd

theorem State.takeOutcomes_keeps {r₀ : State} {s : State} (hk : Keeps r₀ s) : Keeps r₀ (State.takeOutcomes s) := by
  unfold State.takeOutcomes; try dsimp only
  with_reducible repeat' first | assumption | apply Keeps.ite | apply State.takeOutcome_keeps | refine Keeps.fold ?_ (fun _ _ _ => ?_) | dsimp only | apply Keeps.upd

theorem execOutcome_keeps {r₀ : State} {s : State} (hk : Keeps r₀ s) : KeepsR r₀ (execOutcome s) := by
  unfold execOutcome; try dsimp only
  with_reducible repeat' first | assumption | apply KeepsR.next | apply KeepsR.ite | apply Keeps.ite | apply State.advanceTo_keeps | apply State.takeOutcomes_keeps | apply State.closeNow_keeps | refine Keeps.fold ?_ (fun _ _ _ => ?_) | dsimp only | split

theorem execBenchTimeout_keeps {r₀ : State} {s : State} (hk : Keeps r₀ s) : KeepsR r₀ (execBenchTimeout s) := by
  unfold execBenchTimeout; try dsimp only
  with_reducible repeat' first | assumption | apply KeepsR.next | apply KeepsR.ite | apply Keeps.ite | apply State.advanceTo_keeps | apply State.takeOutcomes_keeps | apply State.closeNow_keeps | dsimp only | split

theorem execDecodeEnd_keeps {r₀ : State} (peers : List QPeer) {s : State} (hk : Keeps r₀ s) : KeepsR r₀ (execDecodeEnd peers s) := by
  unfold execDecodeEnd; try dsimp only
  with_reducible repeat' first | assumption | apply KeepsR.next | apply KeepsR.ite | apply Keeps.ite | apply State.handoff_keeps | apply State.sendGrow_keeps | apply State.sendSyn_keeps | apply State.forgetFrames_keeps | apply State.commitDecode_keeps | refine Keeps.fold ?_ (fun _ _ _ => ?_) | dsimp only | split

theorem execFaceTimeout_keeps {r₀ : State} (f : Fin 6) {s : State} (hk : Keeps r₀ s) : KeepsR r₀ (execFaceTimeout f s) := by
  unfold execFaceTimeout; try dsimp only
  with_reducible repeat' first | assumption | apply KeepsR.next | apply KeepsR.ite | apply Keeps.ite | apply State.advanceTo_keeps | apply State.count_keeps | apply State.modQry_keeps | dsimp only | split | apply Keeps.upd

theorem execBacklog_keeps {r₀ : State} {s : State} (hk : Keeps r₀ s) : KeepsR r₀ (execBacklog s) := by
  unfold execBacklog; try dsimp only
  with_reducible repeat' first | assumption | apply KeepsR.next | apply KeepsR.ite | apply Keeps.ite | apply State.advanceTo_keeps | apply State.raiseBit_keeps | apply State.sysCue_keeps | apply State.countReg_keeps | dsimp only | split

theorem execQryResume_keeps {r₀ : State} (v : Word) {s : State} (hk : Keeps r₀ s) : KeepsR r₀ (execQryResume v s) := by
  unfold execQryResume; try dsimp only
  with_reducible repeat' first | assumption | apply KeepsR.next | apply KeepsR.ite | apply Keeps.ite | apply State.raiseBit_keeps | apply State.cover_keeps | apply State.dropBenches_keeps | apply State.put_keeps | apply State.startDecode_keeps | dsimp only

theorem execQryFrameXor_keeps {r₀ : State} (v : Word) {s : State} (hk : Keeps r₀ s) : KeepsR r₀ (execQryFrameXor v s) := by
  unfold execQryFrameXor; try dsimp only
  with_reducible repeat' first | assumption | apply KeepsR.next | apply KeepsR.ite | apply Keeps.ite | apply State.run_keeps | apply State.togglePauli_keeps | dsimp only

theorem execQryConfigWrite_keeps {r₀ : State} (seam : Bool) (off : BitVec 20) (v : Word) {s : State} (hk : Keeps r₀ s) : KeepsR r₀ (execQryConfigWrite seam off v s) := by
  unfold execQryConfigWrite; try dsimp only
  with_reducible repeat' first | assumption | apply KeepsR.next | apply KeepsR.ite | apply Keeps.ite | apply State.qryUnpass_keeps | apply State.stageWrite_keeps | apply State.writeOwn_keeps | apply Memory.wf_memSetWord | split | apply Keeps.upd | refine Keeps.mkS ?_ (fun w => ?_)

theorem execQryCheck_keeps {r₀ : State} {s : State} (hk : Keeps r₀ s) : KeepsR r₀ (execQryCheck s) := by
  unfold execQryCheck; try dsimp only
  with_reducible repeat' first | assumption | apply KeepsR.next | apply KeepsR.ite | apply Keeps.ite | apply State.put_keeps | apply State.modQry_keeps | apply Keeps.upd

theorem execQryCheckDone_keeps {r₀ : State} {s : State} (hk : Keeps r₀ s) : KeepsR r₀ (execQryCheckDone s) := by
  unfold execQryCheckDone; try dsimp only
  with_reducible repeat' first | assumption | apply KeepsR.next | apply KeepsR.ite | apply Keeps.ite | apply State.put_keeps | apply State.modQry_keeps | apply State.qryJudge_keeps | apply Keeps.upd

theorem execDescriptorWrite_keeps {r₀ : State} (o : OutId) (d : BitVec 11) (w0 w1 : Option Word) {s : State} (hk : Keeps r₀ s) : KeepsR r₀ (execDescriptorWrite o d w0 w1 s) := by
  unfold execDescriptorWrite; try dsimp only
  with_reducible repeat' first | assumption | apply KeepsR.next | apply KeepsR.ite | apply Keeps.ite | apply State.dropWrite_keeps | apply State.passGate_keeps | apply State.storeDesc_keeps | dsimp only

theorem execLibraryWrite_keeps {r₀ : State} (off : BitVec 29) (words : List Word) {s : State} (hk : Keeps r₀ s) : KeepsR r₀ (execLibraryWrite off words s) := by
  unfold execLibraryWrite; try dsimp only
  with_reducible repeat' first | assumption | apply KeepsR.next | apply KeepsR.ite | apply Keeps.ite | apply State.libWord_keeps | refine Keeps.fold ?_ (fun _ _ _ => ?_) | dsimp only

theorem execJreq_keeps {r₀ : State} (t : JumpTarget) {s : State} (hk : Keeps r₀ s) : KeepsR r₀ (execJreq t s) := by
  unfold execJreq; try dsimp only
  with_reducible repeat' first | assumption | apply KeepsR.next | apply KeepsR.ite | apply Keeps.ite | apply State.jumpRequest_keeps | split

theorem execRingOpen_keeps {r₀ : State} (o : Fin 80) (r : Fin 4) {s : State} (hk : Keeps r₀ s) : KeepsR r₀ (execRingOpen o r s) := by
  unfold execRingOpen; try dsimp only
  with_reducible repeat' first | assumption | apply KeepsR.next | apply KeepsR.ite | apply Keeps.ite | apply State.raiseBit_keeps | apply State.put_keeps | apply State.setLimit_keeps | apply State.setRing_keeps | dsimp only | split | apply Keeps.upd

theorem execRingClose_keeps {r₀ : State} (o : Fin 80) (r : Fin 4) {s : State} (hk : Keeps r₀ s) : KeepsR r₀ (execRingClose o r s) := by
  unfold execRingClose; try dsimp only
  with_reducible repeat' first | assumption | apply KeepsR.next | apply KeepsR.ite | apply Keeps.ite | apply State.put_keeps | apply State.setLimit_keeps | dsimp only | apply Keeps.upd

theorem execRingRefill_keeps {r₀ : State} (o : Fin 80) (r : Fin 4) {s : State} (hk : Keeps r₀ s) : KeepsR r₀ (execRingRefill o r s) := by
  unfold execRingRefill; try dsimp only
  with_reducible repeat' first | assumption | apply KeepsR.next | apply KeepsR.ite | apply Keeps.ite | apply State.countLost_keeps | apply State.setRing_keeps | apply State.put_keeps | apply Memory.wf_memSetWords | dsimp only | apply Keeps.upd | refine Keeps.mkS ?_ (fun w => ?_)

theorem execShotInvalClear_keeps {r₀ : State} {s : State} (hk : Keeps r₀ s) : KeepsR r₀ (execShotInvalClear s) := by
  unfold execShotInvalClear; try dsimp only
  with_reducible repeat' first | assumption | apply KeepsR.next | apply KeepsR.ite | apply Keeps.ite | apply State.clearShot_keeps

theorem State.loadEntry_keeps {r₀ : State} (tag : BitVec 16) (o : Nat) (r : State × List Nat) (x : SegEntry) (h : Keeps r₀ r.1) :
    Keeps r₀ (State.loadEntry tag o r x).1 := by
  unfold State.loadEntry
  dsimp only
  split
  · exact State.dropWrite_keeps _ h
  · apply State.storeDesc_keeps
    apply Keeps.mkS2 (State.passGate_keeps _ _ _ _ _ h) h
    intro w
    split
    · exact Memory.wf_memSetWords _ _ _ w
    · exact Memory.wf_memSetWords _ _ _ (Memory.wf_memSetWords _ _ _ w)

theorem execLoadSegments_keeps {r₀ s : State} (c : Cmd) (img : List SegEntry) (h : Keeps r₀ s) :
    KeepsR r₀ (execLoadSegments c img s) := by
  unfold execLoadSegments
  refine State.admin_keeps h (fun u hu => ?_)
  apply Keeps.ite (State.complete_keeps _ _ _ _ _ (State.countLost_keeps _ _ hu))
  apply Keeps.ite (State.complete_keeps _ _ _ _ _ hu)
  have hr : Keeps r₀ (img.foldl (State.loadEntry c.tag ((c.w 1).bits 8 0)) (u, [])).1 :=
    Keeps.fold1 hu (fun p x hp => State.loadEntry_keeps _ _ p x hp)
  exact ⟨hr.queue, hr.sram, hr.bulk, hr.minGh, hr.minPa⟩

theorem State.unload_keeps {r₀ : State} {s : State} (e : Nat) (hk : Keeps r₀ s) : Keeps r₀ (State.unload s e) := by
  unfold State.unload; try dsimp only
  with_reducible repeat' first | assumption | apply Keeps.ite | apply State.modEng_keeps | apply Keeps.upd

theorem execLoadEngines_keeps {r₀ : State} (c : Cmd) (img : List EngineImage) {s : State} (hk : Keeps r₀ s) : KeepsR r₀ (execLoadEngines c img s) := by
  unfold execLoadEngines; try dsimp only
  with_reducible repeat' first | assumption | apply KeepsR.next | apply KeepsR.ite | apply Keeps.ite | apply State.admin_keeps | apply State.countLost_keeps | apply State.complete_keeps | apply State.unload_keeps | refine Keeps.fold ?_ (fun _ _ _ => ?_) | intro _ | dsimp only | apply Keeps.upd

theorem State.writeImage_keeps {r₀ : State} {s : State} (i : EngineImage) (hk : Keeps r₀ s) : Keeps r₀ (State.writeImage s i) := by
  unfold State.writeImage; try dsimp only
  with_reducible repeat' first | assumption | apply Keeps.ite | apply State.clearUpsets_keeps | apply State.modEng_keeps | apply Memory.wf_memSetWords | apply Memory.wf_memClear | dsimp only | apply Keeps.upd | refine Keeps.mkS ?_ (fun w => ?_)

theorem execConfigQuarry_keeps {r₀ s : State} (c : Cmd) (img : CfgImage) (h : Keeps r₀ s) : KeepsR r₀ (execConfigQuarry c img s) := by
  unfold execConfigQuarry
  refine State.admin_keeps h (fun u hu => ?_)
  extract_lets regs rs t1 m t2 t3
  have h1 : Keeps r₀ t1 := Keeps.fold hu (fun _ _ hx => State.writeOwn_keeps _ _ hx)
  have h2 : Keeps r₀ t2 := Keeps.mkS2 h1 h1 (fun w => Memory.wf_fold w (fun m x hm => Memory.wf_memSetWords m _ _ hm))
  have h3 : Keeps r₀ t3 := State.qryJudge_keeps _ (State.qryUnpass_keeps h2)
  clear_value t1 t2 t3
  apply Keeps.ite (State.complete_keeps _ _ _ _ _ (State.countLost_keeps _ _ hu))
  apply Keeps.ite (State.complete_keeps _ _ _ _ _ hu)
  split
  · exact State.complete_keeps _ _ _ _ _ hu
  · exact State.complete_keeps _ _ _ _ _ (Keeps.ite (State.qryReset_keeps h3) h3)

theorem execUcsLoadOpen_keeps {r₀ : State} (c : Cmd) (img : UcsImage) {s : State} (hk : Keeps r₀ s) : KeepsR r₀ (execUcsLoadOpen c img s) := by
  unfold execUcsLoadOpen; try dsimp only
  with_reducible repeat' first | assumption | apply KeepsR.next | apply KeepsR.ite | apply Keeps.ite | apply State.admin_keeps | apply State.countLost_keeps | apply State.complete_keeps | apply State.put_keeps | intro _ | dsimp only | split | apply Keeps.upd

theorem State.clearOpen_keeps {r₀ : State} {s : State} (c : EngClass) (hk : Keeps r₀ s) : Keeps r₀ (State.clearOpen s c) := by
  unfold State.clearOpen; try dsimp only
  with_reducible repeat' first | assumption | apply Keeps.ite | apply State.wr_keeps | apply Memory.wf_memClear | dsimp only | apply Keeps.upd | refine Keeps.mkS ?_ (fun w => ?_)

theorem State.writeOpen_keeps {r₀ s : State} (c : EngClass) (img : UcsImage) (h : Keeps r₀ s) : Keeps r₀ (s.writeOpen c img) := by
  have h1 := State.clearOpen_keeps c h
  unfold State.writeOpen
  extract_lets dir s1 m m1 ver dig
  have hm : Keeps r₀ { s1 with sram := m1 } :=
    Keeps.mkS2 h1 h1 (fun w => Memory.wf_fold (Memory.wf_memSetWords _ _ _ w) (fun m x hm => Memory.wf_memSetWord m _ _ hm))
  exact Keeps.fold (State.wr_keeps _ _ _ _ (State.clearUpsets_keeps _ _ hm)) (fun _ _ hx => State.wr_keeps _ _ _ _ hx)

theorem State.spareTo_keeps {r₀ : State} {s : State} (n p : Nat) (hk : Keeps r₀ s) : Keeps r₀ (State.spareTo s n p) := by
  unfold State.spareTo; try dsimp only
  with_reducible repeat' first | assumption | apply Keeps.ite | apply State.setReg_keeps | apply State.put_keeps | apply State.logEntry_keeps | dsimp only | apply Keeps.upd

theorem execSpareEngine_keeps {r₀ : State} (c : Cmd) {s : State} (hk : Keeps r₀ s) : KeepsR r₀ (execSpareEngine c s) := by
  unfold execSpareEngine; try dsimp only
  with_reducible repeat' first | assumption | apply KeepsR.next | apply KeepsR.ite | apply Keeps.ite | apply State.admin_keeps | apply State.complete_keeps | apply State.spareTo_keeps | intro _ | dsimp only | split

theorem State.showImages_keeps {r₀ : State} {s : State} (hk : Keeps r₀ s) : Keeps r₀ (State.showImages s) := by
  unfold State.showImages; try dsimp only
  with_reducible repeat' first | assumption | apply Keeps.ite | apply State.put_keeps | dsimp only

theorem State.loadPatch_keeps {r₀ : State} {s : State} (hk : Keeps r₀ s) : Keeps r₀ (State.loadPatch s) := by
  unfold State.loadPatch; try dsimp only
  with_reducible repeat' first | assumption | apply Keeps.ite | apply State.put_keeps | apply State.clearUpsets_keeps | apply State.wr_keeps | apply State.logEntry_keeps | dsimp only | apply Keeps.upd

theorem State.replay_keeps {r₀ : State} {s : State} (r : JRec) (hk : Keeps r₀ s) : Keeps r₀ (State.replay s r) := by
  unfold State.replay; try dsimp only
  with_reducible repeat' first | assumption | apply Keeps.ite | apply State.put_keeps | apply State.setReg_keeps | refine Keeps.fold ?_ (fun _ _ _ => ?_) | dsimp only | split | apply Keeps.upd

theorem State.replayJournal_keeps {r₀ : State} {s0 : State} (hk : Keeps r₀ s0) : Keeps r₀ (State.replayJournal s0) := by
  unfold State.replayJournal; try dsimp only
  with_reducible repeat' first | assumption | apply Keeps.ite | apply State.replay_keeps | apply State.put_keeps | apply State.raiseBit_keeps | refine Keeps.fold ?_ (fun _ _ _ => ?_) | dsimp only | exact Nat.le_refl _ | apply Nat.le_max_left | apply Keeps.upd | refine Keeps.mkF ?_ ⟨?_, ?_⟩

theorem State.idleLink_keeps {r₀ : State} {s : State} (l : Nat) (hk : Keeps r₀ s) : Keeps r₀ (State.idleLink s l) := by
  unfold State.idleLink; try dsimp only
  with_reducible repeat' first | assumption | apply Keeps.ite | apply State.setLink_keeps

theorem State.deviceReset_keeps {r₀ s : State} (h : Keeps r₀ s) : Keeps r₀ s.deviceReset :=
  ⟨h.queue, fun w => Memory.wf_filter _ _ (h.sram w), fun _ => rfl, h.minGh, h.minPa⟩

theorem State.coldStart_keeps {r₀ s : State} (id : Nat) (h : Keeps r₀ s) : Keeps r₀ (s.coldStart id) :=
  State.put_keeps _ _ ⟨h.queue, fun _ => rfl, fun _ => rfl, h.minGh, h.minPa⟩

theorem State.railsDown_keeps {r₀ : State} {s : State} (again : Bool) (hk : Keeps r₀ s) : Keeps r₀ (State.railsDown s again) := by
  unfold State.railsDown; try dsimp only
  with_reducible repeat' first | assumption | apply Keeps.ite | apply Keeps.upd

theorem State.resetRails_keeps {r₀ : State} {s : State} (railsOk : Bool) (hk : Keeps r₀ s) : Keeps r₀ (State.resetRails s railsOk) := by
  unfold State.resetRails; try dsimp only
  with_reducible repeat' first | assumption | apply Keeps.ite | apply State.deviceReset_keeps | apply State.railsDown_keeps

theorem execGlbReset_keeps {r₀ : State} (key : Word) (railsOk : Bool) {s : State} (hk : Keeps r₀ s) : KeepsR r₀ (execGlbReset key railsOk s) := by
  unfold execGlbReset; try dsimp only
  with_reducible repeat' first | assumption | apply KeepsR.next | apply KeepsR.ite | apply Keeps.ite | apply State.resetRails_keeps

theorem execResetN_keeps {r₀ : State} (railsOk : Bool) {s : State} (hk : Keeps r₀ s) : KeepsR r₀ (execResetN railsOk s) := by
  unfold execResetN; try dsimp only
  with_reducible repeat' first | assumption | apply KeepsR.next | apply KeepsR.ite | apply Keeps.ite | apply State.resetRails_keeps

theorem execPowerOn_keeps {r₀ : State} (straps : BitVec 9) (railsOk : Bool) {s : State} (hk : Keeps r₀ s) : KeepsR r₀ (execPowerOn straps railsOk s) := by
  unfold execPowerOn; try dsimp only
  with_reducible repeat' first | assumption | apply KeepsR.next | apply KeepsR.ite | apply Keeps.ite | apply State.coldStart_keeps | apply State.railsDown_keeps | dsimp only

theorem execRailRetry_keeps {r₀ : State} (railsOk : Bool) {s : State} (hk : Keeps r₀ s) : KeepsR r₀ (execRailRetry railsOk s) := by
  unfold execRailRetry; try dsimp only
  with_reducible repeat' first | assumption | apply KeepsR.next | apply KeepsR.ite | apply Keeps.ite | apply State.railsDown_keeps | apply Keeps.upd

theorem execPowerOff_keeps {r₀ s : State} (h : Keeps r₀ s) : KeepsR r₀ (execPowerOff s) :=
  KeepsR.next ⟨h.queue, fun _ => rfl, fun _ => rfl, h.minGh, h.minPa⟩

theorem State.failBoot_keeps {r₀ : State} {s : State} (stage cause caller : Nat) (hk : Keeps r₀ s) : Keeps r₀ (State.failBoot s stage cause caller) := by
  unfold State.failBoot; try dsimp only
  with_reducible repeat' first | assumption | apply Keeps.ite | apply State.put_keeps | apply Keeps.upd

theorem State.showFlash_keeps {r₀ : State} {s : State} (p : FlashPart) (hk : Keeps r₀ s) : Keeps r₀ (State.showFlash s p) := by
  unfold State.showFlash; try dsimp only
  with_reducible repeat' first | assumption | apply Keeps.ite | apply State.put_keeps | dsimp only

theorem State.bootClock_keeps {r₀ : State} {s : State} (refA refB : Bool) (hk : Keeps r₀ s) : Keeps r₀ (State.bootClock s refA refB) := by
  unfold State.bootClock; try dsimp only
  with_reducible repeat' first | assumption | apply Keeps.ite | apply State.loadPatch_keeps | apply State.put_keeps | apply State.lockTo_keeps | dsimp only | split | apply Keeps.upd

theorem State.bootEnd_keeps {r₀ : State} {s : State} (sweeps : List Sweep) (signal : BitVec 6) (hk : Keeps r₀ s) : Keeps r₀ (State.bootEnd s sweeps signal) := by
  unfold State.bootEnd; try dsimp only
  with_reducible repeat' first | assumption | apply Keeps.ite | apply State.put_keeps | apply State.fullTrain_keeps | apply State.idleLink_keeps | apply State.trainLink_keeps | apply State.setMode_keeps | refine Keeps.fold ?_ (fun _ _ _ => ?_) | dsimp only | apply Keeps.upd

theorem State.bootXing_keeps {r₀ : State} {s : State} (bad : List Nat) (hk : Keeps r₀ s) : Keeps r₀ (State.bootXing s bad) := by
  unfold State.bootXing; try dsimp only
  with_reducible repeat' first | assumption | apply Keeps.ite | apply State.put_keeps | apply State.logEntry_keeps | apply State.failBoot_keeps | refine Keeps.fold ?_ (fun _ _ _ => ?_) | dsimp only

theorem execBootComplete_keeps {r₀ : State} (r : BootResult) {s : State} (hk : Keeps r₀ s) : KeepsR r₀ (execBootComplete r s) := by
  unfold execBootComplete; try dsimp only
  with_reducible repeat' first | assumption | apply KeepsR.next | apply KeepsR.ite | apply Keeps.ite | apply State.put_keeps | apply State.failBoot_keeps | apply State.showFlash_keeps | apply State.showImages_keeps | apply State.logEntry_keeps | apply State.bootClock_keeps | apply State.replayJournal_keeps | apply State.bootEnd_keeps | apply State.bootXing_keeps | dsimp only

theorem execCrossingSlip_keeps {r₀ : State} (die : Fin 5) {s : State} (hk : Keeps r₀ s) : KeepsR r₀ (execCrossingSlip die s) := by
  unfold execCrossingSlip; try dsimp only
  with_reducible repeat' first | assumption | apply KeepsR.next | apply KeepsR.ite | apply Keeps.ite | apply State.raiseBit_keeps | apply State.put_keeps | apply State.safeCause_keeps | apply State.bootXing_keeps | apply State.logEntry_keeps | dsimp only

theorem execFlashWrite_keeps {r₀ s : State} (c : Cmd) (img : Container) (h : Keeps r₀ s) : KeepsR r₀ (execFlashWrite c img s) := by
  unfold execFlashWrite
  refine State.admin_keeps h (fun u hu => ?_)
  apply Keeps.ite (State.complete_keeps _ _ _ _ _ hu)
  apply Keeps.ite
  · exact State.complete_keeps _ _ _ _ _ (Keeps.ite hu (State.countReg_keeps _ _ _ _ hu))
  split
  · exact State.complete_keeps _ _ _ _ _ hu
  · apply Keeps.upd
    apply State.put_keeps
    apply State.showImages_keeps
    apply Keeps.mkF hu
    split
    · exact ⟨Nat.le_refl _, Nat.le_refl _⟩
    · exact Flash.setCopy_min _ _ _ _

theorem State.endFlashWrite_keeps {r₀ s : State} (kind : Nat) (copy : Bool) (off : Nat) (img : FlashCopy) (good : Bool)
    (h : Keeps r₀ s) : Keeps r₀ (s.endFlashWrite kind copy off img good) := by
  unfold State.endFlashWrite
  apply State.put_keeps
  apply State.showImages_keeps
  apply Keeps.mkF h
  split
  · exact ⟨Nat.le_refl _, Nat.le_refl _⟩
  · split
    · exact ⟨Nat.le_refl _, Nat.le_refl _⟩
    · exact Flash.setCopy_min _ _ _ _

theorem State.callerReset_keeps {r₀ : State} {s : State} (cause : Nat) (hk : Keeps r₀ s) : Keeps r₀ (State.callerReset s cause) := by
  unfold State.callerReset; try dsimp only
  with_reducible repeat' first | assumption | apply Keeps.ite | apply State.dropWrite_keeps | apply State.clearOpen_keeps | apply State.put_keeps | apply State.count_keeps | refine Keeps.fold ?_ (fun _ _ _ => ?_) | apply Memory.wf_memSetWord | dsimp only | split | apply Keeps.upd | refine Keeps.mkS ?_ (fun w => ?_)

theorem execFwActivate_keeps {r₀ s : State} (c : Cmd) (h : Keeps r₀ s) : KeepsR r₀ (execFwActivate c s) := by
  unfold execFwActivate
  refine State.admin_keeps h (fun u hu => ?_)
  apply Keeps.ite (State.complete_keeps _ _ _ _ _ hu)
  apply Keeps.ite (State.complete_keeps _ _ _ _ _ hu)
  apply Keeps.upd
  have h1 : Keeps r₀ ({ u with flash := u.flash.flip ((c.w 1).bits 3 0) }.showImages) :=
    State.showImages_keeps (Keeps.mkF hu (Flash.flip_min _ _))
  exact Keeps.ite (State.put_keeps _ _ (State.callerReset_keeps _ h1)) (State.loadPatch_keeps h1)

theorem State.endFwActivate_keeps {r₀ s : State} (b : Bg) (kind : Nat) (raise : Bool) (h : Keeps r₀ s) :
    Keeps r₀ (s.endFwActivate b kind raise) := by
  unfold State.endFwActivate
  apply Keeps.ite (State.complete_keeps _ _ _ _ _ h)
  apply Keeps.ite (State.complete_keeps _ _ _ _ _ h)
  apply State.complete_keeps
  apply State.showImages_keeps
  apply Keeps.mkF h
  split
  · exact ⟨Nat.le_max_left _ _, Nat.le_refl _⟩
  · exact ⟨Nat.le_refl _, Nat.le_max_left _ _⟩

theorem execMemRepair_keeps {r₀ : State} (c : Cmd) {s : State} (hk : Keeps r₀ s) : KeepsR r₀ (execMemRepair c s) := by
  unfold execMemRepair; try dsimp only
  with_reducible repeat' first | assumption | apply KeepsR.next | apply KeepsR.ite | apply Keeps.ite | apply State.admin_keeps | apply State.complete_keeps | intro _ | dsimp only | apply Keeps.upd

theorem State.clearRow_keeps {r₀ : State} {s : State} (row : Nat) (hk : Keeps r₀ s) : Keeps r₀ (State.clearRow s row) := by
  unfold State.clearRow; try dsimp only
  with_reducible repeat' first | assumption | apply Keeps.ite | apply Memory.wf_filter | apply Keeps.upd | refine Keeps.mkB ?_ (fun w => ?_)

theorem State.endRepair_keeps {r₀ : State} {s : State} (b : Bg) (rows : List Nat) (good : Bool) (hk : Keeps r₀ s) : Keeps r₀ (State.endRepair s b rows good) := by
  unfold State.endRepair; try dsimp only
  with_reducible repeat' first | assumption | apply Keeps.ite | apply State.complete_keeps | apply State.clearRow_keeps | apply State.count_keeps | apply State.put_keeps | refine Keeps.fold ?_ (fun _ _ _ => ?_) | dsimp only | apply Keeps.upd

theorem State.endJob_keeps {r₀ : State} {s : State} (b : Bg) (r : CmdOutcome) (hk : Keeps r₀ s) : Keeps r₀ (State.endJob s b r) := by
  unfold State.endJob; try dsimp only
  with_reducible repeat' first | assumption | apply Keeps.ite | apply State.writeImage_keeps | apply State.complete_keeps | apply State.writeOpen_keeps | apply State.endFlashWrite_keeps | apply State.endFwActivate_keeps | apply State.endRepair_keeps | refine Keeps.fold ?_ (fun _ _ _ => ?_) | dsimp only | split

theorem execCommandEnd_keeps {r₀ : State} (tag : BitVec 16) (r : CmdOutcome) {s : State} (hk : Keeps r₀ s) : KeepsR r₀ (execCommandEnd tag r s) := by
  unfold execCommandEnd; try dsimp only
  with_reducible repeat' first | assumption | apply KeepsR.next | apply KeepsR.ite | apply Keeps.ite | apply State.endJob_keeps | split | apply Keeps.upd

theorem execCallerRestart_keeps {r₀ : State} (c : Cmd) {s : State} (hk : Keeps r₀ s) : KeepsR r₀ (execCallerRestart c s) := by
  unfold execCallerRestart; try dsimp only
  with_reducible repeat' first | assumption | apply KeepsR.next | apply KeepsR.ite | apply Keeps.ite | apply State.admin_keeps | apply State.callerReset_keeps | intro _ | dsimp only | apply Keeps.upd

theorem State.callerFails_keeps {r₀ : State} {s : State} (cause : Nat) (hk : Keeps r₀ s) : Keeps r₀ (State.callerFails s cause) := by
  unfold State.callerFails; try dsimp only
  with_reducible repeat' first | assumption | apply Keeps.ite | apply State.callerReset_keeps | dsimp only | apply Keeps.upd

theorem execCallerWatchdog_keeps {r₀ : State} {s : State} (hk : Keeps r₀ s) : KeepsR r₀ (execCallerWatchdog s) := by
  unfold execCallerWatchdog; try dsimp only
  with_reducible repeat' first | assumption | apply KeepsR.next | apply KeepsR.ite | apply Keeps.ite | apply State.callerFails_keeps

theorem execCallerFault_keeps {r₀ : State} {s : State} (hk : Keeps r₀ s) : KeepsR r₀ (execCallerFault s) := by
  unfold execCallerFault; try dsimp only
  with_reducible repeat' first | assumption | apply KeepsR.next | apply KeepsR.ite | apply Keeps.ite | apply State.callerFails_keeps

theorem State.compareJournal_keeps {r₀ : State} {s : State} (hk : Keeps r₀ s) : Keeps r₀ (State.compareJournal s) := by
  unfold State.compareJournal; try dsimp only
  with_reducible repeat' first | assumption | apply Keeps.ite | apply State.put_keeps | dsimp only | exact Nat.le_refl _ | apply Nat.le_max_left | apply Keeps.upd | refine Keeps.mkF ?_ ⟨?_, ?_⟩

theorem State.ghenovUp_keeps {r₀ : State} {s : State} (copy : Bool) (hk : Keeps r₀ s) : Keeps r₀ (State.ghenovUp s copy) := by
  unfold State.ghenovUp; try dsimp only
  with_reducible repeat' first | assumption | apply Keeps.ite | apply State.put_keeps | apply State.finishCut_keeps | apply State.compareJournal_keeps | apply State.skimQ_keeps | intro _ | dsimp only

theorem execGhenovReady_keeps {r₀ : State} (otherOk : Bool) {s : State} (hk : Keeps r₀ s) : KeepsR r₀ (execGhenovReady otherOk s) := by
  unfold execGhenovReady; try dsimp only
  with_reducible repeat' first | assumption | apply KeepsR.next | apply KeepsR.ite | apply Keeps.ite | apply State.ghenovUp_keeps | apply State.put_keeps | apply State.finishCut_keeps | apply State.skimQ_keeps | dsimp only

theorem execJournalAppend_keeps {r₀ : State} {s : State} (hk : Keeps r₀ s) : KeepsR r₀ (execJournalAppend s) := by
  unfold execJournalAppend; try dsimp only
  with_reducible repeat' first | assumption | apply KeepsR.next | apply KeepsR.ite | apply Keeps.ite | apply State.journal_keeps | apply State.put_keeps | dsimp only | exact Nat.le_refl _ | apply Nat.le_max_left | split | apply Keeps.upd | refine Keeps.mkF ?_ ⟨?_, ?_⟩

theorem execSyncEdge_keeps {r₀ : State} {s : State} (hk : Keeps r₀ s) : KeepsR r₀ (execSyncEdge s) := by
  unfold execSyncEdge; try dsimp only
  with_reducible repeat' first | assumption | apply KeepsR.next | apply KeepsR.ite | apply Keeps.ite | apply State.advanceTo_keeps | apply State.loadTT_keeps | apply State.put_keeps | apply State.count_keeps | apply State.wr64_keeps | dsimp only

theorem execEpochArm_keeps {r₀ : State} {s : State} (hk : Keeps r₀ s) : KeepsR r₀ (execEpochArm s) := by
  unfold execEpochArm; try dsimp only
  with_reducible repeat' first | assumption | apply KeepsR.next | apply KeepsR.ite | apply Keeps.ite | apply State.put_keeps

theorem execSnapTake_keeps {r₀ : State} {s : State} (hk : Keeps r₀ s) : KeepsR r₀ (execSnapTake s) := by
  unfold execSnapTake; try dsimp only
  with_reducible repeat' first | assumption | apply KeepsR.next | apply KeepsR.ite | apply Keeps.ite | apply State.put_keeps | apply State.setReg_keeps | refine Keeps.fold ?_ (fun _ _ _ => ?_) | dsimp only

theorem execLoadWt_keeps {r₀ : State} {s : State} (hk : Keeps r₀ s) : KeepsR r₀ (execLoadWt s) := by
  unfold execLoadWt; try dsimp only
  with_reducible repeat' first | assumption | apply KeepsR.next | apply KeepsR.ite | apply Keeps.ite | apply State.raiseBit_keeps | apply State.advanceTo_keeps | apply State.setWt_keeps

theorem State.setRef_keeps {r₀ : State} {s : State} (b : Bool) (cnt : Nat) (valid : Bool) (hk : Keeps r₀ s) : Keeps r₀ (State.setRef s b cnt valid) := by
  unfold State.setRef; try dsimp only
  with_reducible repeat' first | assumption | apply Keeps.ite | apply State.put_keeps | dsimp only | apply Keeps.upd

theorem State.refGone_keeps {r₀ : State} {s : State} (b : Bool) (hk : Keeps r₀ s) : Keeps r₀ (State.refGone s b) := by
  unfold State.refGone; try dsimp only
  with_reducible repeat' first | assumption | apply Keeps.ite | apply State.setRef_keeps | apply State.switchRef_keeps | apply State.loseLock_keeps | dsimp only | split

theorem execRefLoss_keeps {r₀ : State} (refB : Bool) {s : State} (hk : Keeps r₀ s) : KeepsR r₀ (execRefLoss refB s) := by
  unfold execRefLoss; try dsimp only
  with_reducible repeat' first | assumption | apply KeepsR.next | apply KeepsR.ite | apply Keeps.ite | apply State.refGone_keeps

theorem State.measured_keeps {r₀ : State} {s : State} (refB : Bool) (hk : Keeps r₀ s) : Keeps r₀ (State.measured s refB) := by
  unfold State.measured; try dsimp only
  with_reducible repeat' first | assumption | apply Keeps.ite | apply State.elapseTo_keeps | dsimp only | apply Keeps.upd

theorem execRefMeasure_keeps {r₀ : State} (refB : Bool) (hz : Nat) (edge : Fin 2560) {s0 : State} (hk : Keeps r₀ s0) : KeepsR r₀ (execRefMeasure refB hz edge s0) := by
  unfold execRefMeasure; try dsimp only
  with_reducible repeat' first | assumption | apply KeepsR.next | apply KeepsR.ite | apply Keeps.ite | apply State.measured_keeps | apply State.refGone_keeps | apply State.setRef_keeps | apply State.regain_keeps | dsimp only | split

theorem execRefRevert_keeps {r₀ : State} {s : State} (hk : Keeps r₀ s) : KeepsR r₀ (execRefRevert s) := by
  unfold execRefRevert; try dsimp only
  with_reducible repeat' first | assumption | apply KeepsR.next | apply KeepsR.ite | apply Keeps.ite | apply State.switchRef_keeps | dsimp only

theorem execRefModeWrite_keeps {r₀ : State} (mode : BitVec 2) (edge : Fin 2560) {s : State} (hk : Keeps r₀ s) : KeepsR r₀ (execRefModeWrite mode edge s) := by
  unfold execRefModeWrite; try dsimp only
  with_reducible repeat' first | assumption | apply KeepsR.next | apply KeepsR.ite | apply Keeps.ite | apply State.put_keeps | apply State.switchRef_keeps | apply State.loseLock_keeps | apply State.regain_keeps | dsimp only | split

theorem execHoldoverUpdate_keeps {r₀ : State} {s : State} (hk : Keeps r₀ s) : KeepsR r₀ (execHoldoverUpdate s) := by
  unfold execHoldoverUpdate; try dsimp only
  with_reducible repeat' first | assumption | apply KeepsR.next | apply KeepsR.ite | apply Keeps.ite | apply State.elapseTo_keeps | apply State.put_keeps | apply State.raiseBit_keeps | apply State.safeCause_keeps | dsimp only | apply Keeps.upd

theorem execServoUpdate_keeps {r₀ : State} {s0 : State} (hk : Keeps r₀ s0) : KeepsR r₀ (execServoUpdate s0) := by
  unfold execServoUpdate; try dsimp only
  with_reducible repeat' first | assumption | apply KeepsR.next | apply KeepsR.ite | apply Keeps.ite | apply State.elapseTo_keeps | apply State.put_keeps | apply State.moveWt_keeps | apply State.raiseBit_keeps | apply State.markWt_keeps | apply State.setReg_keeps | dsimp only | split | apply Keeps.upd

theorem State.ptpOffset_keeps {r₀ : State} {s : State} (b : Bool) (hk : Keeps r₀ s) : Keeps r₀ (State.ptpOffset s b) := by
  unfold State.ptpOffset; try dsimp only
  with_reducible repeat' first | assumption | apply Keeps.ite | apply State.domEstimate_keeps | split

theorem State.ptpSync_keeps {r₀ : State} {s : State} (b : Bool) (t1 t2 : Int) (hk : Keeps r₀ s) : Keeps r₀ (State.ptpSync s b t1 t2) := by
  unfold State.ptpSync; try dsimp only
  with_reducible repeat' first | assumption | apply Keeps.ite | apply State.takeFree_keeps | apply State.setDom_keeps | apply State.ptpOffset_keeps | dsimp only | apply Keeps.upd

theorem State.takePtp_keeps {r₀ : State} {s : State} (b : Bool) (m : PtpMsg) (hk : Keeps r₀ s) : Keeps r₀ (State.takePtp s b m) := by
  unfold State.takePtp; try dsimp only
  with_reducible repeat' first | assumption | apply Keeps.ite | apply State.setDom_keeps | apply State.ptpSync_keeps | apply State.ptpOffset_keeps | dsimp only | split | apply Keeps.upd

theorem execPtpMessage_keeps {r₀ : State} (m : PtpMsg) {s : State} (hk : Keeps r₀ s) : KeepsR r₀ (execPtpMessage m s) := by
  unfold execPtpMessage; try dsimp only
  with_reducible repeat' first | assumption | apply KeepsR.next | apply KeepsR.ite | apply Keeps.ite | apply State.countReg_keeps | apply State.takePtp_keeps | refine Keeps.fold ?_ (fun _ _ _ => ?_) | dsimp only | split | apply Keeps.upd

theorem execDomainSourceLost_keeps {r₀ : State} (domB : Bool) {s : State} (hk : Keeps r₀ s) : KeepsR r₀ (execDomainSourceLost domB s) := by
  unfold execDomainSourceLost; try dsimp only
  with_reducible repeat' first | assumption | apply KeepsR.next | apply KeepsR.ite | apply Keeps.ite | apply State.sourceLost_keeps

theorem execTimeFrameSend_keeps {r₀ : State} (domB : Bool) {s : State} (hk : Keeps r₀ s) : KeepsR r₀ (execTimeFrameSend domB s) := by
  unfold execTimeFrameSend; try dsimp only
  with_reducible repeat' first | assumption | apply KeepsR.next | apply KeepsR.ite | apply Keeps.ite | apply State.advanceTo_keeps | apply State.setDom_keeps | apply State.enqueue_keeps | refine Keeps.fold ?_ (fun _ _ _ => ?_) | dsimp only | apply Keeps.upd

theorem execTrimWrite_keeps {r₀ : State} (t : TrimField) {s : State} (hk : Keeps r₀ s) : KeepsR r₀ (execTrimWrite t s) := by
  unfold execTrimWrite; try dsimp only
  with_reducible repeat' first | assumption | apply KeepsR.next | apply KeepsR.ite | apply Keeps.ite | apply State.stageWrite_keeps | apply State.put_keeps | apply State.advanceTo_keeps | apply State.applyTrim_keeps | dsimp only | split

theorem execTrimResettleDone_keeps {r₀ : State} {s : State} (hk : Keeps r₀ s) : KeepsR r₀ (execTrimResettleDone s) := by
  unfold execTrimResettleDone; try dsimp only
  with_reducible repeat' first | assumption | apply KeepsR.next | apply KeepsR.ite | apply Keeps.ite | apply State.acqSettled_keeps | refine Keeps.fold ?_ (fun _ _ _ => ?_) | dsimp only | apply Keeps.upd

theorem State.skewDone_keeps {r₀ : State} {s : State} (k : Skew) (off : Int) (hk : Keeps r₀ s) : Keeps r₀ (State.skewDone s k off) := by
  unfold State.skewDone; try dsimp only
  with_reducible repeat' first | assumption | apply Keeps.ite | apply State.raiseBit_keeps | apply State.put_keeps | apply State.complete_keeps | apply State.applyTrim_keeps | apply State.enqueue_keeps | refine Keeps.fold ?_ (fun _ _ _ => ?_) | dsimp only | apply Keeps.upd

theorem execSkewCal_keeps {r₀ : State} (c : Cmd) {s : State} (hk : Keeps r₀ s) : KeepsR r₀ (execSkewCal c s) := by
  unfold execSkewCal; try dsimp only
  with_reducible repeat' first | assumption | apply KeepsR.next | apply KeepsR.ite | apply Keeps.ite | apply State.admin_keeps | apply State.complete_keeps | apply State.skewDone_keeps | apply State.enqueue_keeps | intro _ | dsimp only | split | apply Keeps.upd

theorem execSkewCalTimeout_keeps {r₀ : State} {s : State} (hk : Keeps r₀ s) : KeepsR r₀ (execSkewCalTimeout s) := by
  unfold execSkewCalTimeout; try dsimp only
  with_reducible repeat' first | assumption | apply KeepsR.next | apply KeepsR.ite | apply Keeps.ite | apply State.complete_keeps | split | apply Keeps.upd

theorem State.cutRun_keeps {r₀ : State} {s : State} (e id u : Nat) (hk : Keeps r₀ s) : Keeps r₀ (State.cutRun s e id u) := by
  unfold State.cutRun; try dsimp only
  with_reducible repeat' first | assumption | apply Keeps.ite | apply State.modEng_keeps | apply State.modMe_keeps | apply State.run_keeps | apply Keeps.upd

theorem State.windowSample_keeps {r₀ : State} (e m u : Nat) (d : Int × Int) (tag : Bool) {s : State} (w : MeWin) (hk : Keeps r₀ s) : Keeps r₀ (State.windowSample e m u d tag s w) := by
  unfold State.windowSample; try dsimp only
  with_reducible repeat' first | assumption | apply Keeps.ite | apply State.modMe_keeps | apply State.run_keeps | apply State.cutRun_keeps | intro _ | dsimp only | split | apply Keeps.upd

theorem State.toMe_keeps {r₀ : State} {s : State} (e m u : Nat) (d : Int × Int) (tag : Bool) (hk : Keeps r₀ s) : Keeps r₀ (State.toMe s e m u d tag) := by
  unfold State.toMe; try dsimp only
  with_reducible repeat' first | assumption | apply Keeps.ite | apply State.meTo_keeps | apply State.windowSample_keeps | refine Keeps.fold ?_ (fun _ _ _ => ?_) | dsimp only

theorem execDemodSample_keeps {r₀ : State} (i : Fin 16) (m : Nat) (codes : List (BitVec 12)) {s : State} (hk : Keeps r₀ s) : KeepsR r₀ (execDemodSample i m codes s) := by
  unfold execDemodSample; try dsimp only
  with_reducible repeat' first | assumption | apply KeepsR.next | apply KeepsR.ite | apply Keeps.ite | apply State.advanceTo_keeps | apply State.raiseBit_keeps | apply State.countReg_keeps | apply State.put_keeps | apply State.toMe_keeps | refine Keeps.fold ?_ (fun _ _ _ => ?_) | dsimp only | apply Keeps.upd

theorem State.reconfigure_keeps {r₀ : State} {s : State} (l : Nat) (hk : Keeps r₀ s) : Keeps r₀ (State.reconfigure s l) := by
  unfold State.reconfigure; try dsimp only
  with_reducible repeat' first | assumption | apply Keeps.ite | apply State.idleLink_keeps | apply State.modLink_keeps

theorem execLinkConfig_keeps {r₀ : State} (c : Cmd) {s : State} (hk : Keeps r₀ s) : KeepsR r₀ (execLinkConfig c s) := by
  unfold execLinkConfig; try dsimp only
  with_reducible repeat' first | assumption | apply KeepsR.next | apply KeepsR.ite | apply Keeps.ite | apply State.admin_keeps | apply State.put_keeps | apply State.reconfigure_keeps | apply State.persist_keeps | apply State.complete_keeps | refine Keeps.fold ?_ (fun _ _ _ => ?_) | intro _ | dsimp only | apply Keeps.upd

theorem State.setLanes_keeps {r₀ : State} {s : State} (l active : Nat) (hk : Keeps r₀ s) : Keeps r₀ (State.setLanes s l active) := by
  unfold State.setLanes; try dsimp only
  with_reducible repeat' first | assumption | apply Keeps.ite | apply State.put_keeps

theorem State.resetLink_keeps {r₀ : State} {s : State} (l : Nat) (hk : Keeps r₀ s) : Keeps r₀ (State.resetLink s l) := by
  unfold State.resetLink; try dsimp only
  with_reducible repeat' first | assumption | apply Keeps.ite | apply State.idleLink_keeps | apply State.setLink_keeps | apply State.modLink_keeps | apply State.put_keeps | apply State.setLanes_keeps | dsimp only

theorem execLinkReset_keeps {r₀ : State} (c : Cmd) {s : State} (hk : Keeps r₀ s) : KeepsR r₀ (execLinkReset c s) := by
  unfold execLinkReset; try dsimp only
  with_reducible repeat' first | assumption | apply KeepsR.next | apply KeepsR.ite | apply Keeps.ite | apply State.admin_keeps | apply State.resetLink_keeps | apply State.complete_keeps | refine Keeps.fold ?_ (fun _ _ _ => ?_) | intro _ | dsimp only

theorem State.loseLane_keeps {r₀ : State} {s : State} (l lane : Nat) (hk : Keeps r₀ s) : Keeps r₀ (State.loseLane s l lane) := by
  unfold State.loseLane; try dsimp only
  with_reducible repeat' first | assumption | apply Keeps.ite | apply State.put_keeps | apply State.setLanes_keeps | apply State.modLink_keeps | dsimp only | apply Keeps.upd

theorem State.fewLanes_keeps {r₀ : State} {s : State} (l : Nat) (hk : Keeps r₀ s) : Keeps r₀ (State.fewLanes s l) := by
  unfold State.fewLanes; try dsimp only
  with_reducible repeat' first | assumption | apply Keeps.ite | apply State.linkLost_keeps | apply State.setLink_keeps | apply State.modLink_keeps | dsimp only

theorem execSpareLane_keeps {r₀ : State} (c : Cmd) {s : State} (hk : Keeps r₀ s) : KeepsR r₀ (execSpareLane c s) := by
  unfold execSpareLane; try dsimp only
  with_reducible repeat' first | assumption | apply KeepsR.next | apply KeepsR.ite | apply Keeps.ite | apply State.admin_keeps | apply State.complete_keeps | apply State.loseLane_keeps | apply State.fewLanes_keeps | intro _ | dsimp only

theorem execLaneFailure_keeps {r₀ : State} (l : Fin 6) (lane : Fin 5) {s : State} (hk : Keeps r₀ s) : KeepsR r₀ (execLaneFailure l lane s) := by
  unfold execLaneFailure; try dsimp only
  with_reducible repeat' first | assumption | apply KeepsR.next | apply KeepsR.ite | apply Keeps.ite | apply State.loseLane_keeps | apply State.fewLanes_keeps | dsimp only

theorem execSpareTrained_keeps {r₀ : State} (l : Fin 6) {s : State} (hk : Keeps r₀ s) : KeepsR r₀ (execSpareTrained l s) := by
  unfold execSpareTrained; try dsimp only
  with_reducible repeat' first | assumption | apply KeepsR.next | apply KeepsR.ite | apply Keeps.ite | apply State.setLanes_keeps | apply State.modLink_keeps | dsimp only | apply Keeps.upd

theorem execSignalDetect_keeps {r₀ : State} (l : Fin 6) {s : State} (hk : Keeps r₀ s) : KeepsR r₀ (execSignalDetect l s) := by
  unfold execSignalDetect; try dsimp only
  with_reducible repeat' first | assumption | apply KeepsR.next | apply KeepsR.ite | apply Keeps.ite | apply State.trainLink_keeps

theorem execTrainTimeout_keeps {r₀ : State} (l : Fin 6) {s : State} (hk : Keeps r₀ s) : KeepsR r₀ (execTrainTimeout l s) := by
  unfold execTrainTimeout; try dsimp only
  with_reducible repeat' first | assumption | apply KeepsR.next | apply KeepsR.ite | apply Keeps.ite | apply State.elapseTo_keeps | apply State.setLink_keeps | apply State.modLink_keeps | dsimp only | apply Keeps.upd

theorem execTrainRetry_keeps {r₀ : State} (l : Fin 6) {s : State} (hk : Keeps r₀ s) : KeepsR r₀ (execTrainRetry l s) := by
  unfold execTrainRetry; try dsimp only
  with_reducible repeat' first | assumption | apply KeepsR.next | apply KeepsR.ite | apply Keeps.ite | apply State.elapseTo_keeps | apply State.trainLink_keeps

theorem execTrainDone_keeps {r₀ : State} (l : Fin 6) (lanes : BitVec 5) (flight : BitVec 16) {s : State} (hk : Keeps r₀ s) : KeepsR r₀ (execTrainDone l lanes flight s) := by
  unfold execTrainDone; try dsimp only
  with_reducible repeat' first | assumption | apply KeepsR.next | apply KeepsR.ite | apply Keeps.ite | apply State.put_keeps | apply State.setLanes_keeps | apply State.setLink_keeps | apply State.enqueue_keeps | dsimp only

theorem execCapabilitiesFrame_keeps {r₀ : State} (l : Fin 6) (c : Caps) (nonce : BitVec 128) {s : State} (hk : Keeps r₀ s) : KeepsR r₀ (execCapabilitiesFrame l c nonce s) := by
  unfold execCapabilitiesFrame; try dsimp only
  with_reducible repeat' first | assumption | apply KeepsR.next | apply KeepsR.ite | apply Keeps.ite | apply State.put_keeps | apply State.takeFree_keeps | apply State.setLink_keeps | apply State.modLink_keeps | apply State.enqueue_keeps | apply State.isolate_keeps | dsimp only | split | apply Keeps.upd

theorem execAuthResponse_keeps {r₀ : State} (l : Fin 6) (tag : BitVec 128) {s : State} (hk : Keeps r₀ s) : KeepsR r₀ (execAuthResponse l tag s) := by
  unfold execAuthResponse; try dsimp only
  with_reducible repeat' first | assumption | apply KeepsR.next | apply KeepsR.ite | apply Keeps.ite | apply State.setLink_keeps | apply State.modLink_keeps | apply State.isolate_keeps | dsimp only | split | apply Keeps.upd

theorem execAuthTimeout_keeps {r₀ : State} (l : Fin 6) {s : State} (hk : Keeps r₀ s) : KeepsR r₀ (execAuthTimeout l s) := by
  unfold execAuthTimeout; try dsimp only
  with_reducible repeat' first | assumption | apply KeepsR.next | apply KeepsR.ite | apply Keeps.ite | apply State.elapseTo_keeps | apply State.isolate_keeps

theorem execKeepaliveSend_keeps {r₀ : State} (l : Fin 6) {s : State} (hk : Keeps r₀ s) : KeepsR r₀ (execKeepaliveSend l s) := by
  unfold execKeepaliveSend; try dsimp only
  with_reducible repeat' first | assumption | apply KeepsR.next | apply KeepsR.ite | apply Keeps.ite | apply State.elapseTo_keeps | apply State.modLink_keeps | apply State.enqueue_keeps | dsimp only | apply Keeps.upd

theorem execKeepaliveTimeout_keeps {r₀ : State} (l : Fin 6) {s : State} (hk : Keeps r₀ s) : KeepsR r₀ (execKeepaliveTimeout l s) := by
  unfold execKeepaliveTimeout; try dsimp only
  with_reducible repeat' first | assumption | apply KeepsR.next | apply KeepsR.ite | apply Keeps.ite | apply State.elapseTo_keeps | apply State.setLink_keeps | apply State.modLink_keeps | apply State.logEntry_keeps | dsimp only

theorem State.bxfEnd_keeps {r₀ : State} {s : State} (result : Nat) (hk : Keeps r₀ s) : Keeps r₀ (State.bxfEnd s result) := by
  unfold State.bxfEnd; try dsimp only
  with_reducible repeat' first | assumption | apply Keeps.ite | apply State.put_keeps | apply Keeps.upd

theorem State.resend_keeps {r₀ : State} {s : State} (k : Nat) (x : Sent) (hk : Keeps r₀ s) : Keeps r₀ (State.resend s k x) := by
  unfold State.resend; try dsimp only
  with_reducible repeat' first | assumption | apply Keeps.ite | apply State.modLink_keeps | apply State.bxfEnd_keeps | apply State.countReg_keeps | apply State.linkError_keeps | dsimp only | apply Keeps.upd

theorem execLinkAck_keeps {r₀ : State} (l : Fin 6) (seq : Nat) (refused : Bool) {s : State} (hk : Keeps r₀ s) : KeepsR r₀ (execLinkAck l seq refused s) := by
  unfold execLinkAck; try dsimp only
  with_reducible repeat' first | assumption | apply KeepsR.next | apply KeepsR.ite | apply Keeps.ite | apply State.modLink_keeps | apply State.resend_keeps | dsimp only | split | apply Keeps.upd

theorem execReplayTimeout_keeps {r₀ : State} (l : Fin 6) {s : State} (hk : Keeps r₀ s) : KeepsR r₀ (execReplayTimeout l s) := by
  unfold execReplayTimeout; try dsimp only
  with_reducible repeat' first | assumption | apply KeepsR.next | apply KeepsR.ite | apply Keeps.ite | apply State.elapseTo_keeps | apply State.resend_keeps | split

theorem execRateInterval_keeps {r₀ : State} (mgmt : Bool) {s : State} (hk : Keeps r₀ s) : KeepsR r₀ (execRateInterval mgmt s) := by
  unfold execRateInterval; try dsimp only
  with_reducible repeat' first | assumption | apply KeepsR.next | apply KeepsR.ite | apply Keeps.ite | apply State.toInterval_keeps | dsimp only | apply Keeps.upd

theorem execErrorInterval_keeps {r₀ : State} {s : State} (hk : Keeps r₀ s) : KeepsR r₀ (execErrorInterval s) := by
  unfold execErrorInterval; try dsimp only
  with_reducible repeat' first | assumption | apply KeepsR.next | apply KeepsR.ite | apply Keeps.ite | apply State.toInterval_keeps | dsimp only | apply Keeps.upd

theorem State.invalidFrame_keeps {r₀ : State} {s : State} (l : Nat) (hk : Keeps r₀ s) : Keeps r₀ (State.invalidFrame s l) := by
  unfold State.invalidFrame; try dsimp only
  with_reducible repeat' first | assumption | apply Keeps.ite | apply State.countReg_keeps | apply State.linkError_keeps

theorem State.passOn_keeps {r₀ : State} {s : State} (l cls : Nat) (fr : Frame) (hk : Keeps r₀ s) : Keeps r₀ (State.passOn s l cls fr) := by
  unfold State.passOn; try dsimp only
  with_reducible repeat' first | assumption | apply Keeps.ite | apply State.countReg_keeps | apply State.sendFrame_keeps

theorem State.overRate_keeps {r₀ : State} {s : State} (l : Nat) (hk : Keeps r₀ s) : Keeps r₀ (State.overRate s l) := by
  unfold State.overRate; try dsimp only
  with_reducible repeat' first | assumption | apply Keeps.ite | apply State.countReg_keeps | apply State.linkError_keeps

theorem State.arrive_keeps {r₀ s : State} {l cls : Nat} {fr : Frame} {more : Bool} {spent : Link → Bool} {charge : Link → Link}
    {handle : State → State} (h : Keeps r₀ s) (hh : ∀ u, Keeps r₀ u → Keeps r₀ (handle u)) :
    Keeps r₀ (s.arrive l cls fr more spent charge handle) := by
  unfold State.arrive
  dsimp only
  apply Keeps.ite h
  apply Keeps.ite (State.enqueue_keeps _ _ h)
  apply Keeps.ite (State.invalidFrame_keeps _ (State.enqueue_keeps _ _ h))
  apply Keeps.ite (State.overRate_keeps _ (State.enqueue_keeps _ _ h))
  apply Keeps.ite
  · exact hh _ (State.modLink_keeps _ _ (State.enqueue_keeps _ _ h))
  · exact State.passOn_keeps _ _ _ (State.modLink_keeps _ _ (State.enqueue_keeps _ _ h))

theorem State.importFrame_keeps {r₀ : State} {s : State} (w : BitVec 128) (hk : Keeps r₀ s) : Keeps r₀ (State.importFrame s w) := by
  unfold State.importFrame; try dsimp only
  with_reducible repeat' first | assumption | apply Keeps.ite | apply State.count_keeps | apply State.countReg_keeps | apply State.raiseAt_keeps | apply State.writeVerdict_keeps | dsimp only | split | apply Keeps.upd

theorem execDecisionFrame_keeps {r₀ : State} (l : Fin 6) (a b : BitVec 128) {s : State} (hk : Keeps r₀ s) : KeepsR r₀ (execDecisionFrame l a b s) := by
  unfold execDecisionFrame; try dsimp only
  with_reducible repeat' first | assumption | apply KeepsR.next | apply KeepsR.ite | apply Keeps.ite | apply State.countReg_keeps | apply State.linkError_keeps | apply State.invalidFrame_keeps | apply State.overRate_keeps | apply State.modLink_keeps | apply State.importFrame_keeps | apply State.enqueueDec_keeps | dsimp only | split | apply Keeps.upd

theorem State.takeDigest_keeps {r₀ : State} {s : State} (f d : Nat) (hk : Keeps r₀ s) : Keeps r₀ (State.takeDigest s f d) := by
  unfold State.takeDigest; try dsimp only
  with_reducible repeat' first | assumption | apply Keeps.ite | apply State.modQry_keeps | apply State.mismatch_keeps | dsimp only | split | apply Keeps.upd

theorem State.takeJoin_keeps {r₀ : State} {s : State} (f hc seq : Nat) (hk : Keeps r₀ s) : Keeps r₀ (State.takeJoin s f hc seq) := by
  unfold State.takeJoin; try dsimp only
  with_reducible repeat' first | assumption | apply Keeps.ite | apply State.sendSyn_keeps | apply State.modQry_keeps | split | apply Keeps.upd

theorem State.takeRefuse_keeps {r₀ : State} {s : State} (f hc : Nat) (hk : Keeps r₀ s) : Keeps r₀ (State.takeRefuse s f hc) := by
  unfold State.takeRefuse; try dsimp only
  with_reducible repeat' first | assumption | apply Keeps.ite | apply State.count_keeps | apply State.modQry_keeps | split | apply Keeps.upd

theorem State.takeGrow_keeps {r₀ : State} {s : State} (f hc : Nat) (ws : List Word) (hk : Keeps r₀ s) : Keeps r₀ (State.takeGrow s f hc ws) := by
  unfold State.takeGrow; try dsimp only
  with_reducible repeat' first | assumption | apply Keeps.ite | apply State.modQry_keeps | dsimp only | split | apply Keeps.upd

theorem State.takeResult_keeps {r₀ : State} {s : State} (f hc cause : Nat) (hk : Keeps r₀ s) : Keeps r₀ (State.takeResult s f hc cause) := by
  unfold State.takeResult; try dsimp only
  with_reducible repeat' first | assumption | apply Keeps.ite | apply State.modQry_keeps | apply Keeps.upd

theorem State.takeSyndrome_keeps {r₀ : State} {s : State} (fr : Frame) (hk : Keeps r₀ s) : Keeps r₀ (State.takeSyndrome s fr) := by
  unfold State.takeSyndrome; try dsimp only
  with_reducible repeat' first | assumption | apply Keeps.ite | apply State.takeDigest_keeps | apply State.takeJoin_keeps | apply State.takeGrow_keeps | apply State.takeResult_keeps | apply State.takeRefuse_keeps | dsimp only | split

theorem execSyndromeFrame_keeps {r₀ : State} (l : Fin 6) (fr : Frame) {s : State} (hk : Keeps r₀ s) : KeepsR r₀ (execSyndromeFrame l fr s) := by
  unfold execSyndromeFrame; try dsimp only
  with_reducible repeat' first | assumption | apply KeepsR.next | apply KeepsR.ite | apply Keeps.ite | apply State.arrive_keeps | apply State.takeSyndrome_keeps | intro _ | dsimp only | apply Keeps.upd

theorem State.answerBulk_keeps {r₀ : State} {s : State} (dst ty : Nat) (hk : Keeps r₀ s) : Keeps r₀ (State.answerBulk s dst ty) := by
  unfold State.answerBulk; try dsimp only
  with_reducible repeat' first | assumption | apply Keeps.ite | apply State.sendFrame_keeps

theorem State.bxfPump_keeps {r₀ : State} (n : Nat) {s : State} (h : Keeps r₀ s) : Keeps r₀ (State.bxfPump n s) := by
  induction n generalizing s with
  | zero => exact h
  | succ n ih =>
    simp only [State.bxfPump]
    split
    · exact h
    · split
      · exact Keeps.ite (State.bxfEnd_keeps _ h) h
      · split
        · exact State.bxfEnd_keeps _ (State.countReg_keeps _ _ _ _ h)
        · refine Keeps.ite h (ih (State.enqueue_keeps _ _ ?_))
          have hq (a k : Nat) : Keeps r₀ ((s.countLost a k).takeFree).2 := State.takeFree_keeps (State.countLost_keeps a k h)
          exact ⟨(hq _ _).queue, (hq _ _).sram, (hq _ _).bulk, (hq _ _).minGh, (hq _ _).minPa⟩

theorem execBxfGo_keeps {r₀ : State} {s : State} (hk : Keeps r₀ s) : KeepsR r₀ (execBxfGo s) := by
  unfold execBxfGo; try dsimp only
  with_reducible repeat' first | assumption | apply KeepsR.next | apply KeepsR.ite | apply Keeps.ite | apply State.bxfPump_keeps | apply State.put_keeps | dsimp only | apply Keeps.upd

theorem State.takeBulk_keeps {r₀ : State} {s : State} (fr : Frame) (hk : Keeps r₀ s) : Keeps r₀ (State.takeBulk s fr) := by
  unfold State.takeBulk; try dsimp only
  with_reducible repeat' first | assumption | apply Keeps.ite | apply State.bulkWrite_keeps | apply State.answerBulk_keeps | apply State.bxfPump_keeps | apply State.bxfEnd_keeps | dsimp only | split | apply Keeps.upd

theorem execBulkFrame_keeps {r₀ : State} (l : Fin 6) (fr : Frame) {s : State} (hk : Keeps r₀ s) : KeepsR r₀ (execBulkFrame l fr s) := by
  unfold execBulkFrame; try dsimp only
  with_reducible repeat' first | assumption | apply KeepsR.next | apply KeepsR.ite | apply Keeps.ite | apply State.arrive_keeps | apply State.takeBulk_keeps | apply State.answerBulk_keeps | intro _ | dsimp only

theorem State.forwardTime_keeps {r₀ : State} {s : State} (l : Nat) (fr : Frame) (hk : Keeps r₀ s) : Keeps r₀ (State.forwardTime s l fr) := by
  unfold State.forwardTime; try dsimp only
  with_reducible repeat' first | assumption | apply Keeps.ite | apply State.countReg_keeps | apply State.enqueue_keeps | refine Keeps.fold ?_ (fun _ _ _ => ?_) | dsimp only

theorem State.takeTime_keeps {r₀ : State} {s : State} (b : Bool) (hk : Keeps r₀ s) : Keeps r₀ (State.takeTime s b) := by
  unfold State.takeTime; try dsimp only
  with_reducible repeat' first | assumption | apply Keeps.ite | apply State.setDom_keeps | apply Keeps.upd

theorem execTimeFrame_keeps {r₀ : State} (l : Fin 6) (fr : Frame) {s : State} (hk : Keeps r₀ s) : KeepsR r₀ (execTimeFrame l fr s) := by
  unfold execTimeFrame; try dsimp only
  with_reducible repeat' first | assumption | apply KeepsR.next | apply KeepsR.ite | apply Keeps.ite | apply State.invalidFrame_keeps | apply State.takeTime_keeps | apply State.domEstimate_keeps | apply State.forwardTime_keeps | dsimp only

theorem State.markNbr_keeps {r₀ : State} {s : State} (id : Nat) (gone : Bool) (hk : Keeps r₀ s) : Keeps r₀ (State.markNbr s id gone) := by
  unfold State.markNbr; try dsimp only
  with_reducible repeat' first | assumption | apply Keeps.ite | apply State.put_keeps | apply State.modLink_keeps | refine Keeps.fold ?_ (fun _ _ _ => ?_) | dsimp only | apply Keeps.upd

theorem State.skewTry_keeps {r₀ : State} {s : State} (k : Skew) (hk : Keeps r₀ s) : Keeps r₀ (State.skewTry s k) := by
  unfold State.skewTry; try dsimp only
  with_reducible repeat' first | assumption | apply Keeps.ite | apply State.skewDone_keeps | split

theorem State.takeSkewX_keeps {r₀ : State} {s : State} (l src : Nat) (x : SkewStamps) (hk : Keeps r₀ s) : Keeps r₀ (State.takeSkewX s l src x) := by
  unfold State.takeSkewX; try dsimp only
  with_reducible repeat' first | assumption | apply Keeps.ite | apply State.enqueue_keeps | apply State.skewTry_keeps | dsimp only | split | apply Keeps.upd

theorem State.takeSkewDone_keeps {r₀ : State} {s : State} (l : Nat) (x : SkewStamps) (hk : Keeps r₀ s) : Keeps r₀ (State.takeSkewDone s l x) := by
  unfold State.takeSkewDone; try dsimp only
  with_reducible repeat' first | assumption | apply Keeps.ite | apply State.skewTry_keeps | dsimp only | split | apply Keeps.upd

theorem State.takeMgmt_keeps {r₀ : State} {s : State} (l : Nat) (h : BitVec 128) (x : SkewStamps) (hk : Keeps r₀ s) : Keeps r₀ (State.takeMgmt s l h x) := by
  unfold State.takeMgmt; try dsimp only
  with_reducible repeat' first | assumption | apply Keeps.ite | apply State.sysCue_keeps | apply State.faceLost_keeps | apply State.markNbr_keeps | apply State.takeSkewX_keeps | apply State.takeSkewDone_keeps | apply State.countReg_keeps | dsimp only | split

theorem execMgmtFrame_keeps {r₀ s : State} (l : Fin 6) (fr : Frame) (stamps : SkewStamps) (h : Keeps r₀ s) :
    KeepsR r₀ (execMgmtFrame l fr stamps s) := by
  unfold execMgmtFrame
  exact KeepsR.next (State.arrive_keeps h (fun _ hu => State.takeMgmt_keeps _ _ _ hu))

theorem State.sendOne_keeps {r₀ : State} {s0 : State} (l : Nat) (hk : Keeps r₀ s0) : Keeps r₀ (State.sendOne s0 l) := by
  unfold State.sendOne; try dsimp only
  with_reducible repeat' first | assumption | apply Keeps.ite | apply State.fillDec_keeps | apply State.modLink_keeps | dsimp only | split | apply Keeps.upd

theorem execTailWrite_keeps {r₀ : State} (v : BitVec 16) {s : State} (hk : Keeps r₀ s) : KeepsR r₀ (execTailWrite v s) := by
  unfold execTailWrite; try dsimp only
  with_reducible repeat' first | assumption | apply KeepsR.next | apply KeepsR.ite | apply Keeps.ite | apply State.raiseBit_keeps | apply State.put_keeps

theorem State.enqueueCmd_keeps {r₀ : State} {s : State} (op : Nat) (c : Cmd) (hk : Keeps r₀ s) : Keeps r₀ (State.enqueueCmd s op c) := by
  unfold State.enqueueCmd; try dsimp only
  with_reducible repeat' first | assumption | apply Keeps.ite | apply State.complete_keeps | apply State.put_keeps | apply State.skimQ_keeps | intro _ | dsimp only | apply Keeps.upd

theorem execCommandFetch_keeps {r₀ s : State} (entry : List Word) (h : Keeps r₀ s) : KeepsR r₀ (execCommandFetch entry s) := by
  unfold execCommandFetch
  split
  · intro t ht; cases ht
  · apply KeepsR.ite (KeepsR.next h)
    exact KeepsR.next (Keeps.ite (State.doEnterSafe_keeps _ (State.put_keeps _ _ h)) (State.enqueueCmd_keeps _ _ (State.put_keeps _ _ h)))

theorem State.cplVisible_keeps {r₀ : State} {s : State} (hk : Keeps r₀ s) : Keeps r₀ (State.cplVisible s) := by
  unfold State.cplVisible; try dsimp only
  with_reducible repeat' first | assumption | apply Keeps.ite | apply State.msi_keeps

theorem State.ackCpl_keeps {r₀ : State} {s : State} (k : Nat) (hk : Keeps r₀ s) : Keeps r₀ (State.ackCpl s k) := by
  unfold State.ackCpl; try dsimp only
  with_reducible repeat' first | assumption | apply Keeps.ite | apply State.raiseBit_keeps | dsimp only | apply Keeps.upd

theorem State.ackRing_keeps {r₀ : State} {s : State} (n k : Nat) (hk : Keeps r₀ s) : Keeps r₀ (State.ackRing s n k) := by
  unfold State.ackRing; try dsimp only
  with_reducible repeat' first | assumption | apply Keeps.ite | apply State.raiseBit_keeps | dsimp only | apply Keeps.upd

theorem execRingAck_keeps {r₀ : State} (r : RingId) (k : BitVec 28) {s : State} (hk : Keeps r₀ s) : KeepsR r₀ (execRingAck r k s) := by
  unfold execRingAck; try dsimp only
  with_reducible repeat' first | assumption | apply KeepsR.next | apply KeepsR.ite | apply Keeps.ite | apply State.ackCpl_keeps | apply State.ackRing_keeps | split

theorem execRingEnable_keeps {r₀ : State} (r : RingId) {s : State} (hk : Keeps r₀ s) : KeepsR r₀ (execRingEnable r s) := by
  unfold execRingEnable; try dsimp only
  with_reducible repeat' first | assumption | apply KeepsR.next | apply KeepsR.ite | apply Keeps.ite | apply State.raiseBit_keeps | apply State.put_keeps | apply State.cplVisible_keeps | split | apply Keeps.upd

theorem execRr16Post_keeps {r₀ : State} {s : State} (hk : Keeps r₀ s) : KeepsR r₀ (execRr16Post s) := by
  unfold execRr16Post; try dsimp only
  with_reducible repeat' first | assumption | apply KeepsR.next | apply KeepsR.ite | apply Keeps.ite | apply State.ringPush_keeps | split | apply Keeps.upd

theorem execMsixSend_keeps {r₀ : State} (v : Fin 20) {s : State} (hk : Keeps r₀ s) : KeepsR r₀ (execMsixSend v s) := by
  unfold execMsixSend; try dsimp only
  with_reducible repeat' first | assumption | apply KeepsR.next | apply KeepsR.ite | apply Keeps.ite | apply State.elapseTo_keeps | dsimp only | split | apply Keeps.upd

theorem execHostLinkDown_keeps {r₀ : State} {s : State} (hk : Keeps r₀ s) : KeepsR r₀ (execHostLinkDown s) := by
  unfold execHostLinkDown; try dsimp only
  with_reducible repeat' first | assumption | apply KeepsR.next | apply KeepsR.ite | apply Keeps.ite | apply State.put_keeps | refine Keeps.fold ?_ (fun _ _ _ => ?_) | dsimp only | apply Keeps.upd

theorem execHostLinkUp_keeps {r₀ : State} (cxl : Bool) (speed : BitVec 2) (width : Fin 9) {s : State} (hk : Keeps r₀ s) : KeepsR r₀ (execHostLinkUp cxl speed width s) := by
  unfold execHostLinkUp; try dsimp only
  with_reducible repeat' first | assumption | apply KeepsR.next | apply KeepsR.ite | apply Keeps.ite | apply State.put_keeps

theorem execIdeFailure_keeps {r₀ : State} (cxl : Bool) {s : State} (hk : Keeps r₀ s) : KeepsR r₀ (execIdeFailure cxl s) := by
  unfold execIdeFailure; try dsimp only
  with_reducible repeat' first | assumption | apply KeepsR.next | apply KeepsR.ite | apply Keeps.ite | apply State.put_keeps | apply State.raiseBit_keeps | apply State.msi_keeps | apply State.logEntry_keeps | dsimp only | apply Keeps.upd

theorem execSpdmRequest_keeps {r₀ : State} (q : SpdmReq) {s : State} (hk : Keeps r₀ s) : KeepsR r₀ (execSpdmRequest q s) := by
  unfold execSpdmRequest; try dsimp only
  with_reducible repeat' first | assumption | apply KeepsR.next | apply KeepsR.ite | apply Keeps.ite | apply State.raiseBit_keeps | apply State.cplVisible_keeps | dsimp only | split | apply Keeps.upd

theorem execEthCtrlWrite_keeps {r₀ : State} (v : Word) {s : State} (hk : Keeps r₀ s) : KeepsR r₀ (execEthCtrlWrite v s) := by
  unfold execEthCtrlWrite; try dsimp only
  with_reducible repeat' first | assumption | apply KeepsR.next | apply KeepsR.ite | apply Keeps.ite | apply State.writeOwn_keeps | apply State.put_keeps | apply State.sourceLost_keeps | refine Keeps.fold ?_ (fun _ _ _ => ?_) | dsimp only

theorem State.readSensor_keeps {r₀ : State} {s : State} (x : SensorReading × Nat) (hk : Keeps r₀ s) : Keeps r₀ (State.readSensor s x) := by
  unfold State.readSensor; try dsimp only
  with_reducible repeat' first | assumption | apply Keeps.ite | apply State.put_keeps | apply State.raiseBit_keeps | apply State.logEntry_keeps | dsimp only | split | apply Keeps.upd

theorem State.judgeZone_keeps {r₀ : State} {s : State} (z : Nat) (hk : Keeps r₀ s) : Keeps r₀ (State.judgeZone s z) := by
  unfold State.judgeZone; try dsimp only
  with_reducible repeat' first | assumption | apply Keeps.ite | apply step_keeps | apply State.judge_keeps | apply State.put_keeps | refine Keeps.fold ?_ (fun _ _ _ => ?_) | dsimp only | apply Keeps.upd

theorem State.readMonitor_keeps {r₀ : State} {s : State} (x : Int × Nat) (hk : Keeps r₀ s) : Keeps r₀ (State.readMonitor s x) := by
  unfold State.readMonitor; try dsimp only
  with_reducible repeat' first | assumption | apply Keeps.ite | apply State.put_keeps | apply State.raiseBit_keeps | dsimp only | apply Keeps.upd

theorem State.readPower_keeps {r₀ : State} {s : State} (hk : Keeps r₀ s) : Keeps r₀ (State.readPower s) := by
  unfold State.readPower; try dsimp only
  with_reducible repeat' first | assumption | apply Keeps.ite | apply State.takeFree_keeps | apply State.put_keeps | dsimp only

theorem State.hkpShow_keeps {r₀ : State} {s : State} (hk : Keeps r₀ s) : Keeps r₀ (State.hkpShow s) := by
  unfold State.hkpShow; try dsimp only
  with_reducible repeat' first | assumption | apply Keeps.ite | apply State.put_keeps | dsimp only

theorem State.hkpCauses_keeps {r₀ s : State} (old : State) (h : Keeps r₀ s) : Keeps r₀ (State.hkpCauses old s) := by
  unfold State.hkpCauses
  dsimp only
  repeat' first | assumption | apply Keeps.ite | apply State.safeCause_keeps | apply Keeps.upd | apply State.sysCue_keeps

theorem State.critTrip_keeps {r₀ s : State} (z : Nat) (h : Keeps r₀ s) : Keeps r₀ (s.critTrip z) := by
  unfold State.critTrip
  extract_lets held tear f j s1
  have h1 : Keeps r₀ s1 := by
    apply Keeps.mkF h
    split
    · exact Flash.setRegion_min _ _ _
    · exact ⟨Nat.le_refl _, Nat.le_refl _⟩
  exact State.put_keeps _ _ (State.put_keeps _ _ (State.put_keeps _ _ (State.put_keeps _ _ h1)))

theorem State.hkpRead_keeps {r₀ : State} {s : State} (sensors : List SensorReading) (monitors : List Int) (hk : Keeps r₀ s) : Keeps r₀ (State.hkpRead s sensors monitors) := by
  unfold State.hkpRead; try dsimp only
  with_reducible repeat' first | assumption | apply Keeps.ite | apply State.readSensor_keeps | apply State.judgeZone_keeps | apply State.readMonitor_keeps | apply State.readPower_keeps | apply State.wr_keeps | apply State.hkpShow_keeps | refine Keeps.fold ?_ (fun _ _ _ => ?_) | dsimp only | apply Keeps.upd

theorem State.roundEnd_keeps {r₀ : State} {s : State} (hk : Keeps r₀ s) : Keeps r₀ (State.roundEnd s) := by
  unfold State.roundEnd; try dsimp only
  with_reducible repeat' first | assumption | apply Keeps.ite | apply State.elapseTo_keeps | apply State.advanceTo_keeps | apply Keeps.upd

theorem execHousekeepingRound_keeps {r₀ : State} (sensors : List SensorReading) (monitors : List Int) {s : State} (hk : Keeps r₀ s) : KeepsR r₀ (execHousekeepingRound sensors monitors s) := by
  unfold execHousekeepingRound; try dsimp only
  with_reducible repeat' first | assumption | apply KeepsR.next | apply KeepsR.ite | apply Keeps.ite | apply State.roundEnd_keeps | apply State.hkpCauses_keeps | apply State.hkpRead_keeps | apply State.elapseTo_keeps | apply State.critTrip_keeps | dsimp only | split

theorem execFlashRailDrop_keeps {r₀ : State} {s : State} (hk : Keeps r₀ s) : KeepsR r₀ (execFlashRailDrop s) := by
  unfold execFlashRailDrop; try dsimp only
  with_reducible repeat' first | assumption | apply KeepsR.next | apply KeepsR.ite | apply Keeps.ite | apply Keeps.upd

theorem State.intOp_keeps {r₀ s : State} {e : Nat} {i : Bool} {f : JWord} {F : Form} {cost : Nat} {op : Word → Word → Word}
    (h : Keeps r₀ s) : KeepsR r₀ (s.intOp e i f F cost op) := by
  unfold State.intOp
  exact State.issuePlain_keeps h (fun u g hu => State.setEng_keeps _ _ hu)

theorem execLi_keeps {r₀ : State} (e : Fin 1024) (f : JWord) {s : State} (hk : Keeps r₀ s) : KeepsR r₀ (execLi e f s) := by
  unfold execLi; try dsimp only
  with_reducible repeat' first | assumption | apply KeepsR.next | apply KeepsR.ite | apply Keeps.ite | apply Keeps.optIte | apply Keeps.optSome | apply Keeps.optNone | apply State.issuePlain_keeps | apply State.setEng_keeps | apply State.setReg_keeps | intro _ | dsimp only | apply Keeps.upd

theorem execAdd_keeps {r₀ : State} (e : Fin 1024) (i : Bool) (f : JWord) {s : State} (hk : Keeps r₀ s) : KeepsR r₀ (execAdd e i f s) := by
  unfold execAdd; try dsimp only
  with_reducible repeat' first | assumption | apply KeepsR.next | apply KeepsR.ite | apply Keeps.ite | apply State.intOp_keeps

theorem execSub_keeps {r₀ : State} (e : Fin 1024) (i : Bool) (f : JWord) {s : State} (hk : Keeps r₀ s) : KeepsR r₀ (execSub e i f s) := by
  unfold execSub; try dsimp only
  with_reducible repeat' first | assumption | apply KeepsR.next | apply KeepsR.ite | apply Keeps.ite | apply State.intOp_keeps

theorem execAnd_keeps {r₀ : State} (e : Fin 1024) (i : Bool) (f : JWord) {s : State} (hk : Keeps r₀ s) : KeepsR r₀ (execAnd e i f s) := by
  unfold execAnd; try dsimp only
  with_reducible repeat' first | assumption | apply KeepsR.next | apply KeepsR.ite | apply Keeps.ite | apply State.intOp_keeps

theorem execOr_keeps {r₀ : State} (e : Fin 1024) (i : Bool) (f : JWord) {s : State} (hk : Keeps r₀ s) : KeepsR r₀ (execOr e i f s) := by
  unfold execOr; try dsimp only
  with_reducible repeat' first | assumption | apply KeepsR.next | apply KeepsR.ite | apply Keeps.ite | apply State.intOp_keeps

theorem execXor_keeps {r₀ : State} (e : Fin 1024) (i : Bool) (f : JWord) {s : State} (hk : Keeps r₀ s) : KeepsR r₀ (execXor e i f s) := by
  unfold execXor; try dsimp only
  with_reducible repeat' first | assumption | apply KeepsR.next | apply KeepsR.ite | apply Keeps.ite | apply State.intOp_keeps

theorem execShl_keeps {r₀ : State} (e : Fin 1024) (i : Bool) (f : JWord) {s : State} (hk : Keeps r₀ s) : KeepsR r₀ (execShl e i f s) := by
  unfold execShl; try dsimp only
  with_reducible repeat' first | assumption | apply KeepsR.next | apply KeepsR.ite | apply Keeps.ite | apply State.intOp_keeps

theorem execShr_keeps {r₀ : State} (e : Fin 1024) (i : Bool) (f : JWord) {s : State} (hk : Keeps r₀ s) : KeepsR r₀ (execShr e i f s) := by
  unfold execShr; try dsimp only
  with_reducible repeat' first | assumption | apply KeepsR.next | apply KeepsR.ite | apply Keeps.ite | apply State.intOp_keeps

theorem execSar_keeps {r₀ : State} (e : Fin 1024) (i : Bool) (f : JWord) {s : State} (hk : Keeps r₀ s) : KeepsR r₀ (execSar e i f s) := by
  unfold execSar; try dsimp only
  with_reducible repeat' first | assumption | apply KeepsR.next | apply KeepsR.ite | apply Keeps.ite | apply State.intOp_keeps

theorem execMul_keeps {r₀ : State} (e : Fin 1024) (i : Bool) (f : JWord) {s : State} (hk : Keeps r₀ s) : KeepsR r₀ (execMul e i f s) := by
  unfold execMul; try dsimp only
  with_reducible repeat' first | assumption | apply KeepsR.next | apply KeepsR.ite | apply Keeps.ite | apply State.intOp_keeps

theorem execCmp_keeps {r₀ : State} (e : Fin 1024) (i : Bool) (f : JWord) {s : State} (hk : Keeps r₀ s) : KeepsR r₀ (execCmp e i f s) := by
  unfold execCmp; try dsimp only
  with_reducible repeat' first | assumption | apply KeepsR.next | apply KeepsR.ite | apply Keeps.ite | apply Keeps.optIte | apply Keeps.optSome | apply Keeps.optNone | apply State.issuePlain_keeps | apply State.setEng_keeps | intro _ | dsimp only | apply Keeps.upd

theorem execSel_keeps {r₀ : State} (e : Fin 1024) (f : JWord) {s : State} (hk : Keeps r₀ s) : KeepsR r₀ (execSel e f s) := by
  unfold execSel; try dsimp only
  with_reducible repeat' first | assumption | apply KeepsR.next | apply KeepsR.ite | apply Keeps.ite | apply Keeps.optIte | apply Keeps.optSome | apply Keeps.optNone | apply State.issuePlain_keeps | apply State.setEng_keeps | apply State.setReg_keeps | intro _ | dsimp only | apply Keeps.upd

theorem State.touchGroup_keeps {r₀ : State} {s : State} (a : Nat) (hk : Keeps r₀ s) : Keeps r₀ (State.touchGroup s a) := by
  unfold State.touchGroup; try dsimp only
  with_reducible repeat' first | assumption | apply Keeps.ite | apply State.advanceTo_keeps | dsimp only | split | apply Keeps.upd

theorem execHdmAccess_keeps {r₀ : State} (write : Bool) (off : Nat) (data : List Byte) {s : State} (hk : Keeps r₀ s) : KeepsR r₀ (execHdmAccess write off data s) := by
  unfold execHdmAccess; try dsimp only
  with_reducible repeat' first | assumption | apply KeepsR.next | apply KeepsR.ite | apply Keeps.ite | apply State.touchGroup_keeps | apply State.countReg_keeps | apply State.bulkWrite_keeps | dsimp only | apply Keeps.upd

theorem execBar4Access_keeps {r₀ : State} (write : Bool) (off : BitVec 32) (data : List Byte) {s : State} (hk : Keeps r₀ s) : KeepsR r₀ (execBar4Access write off data s) := by
  unfold execBar4Access; try dsimp only
  with_reducible repeat' first | assumption | apply KeepsR.next | apply KeepsR.ite | apply Keeps.ite | apply State.touchGroup_keeps | apply State.countLost_keeps | apply State.bulkWrite_keeps | dsimp only | apply Keeps.upd

theorem execBulkRequest_keeps {r₀ : State} (_src : BulkSrc) (write : Bool) (off : Nat) (data : List Byte) (ecc : EccEvent) {s : State} (hk : Keeps r₀ s) : KeepsR r₀ (execBulkRequest _src write off data ecc s) := by
  unfold execBulkRequest; try dsimp only
  with_reducible repeat' first | assumption | apply KeepsR.next | apply KeepsR.ite | apply Keeps.ite | apply State.touchGroup_keeps | apply State.countReg_keeps | apply State.uncorrectable_keeps | apply State.bulkWrite_keeps | dsimp only | split | apply Keeps.upd

theorem execMemErrorInterval_keeps {r₀ : State} {s : State} (hk : Keeps r₀ s) : KeepsR r₀ (execMemErrorInterval s) := by
  unfold execMemErrorInterval; try dsimp only
  with_reducible repeat' first | assumption | apply KeepsR.next | apply KeepsR.ite | apply Keeps.ite | apply State.toInterval_keeps | dsimp only | apply Keeps.upd

theorem execRefresh_keeps {r₀ : State} {s : State} (hk : Keeps r₀ s) : KeepsR r₀ (execRefresh s) := by
  unfold execRefresh; try dsimp only
  with_reducible repeat' first | assumption | apply KeepsR.next | apply KeepsR.ite | apply Keeps.ite | apply State.toInterval_keeps | apply State.advanceTo_keeps | dsimp only | apply Keeps.upd

theorem State.remeasured_keeps {r₀ : State} {s : State} (c : Nat) (hk : Keeps r₀ s) : Keeps r₀ (State.remeasured s c) := by
  unfold State.remeasured; try dsimp only
  with_reducible repeat' first | assumption | apply Keeps.ite | apply State.elapseTo_keeps | dsimp only | apply Keeps.upd

theorem execMarginTrack_keeps {r₀ : State} (c : Fin 16) (rd0 rd1 wr : Int) (margin : BitVec 7) {s0 : State} (hk : Keeps r₀ s0) : KeepsR r₀ (execMarginTrack c rd0 rd1 wr margin s0) := by
  unfold execMarginTrack; try dsimp only
  with_reducible repeat' first | assumption | apply KeepsR.next | apply KeepsR.ite | apply Keeps.ite | apply State.remeasured_keeps | apply State.put_keeps | apply State.wr_keeps | apply State.groupLeaves_keeps | dsimp only

theorem execScrub_keeps {r₀ : State} (off : Nat) (ecc : EccEvent) {s : State} (hk : Keeps r₀ s) : KeepsR r₀ (execScrub off ecc s) := by
  unfold execScrub; try dsimp only
  with_reducible repeat' first | assumption | apply KeepsR.next | apply KeepsR.ite | apply Keeps.ite | apply State.countReg_keeps | apply State.uncorrectable_keeps | split

theorem execIdleSelfRefresh_keeps {r₀ : State} (g : Fin 4) {s : State} (hk : Keeps r₀ s) : KeepsR r₀ (execIdleSelfRefresh g s) := by
  unfold execIdleSelfRefresh; try dsimp only
  with_reducible repeat' first | assumption | apply KeepsR.next | apply KeepsR.ite | apply Keeps.ite | apply State.elapseTo_keeps | dsimp only | apply Keeps.upd

theorem execRowThreshold_keeps {r₀ : State} (src : BulkSrc) (_channel _bank : Fin 16) (_row : BitVec 18) {s : State} (hk : Keeps r₀ s) : KeepsR r₀ (execRowThreshold src _channel _bank _row s) := by
  unfold execRowThreshold; try dsimp only
  with_reducible repeat' first | assumption | apply KeepsR.next | apply KeepsR.ite | apply Keeps.ite | apply State.countReg_keeps | dsimp only | apply Keeps.upd

theorem execCreditHoldEnd_keeps {r₀ : State} (src : BulkSrc) {s : State} (hk : Keeps r₀ s) : KeepsR r₀ (execCreditHoldEnd src s) := by
  unfold execCreditHoldEnd; try dsimp only
  with_reducible repeat' first | assumption | apply KeepsR.next | apply KeepsR.ite | apply Keeps.ite | apply State.elapseTo_keeps | dsimp only | split | apply Keeps.upd

theorem execStackTempReport_keeps {r₀ : State} (stack : Fin 4) (hot : Bool) {s : State} (hk : Keeps r₀ s) : KeepsR r₀ (execStackTempReport stack hot s) := by
  unfold execStackTempReport; try dsimp only
  with_reducible repeat' first | assumption | apply KeepsR.next | apply KeepsR.ite | apply Keeps.ite | apply State.put_keeps | dsimp only | apply Keeps.upd

theorem execMute_keeps {r₀ : State} (o : Fin 80) (v : Bool) {s : State} (hk : Keeps r₀ s) : KeepsR r₀ (execMute o v s) := by
  unfold execMute; try dsimp only
  with_reducible repeat' first | assumption | apply KeepsR.next | apply KeepsR.ite | apply Keeps.ite | apply State.stageWrite_keeps | apply State.put_keeps

theorem execCueMutedRelease_keeps {r₀ : State} (o : Fin 80) {s : State} (hk : Keeps r₀ s) : KeepsR r₀ (execCueMutedRelease o s) := by
  unfold execCueMutedRelease; try dsimp only
  with_reducible repeat' first | assumption | apply KeepsR.next | apply KeepsR.ite | apply Keeps.ite | apply State.put_keeps

theorem execAttWrite_keeps {r₀ : State} (o : Fin 80) (v : BitVec 6) {s : State} (hk : Keeps r₀ s) : KeepsR r₀ (execAttWrite o v s) := by
  unfold execAttWrite; try dsimp only
  with_reducible repeat' first | assumption | apply KeepsR.next | apply KeepsR.ite | apply Keeps.ite | apply State.put_keeps | apply State.run_keeps | apply State.raiseBit_keeps | dsimp only

theorem State.storeTrim_keeps {r₀ : State} {s : State} (valid eff : Fld) (hk : Keeps r₀ s) : Keeps r₀ (State.storeTrim s valid eff) := by
  unfold State.storeTrim; try dsimp only
  with_reducible repeat' first | assumption | apply Keeps.ite | apply State.takeFree_keeps | apply State.put_keeps | dsimp only

theorem State.calPins_keeps {r₀ : State} {s : State} (hk : Keeps r₀ s) : Keeps r₀ (State.calPins s) := by
  unfold State.calPins; try dsimp only
  with_reducible repeat' first | assumption | apply Keeps.ite | apply State.storeTrim_keeps | refine Keeps.fold ?_ (fun _ _ _ => ?_) | dsimp only | split

theorem execSelfCal_keeps {r₀ : State} (c : Cmd) {s : State} (hk : Keeps r₀ s) : KeepsR r₀ (execSelfCal c s) := by
  unfold execSelfCal; try dsimp only
  with_reducible repeat' first | assumption | apply KeepsR.next | apply KeepsR.ite | apply Keeps.ite | apply State.admin_keeps | apply State.calPins_keeps | apply State.complete_keeps | intro _ | dsimp only

theorem State.park_keeps {r₀ : State} {s : State} (i : Nat) (hk : Keeps r₀ s) : Keeps r₀ (State.park s i) := by
  unfold State.park; try dsimp only
  with_reducible repeat' first | assumption | apply Keeps.ite | apply State.raiseBit_keeps | apply State.startRamp_keeps | dsimp only

theorem execFluxFault_keeps {r₀ : State} (i : Fin 256) (since delivered : Nat) {s0 : State} (hk : Keeps r₀ s0) : KeepsR r₀ (execFluxFault i since delivered s0) := by
  unfold execFluxFault; try dsimp only
  with_reducible repeat' first | assumption | apply KeepsR.next | apply KeepsR.ite | apply Keeps.ite | apply State.advanceTo_keeps | apply State.setFlx_keeps | apply State.settle_keeps | apply State.raiseBit_keeps | apply State.count_keeps | apply State.logEntry_keeps | apply State.dieCue_keeps | apply State.park_keeps | apply State.safeCause_keeps | dsimp only | split | apply Keeps.upd

theorem execQueueError_keeps {r₀ : State} (i : Fin 256) {s : State} (hk : Keeps r₀ s) : KeepsR r₀ (execQueueError i s) := by
  unfold execQueueError; try dsimp only
  with_reducible repeat' first | assumption | apply KeepsR.next | apply KeepsR.ite | apply Keeps.ite | apply State.raiseBit_keeps | apply State.logEntry_keeps | apply State.park_keeps | dsimp only

theorem execRampEnd_keeps {r₀ : State} (i : Fin 256) {s : State} (hk : Keeps r₀ s) : KeepsR r₀ (execRampEnd i s) := by
  unfold execRampEnd; try dsimp only
  with_reducible repeat' first | assumption | apply KeepsR.next | apply KeepsR.ite | apply Keeps.ite | apply State.advanceTo_keeps | apply State.flxOnOff_keeps | apply State.put_keeps | dsimp only | split

theorem State.writeEng_keeps {r₀ : State} {s : State} (r : Reg) (v : Word) (hk : Keeps r₀ s) : Keeps r₀ (State.writeEng s r v) := by
  unfold State.writeEng; try dsimp only
  with_reducible repeat' first | assumption | apply Keeps.ite | apply State.meSeen_keeps | apply State.put_keeps | apply State.engFault_keeps | apply State.setReg_keeps | dsimp only | split | apply Keeps.upd

theorem State.writeAcc_keeps {r₀ s : State} (at_ : State) (r : Reg) (v : Word) (f : FieldInfo) (h : Keeps r₀ s) :
    Keeps r₀ (State.writeAcc at_ r v s f) := by
  unfold State.writeAcc
  dsimp only
  split <;> repeat' first | assumption | apply Keeps.ite | apply State.writeField_keeps | apply State.setReg_keeps | apply Keeps.upd

theorem State.srcChanged_keeps {r₀ s : State} (old : State) (h : Keeps r₀ s) : Keeps r₀ (State.srcChanged old s) := by
  unfold State.srcChanged
  exact Keeps.fold h (fun st x hs => Keeps.ite hs (State.sourceLost_keeps _ hs))

theorem State.writeReg_keeps {r₀ : State} {s : State} (r : Reg) (v : Word) (hk : Keeps r₀ s) : Keeps r₀ (State.writeReg s r v) := by
  unfold State.writeReg; try dsimp only
  with_reducible repeat' first | assumption | apply Keeps.ite | apply State.judge_keeps | apply State.writeAcc_keeps | apply State.writeEng_keeps | apply State.stageWrite_keeps | apply State.raiseBit_keeps | apply State.srcChanged_keeps | refine Keeps.fold ?_ (fun _ _ _ => ?_) | dsimp only

theorem State.writeBar0_keeps {r₀ : State} {s : State} (a : Nat) (v : Word) (hk : Keeps r₀ s) : Keeps r₀ (State.writeBar0 s a v) := by
  unfold State.writeBar0; try dsimp only
  with_reducible repeat' first | assumption | apply Keeps.ite | apply State.writeReg_keeps | split

theorem execRegisterWrite_keeps {r₀ : State} (addr : BitVec 24) (nbytes : Nat) (v : BitVec 64) {s : State} (hk : Keeps r₀ s) : KeepsR r₀ (execRegisterWrite addr nbytes v s) := by
  unfold execRegisterWrite; try dsimp only
  with_reducible repeat' first | assumption | apply KeepsR.next | apply KeepsR.ite | apply Keeps.ite | apply State.writeBar0_keeps | dsimp only

theorem State.writeEngMem_keeps {r₀ : State} {s : State} (a : Nat) (w : Word) (hk : Keeps r₀ s) : Keeps r₀ (State.writeEngMem s a w) := by
  unfold State.writeEngMem; try dsimp only
  with_reducible repeat' first | assumption | apply Keeps.ite | apply State.meSeen_keeps | apply State.clearUpsets_keeps | apply State.portWrite_keeps | apply Memory.wf_memSetWord | dsimp only | split | apply Keeps.upd | refine Keeps.mkS ?_ (fun w => ?_)

theorem execEngineMemoryWrite_keeps {r₀ : State} (off : BitVec 29) (words : List Word) {s : State} (hk : Keeps r₀ s) : KeepsR r₀ (execEngineMemoryWrite off words s) := by
  unfold execEngineMemoryWrite; try dsimp only
  with_reducible repeat' first | assumption | apply KeepsR.next | apply KeepsR.ite | apply Keeps.ite | apply State.writeEngMem_keeps | refine Keeps.fold ?_ (fun _ _ _ => ?_) | dsimp only

theorem State.dropTrim_keeps {r₀ : State} {s : State} (line : Option Nat) (hk : Keeps r₀ s) : Keeps r₀ (State.dropTrim s line) := by
  unfold State.dropTrim; try dsimp only
  with_reducible repeat' first | assumption | apply Keeps.ite | apply State.put_keeps | split

theorem execPinCfgWrite_keeps {r₀ : State} (p : Fin 64) (v : Word) {s : State} (hk : Keeps r₀ s) : KeepsR r₀ (execPinCfgWrite p v s) := by
  unfold execPinCfgWrite; try dsimp only
  with_reducible repeat' first | assumption | apply KeepsR.next | apply KeepsR.ite | apply Keeps.ite | apply State.raiseBit_keeps | apply State.writeOwn_keeps | apply State.dropTrim_keeps | apply State.put_keeps | dsimp only

theorem execVectorWrite_keeps {r₀ : State} (off : BitVec 21) (words : List Word) {s : State} (hk : Keeps r₀ s) : KeepsR r₀ (execVectorWrite off words s) := by
  unfold execVectorWrite; try dsimp only
  with_reducible repeat' first | assumption | apply KeepsR.next | apply KeepsR.ite | apply Keeps.ite | apply State.raiseBit_keeps | apply Memory.wf_memSetWords | apply Keeps.upd | refine Keeps.mkS ?_ (fun w => ?_)

theorem State.startPattern_keeps {r₀ : State} {s : State} (next goCue : Option Nat) (hk : Keeps r₀ s) : Keeps r₀ (State.startPattern s next goCue) := by
  unfold State.startPattern; try dsimp only
  with_reducible repeat' first | assumption | apply Keeps.ite | apply State.wr_keeps | dsimp only | apply Keeps.upd

theorem execMvpGo_keeps {r₀ : State} (v : Word) {s : State} (hk : Keeps r₀ s) : KeepsR r₀ (execMvpGo v s) := by
  unfold execMvpGo; try dsimp only
  with_reducible repeat' first | assumption | apply KeepsR.next | apply KeepsR.ite | apply Keeps.ite | apply State.run_keeps | apply State.put_keeps | apply State.raiseBit_keeps | apply State.startPattern_keeps | dsimp only

theorem State.stopAtBoundary_keeps {r₀ : State} {s : State} (b : Nat) (hk : Keeps r₀ s) : Keeps r₀ (State.stopAtBoundary s b) := by
  unfold State.stopAtBoundary; try dsimp only
  with_reducible repeat' first | assumption | apply Keeps.ite | split | apply Keeps.upd

theorem execMvpStop_keeps {r₀ : State} {s : State} (hk : Keeps r₀ s) : KeepsR r₀ (execMvpStop s) := by
  unfold execMvpStop; try dsimp only
  with_reducible repeat' first | assumption | apply KeepsR.next | apply KeepsR.ite | apply Keeps.ite | apply State.stopAtBoundary_keeps | split | apply Keeps.upd

theorem State.vecFail_keeps {r₀ : State} {s : State} (pins : List Nat) (t ts t0 : Nat) (hk : Keeps r₀ s) : Keeps r₀ (State.vecFail s pins t ts t0) := by
  unfold State.vecFail; try dsimp only
  with_reducible repeat' first | assumption | apply Keeps.ite | apply State.countReg_keeps | apply State.raiseAt_keeps | apply State.raiseBit_keeps | apply State.stopAtBoundary_keeps | dsimp only | apply Keeps.upd

theorem execVectorPeriod_keeps {r₀ : State} (low high : BitVec 64) {s : State} (hk : Keeps r₀ s) : KeepsR r₀ (execVectorPeriod low high s) := by
  unfold execVectorPeriod; try dsimp only
  with_reducible repeat' first | assumption | apply KeepsR.next | apply KeepsR.ite | apply Keeps.ite | apply State.advanceTo_keeps | apply State.raiseBit_keeps | apply State.vecFail_keeps | refine Keeps.fold ?_ (fun _ _ _ => ?_) | dsimp only | split | apply Keeps.upd

theorem execMvpFailPop_keeps {r₀ : State} {s : State} (hk : Keeps r₀ s) : KeepsR r₀ (execMvpFailPop s) := by
  unfold execMvpFailPop; try dsimp only
  with_reducible repeat' first | assumption | apply KeepsR.next | apply KeepsR.ite | apply Keeps.ite | apply Keeps.upd

theorem exec_keeps {r₀ s : State} (i : Instr) (h : Keeps r₀ s) : KeepsR r₀ (exec i s) :=
  match i with
  | .getStatus c => execGetStatus_keeps c h
  | .readLog c => execReadLog_keeps c h
  | .enterStandby c => execEnterStandby_keeps c h
  | .enterDormant c => execEnterDormant_keeps c h
  | .enterCalibrate c => execEnterCalibrate_keeps c h
  | .arm c => execArm_keeps c h
  | .start c => execStart_keeps c h
  | .stop c => execStop_keeps c h
  | .enterSafe c => execEnterSafe_keeps c h
  | .enterService c => execEnterService_keeps c h
  | .loadEngines c img => execLoadEngines_keeps c img h
  | .loadSegments c img => execLoadSegments_keeps c img h
  | .configCue c img => execConfigCue_keeps c img h
  | .configQuarry c img => execConfigQuarry_keeps c img h
  | .commit c => execCommit_keeps c h
  | .acqArm c => execAcqArm_keeps c h
  | .acqDisarm c => execAcqDisarm_keeps c h
  | .selfCal c => execSelfCal_keeps c h
  | .skewCal c => execSkewCal_keeps c h
  | .linkConfig c => execLinkConfig_keeps c h
  | .linkReset c => execLinkReset_keeps c h
  | .spareEngine c => execSpareEngine_keeps c h
  | .spareLane c => execSpareLane_keeps c h
  | .memRepair c => execMemRepair_keeps c h
  | .flashWrite c img => execFlashWrite_keeps c img h
  | .fwActivate c => execFwActivate_keeps c h
  | .ucsLoadOpen c img => execUcsLoadOpen_keeps c img h
  | .setThresholds c => execSetThresholds_keeps c h
  | .readTelemetry c => execReadTelemetry_keeps c h
  | .callerRestart c => execCallerRestart_keeps c h
  | .nop e f => execNop_keeps e f h
  | .jmp e f => execJmp_keeps e f h
  | .jmpc e f => execJmpc_keeps e f h
  | .call e f => execCall_keeps e f h
  | .ret e f => execRet_keeps e f h
  | .loop e f => execLoop_keeps e f h
  | .endl e f => execEndl_keeps e f h
  | .halt e f => execHalt_keeps e f h
  | .syncw e f => execSyncw_keeps e f h
  | .waitc e f => execWaitc_keeps e f h
  | .fire e f => execFire_keeps e f h
  | .trap e f => execTrap_keeps e f h
  | .uop e f => execUop_keeps e f h
  | .li e f => execLi_keeps e f h
  | .add e im f => execAdd_keeps e im f h
  | .sub e im f => execSub_keeps e im f h
  | .and e im f => execAnd_keeps e im f h
  | .or e im f => execOr_keeps e im f h
  | .xor e im f => execXor_keeps e im f h
  | .shl e im f => execShl_keeps e im f h
  | .shr e im f => execShr_keeps e im f h
  | .sar e im f => execSar_keeps e im f h
  | .mul e im f => execMul_keeps e im f h
  | .cmp e im f => execCmp_keeps e im f h
  | .sel e f => execSel_keeps e f h
  | .ld e f => execLd_keeps e f h
  | .st e f => execSt_keeps e f h
  | .ldv e f => execLdv_keeps e f h
  | .ldf e f => execLdf_keeps e f h
  | .bdma e f => execBdma_keeps e f h
  | .csrr e f => execCsrr_keeps e f h
  | .csrw e f => execCsrw_keeps e f h
  | .rdtt e f => execRdtt_keeps e f h
  | .atc e f => execAtc_keeps e f h
  | .adv e f => execAdv_keeps e f h
  | .play e f => execPlay_keeps e f h
  | .playf e f => execPlayf_keeps e f h
  | .hold e f => execHold_keeps e f h
  | .setf e f => execSetf_keeps e f h
  | .shph e f => execShph_keeps e f h
  | .setph e f => execSetph_keeps e f h
  | .seta e f => execSeta_keeps e f h
  | .tset e f => execTset_keeps e f h
  | .mark e f => execMark_keeps e f h
  | .part e f => execPart_keeps e f h
  | .flev e f => execFlev_keeps e f h
  | .wopen e f => execWopen_keeps e f h
  | .mac e f => execMac_keeps e f h
  | .macx e f => execMacx_keeps e f h
  | .clra e f => execClra_keeps e f h
  | .rda e f => execRda_keeps e f h
  | .cbset e f => execCbset_keeps e f h
  | .disc e f => execDisc_keeps e f h
  | .pubv e f => execPubv_keeps e f h
  | .pubs e f => execPubs_keeps e f h
  | .hist e f => execHist_keeps e f h
  | .recd e f => execRecd_keeps e f h
  | .routineResume e => execRoutineResume_keeps e h
  | .effectLand e => execEffectLand_keeps e h
  | .forkDeadline e => execForkDeadline_keeps e h
  | .jumpTaken t => execJumpTaken_keeps t h
  | .syncwEnd e => execSyncwEnd_keeps e h
  | .waitcTimeout e => execWaitcTimeout_keeps e h
  | .accumulationComplete e => execAccumulationComplete_keeps e h
  | .bdmaComplete e => execBdmaComplete_keeps e h
  | .engHalt n => execEngHalt_keeps n h
  | .runStart => execRunStart_keeps h
  | .stopTime => execStopTime_keeps h
  | .runComplete => execRunComplete_keeps h
  | .transitionEnd r => execTransitionEnd_keeps r h
  | .safeReq => execSafeReq_keeps h
  | .wake => execWake_keeps h
  | .glbReset key railsOk => execGlbReset_keeps key railsOk h
  | .resetN railsOk => execResetN_keeps railsOk h
  | .powerOn straps railsOk => execPowerOn_keeps straps railsOk h
  | .railRetry railsOk => execRailRetry_keeps railsOk h
  | .bootComplete r => execBootComplete_keeps r h
  | .crossingSlip die => execCrossingSlip_keeps die h
  | .syncEdge => execSyncEdge_keeps h
  | .epochArm => execEpochArm_keeps h
  | .snapTake => execSnapTake_keeps h
  | .loadWt => execLoadWt_keeps h
  | .refLoss refB => execRefLoss_keeps refB h
  | .refMeasure refB hz edge => execRefMeasure_keeps refB hz edge h
  | .refRevert => execRefRevert_keeps h
  | .refModeWrite mode edge => execRefModeWrite_keeps mode edge h
  | .holdoverUpdate => execHoldoverUpdate_keeps h
  | .servoUpdate => execServoUpdate_keeps h
  | .timeFrameSend domB => execTimeFrameSend_keeps domB h
  | .ptpMessage m => execPtpMessage_keeps m h
  | .trimWrite t => execTrimWrite_keeps t h
  | .trimResettleDone => execTrimResettleDone_keeps h
  | .skewCalTimeout => execSkewCalTimeout_keeps h
  | .mute o v => execMute_keeps o v h
  | .cueMutedRelease o => execCueMutedRelease_keeps o h
  | .attWrite o v => execAttWrite_keeps o v h
  | .descriptorWrite o d w0 w1 => execDescriptorWrite_keeps o d w0 w1 h
  | .libraryWrite off words => execLibraryWrite_keeps off words h
  | .jreq t => execJreq_keeps t h
  | .ringOpen o r => execRingOpen_keeps o r h
  | .ringClose o r => execRingClose_keeps o r h
  | .ringRefill o r => execRingRefill_keeps o r h
  | .shotInvalClear => execShotInvalClear_keeps h
  | .fluxFault im since delivered => execFluxFault_keeps im since delivered h
  | .queueError im => execQueueError_keeps im h
  | .rampEnd im => execRampEnd_keeps im h
  | .demodSample im m codes => execDemodSample_keeps im m codes h
  | .cueAppear => execCueAppear_keeps h
  | .cueFire c => execCueFire_keeps c h
  | .cueConfigWrite off v => execCueConfigWrite_keeps off v h
  | .cueCheck => execCueCheck_keeps h
  | .cueCheckDone => execCueCheckDone_keeps h
  | .pinEdge p rising => execPinEdge_keeps p rising h
  | .trigEdge line rising fine => execTrigEdge_keeps line rising fine h
  | .decisionFrame l a b => execDecisionFrame_keeps l a b h
  | .outcome => execOutcome_keeps h
  | .benchTimeout => execBenchTimeout_keeps h
  | .decodeEnd peers => execDecodeEnd_keeps peers h
  | .faceTimeout f => execFaceTimeout_keeps f h
  | .syndromeFrame l fr => execSyndromeFrame_keeps l fr h
  | .backlog => execBacklog_keeps h
  | .qryResume v => execQryResume_keeps v h
  | .qryFrameXor v => execQryFrameXor_keeps v h
  | .qryConfigWrite seam off v => execQryConfigWrite_keeps seam off v h
  | .qryCheck => execQryCheck_keeps h
  | .qryCheckDone => execQryCheckDone_keeps h
  | .acqArmTick u => execAcqArmTick_keeps u h
  | .acqTrigger u => execAcqTrigger_keeps u h
  | .acqTtTrigger u => execAcqTtTrigger_keeps u h
  | .acqSampleWrite u k codes => execAcqSampleWrite_keeps u k codes h
  | .rearmEnd u => execRearmEnd_keeps u h
  | .acqRoom u => execAcqRoom_keeps u h
  | .acqLineOut u => execAcqLineOut_keeps u h
  | .recTake u => execRecTake_keeps u h
  | .acqMissPop u => execAcqMissPop_keeps u h
  | .acqBulkRd u v => execAcqBulkRd_keeps u v h
  | .pinCfgWrite p v => execPinCfgWrite_keeps p v h
  | .vectorWrite off words => execVectorWrite_keeps off words h
  | .mvpGo v => execMvpGo_keeps v h
  | .mvpStop => execMvpStop_keeps h
  | .vectorPeriod low high => execVectorPeriod_keeps low high h
  | .mvpFailPop => execMvpFailPop_keeps h
  | .signalDetect l => execSignalDetect_keeps l h
  | .trainDone l lanes flight => execTrainDone_keeps l lanes flight h
  | .trainTimeout l => execTrainTimeout_keeps l h
  | .trainRetry l => execTrainRetry_keeps l h
  | .capabilitiesFrame l c nonce => execCapabilitiesFrame_keeps l c nonce h
  | .authResponse l tag => execAuthResponse_keeps l tag h
  | .authTimeout l => execAuthTimeout_keeps l h
  | .laneFailure l lane => execLaneFailure_keeps l lane h
  | .spareTrained l => execSpareTrained_keeps l h
  | .keepaliveSend l => execKeepaliveSend_keeps l h
  | .keepaliveTimeout l => execKeepaliveTimeout_keeps l h
  | .linkAck l seq refused => execLinkAck_keeps l seq refused h
  | .replayTimeout l => execReplayTimeout_keeps l h
  | .bulkFrame l fr => execBulkFrame_keeps l fr h
  | .timeFrame l fr => execTimeFrame_keeps l fr h
  | .mgmtFrame l fr stamps => execMgmtFrame_keeps l fr stamps h
  | .rateInterval mgmt => execRateInterval_keeps mgmt h
  | .errorInterval => execErrorInterval_keeps h
  | .bxfGo => execBxfGo_keeps h
  | .tailWrite v => execTailWrite_keeps v h
  | .commandFetch entry => execCommandFetch_keeps entry h
  | .ringAck r k => execRingAck_keeps r k h
  | .ringEnable r => execRingEnable_keeps r h
  | .rr16Post => execRr16Post_keeps h
  | .msixSend v => execMsixSend_keeps v h
  | .hostLinkDown => execHostLinkDown_keeps h
  | .hdmAccess write off data => execHdmAccess_keeps write off data h
  | .bar4Access write off data => execBar4Access_keeps write off data h
  | .engineMemoryWrite off words => execEngineMemoryWrite_keeps off words h
  | .spdmRequest q => execSpdmRequest_keeps q h
  | .ideFailure cxl => execIdeFailure_keeps cxl h
  | .bulkRequest src write off data ecc => execBulkRequest_keeps src write off data ecc h
  | .memErrorInterval => execMemErrorInterval_keeps h
  | .refresh => execRefresh_keeps h
  | .marginTrack c rd0 rd1 wr margin => execMarginTrack_keeps c rd0 rd1 wr margin h
  | .scrub off ecc => execScrub_keeps off ecc h
  | .idleSelfRefresh g => execIdleSelfRefresh_keeps g h
  | .rowThreshold src channel bank row => execRowThreshold_keeps src channel bank row h
  | .tallyGo u cont => execTallyGo_keeps u cont h
  | .tallyStop u => execTallyStop_keeps u h
  | .tallyBlock u => execTallyBlock_keeps u h
  | .tallyEnd u => execTallyEnd_keeps u h
  | .callerWatchdog => execCallerWatchdog_keeps h
  | .callerFault => execCallerFault_keeps h
  | .ghenovReady otherOk => execGhenovReady_keeps otherOk h
  | .journalAppend => execJournalAppend_keeps h
  | .housekeepingRound sensors monitors => execHousekeepingRound_keeps sensors monitors h
  | .flashRailDrop => execFlashRailDrop_keeps h
  | .ethCtrlWrite v => execEthCtrlWrite_keeps v h
  | .registerWrite addr nbytes v => execRegisterWrite_keeps addr nbytes v h
  | .commandEnd tag r => execCommandEnd_keeps tag r h
  | .hostLinkUp cxl speed width => execHostLinkUp_keeps cxl speed width h
  | .stackTempReport stack hot => execStackTempReport_keeps stack hot h
  | .creditHoldEnd src => execCreditHoldEnd_keeps src h
  | .cueFilterElapse => execCueFilterElapse_keeps h
  | .domainSourceLost domB => execDomainSourceLost_keeps domB h
  | .powerOff => execPowerOff_keeps h

theorem State.run_keeps {r₀ s : State} (i : Instr) (h : Keeps r₀ s) : Keeps r₀ (s.run i) := by
  unfold State.run
  split
  · rename_i t ht
    exact exec_keeps i h t ht
  · exact h

theorem State.issueFetched_keeps {r₀ s : State} (e : Fin 1024) (h : Keeps r₀ s) : Keeps r₀ (s.issueFetched e) := by
  unfold State.issueFetched
  split
  · exact State.run_keeps _ h
  · split
    · rename_i t ht
      exact State.issue_some h (fun _ _ hu => hu) (fun _ _ _ hu hv => by cases hv; exact hu) t ht
    · exact h

theorem State.runDue_keeps {r₀ : State} (e : Fin 1024) (n : Nat) {s : State} (h : Keeps r₀ s) : Keeps r₀ (State.runDue e n s) := by
  induction n generalizing s with
  | zero => exact h
  | succ n ih =>
    simp only [State.runDue]
    split
    · exact ih (State.run_keeps _ h)
    · exact h

theorem State.engineTick_keeps {r₀ s : State} (n : Nat) (h : Keeps r₀ s) : Keeps r₀ (State.engineTick s n) := by
  unfold State.engineTick
  split
  · exact Keeps.ite (State.issueFetched_keeps _ (State.runDue_keeps _ _ h)) (State.runDue_keeps _ _ h)
  · exact h

theorem State.fabricDue_keeps {r₀ : State} {s : State} (hk : Keeps r₀ s) : Keeps r₀ (State.fabricDue s) := by
  unfold State.fabricDue; try dsimp only
  with_reducible repeat' first | assumption | apply Keeps.ite | apply State.run_keeps | dsimp only

theorem State.upset_keeps {r₀ : State} {s : State} (a n : Nat) (hk : Keeps r₀ s) : Keeps r₀ (State.upset s a n) := by
  unfold State.upset; try dsimp only
  with_reducible repeat' first | assumption | apply Keeps.ite | dsimp only | apply Keeps.upd

theorem State.upsetTick_keeps {r₀ : State} {s : State} (hk : Keeps r₀ s) : Keeps r₀ (State.upsetTick s) := by
  unfold State.upsetTick; try dsimp only
  with_reducible repeat' first | assumption | apply Keeps.ite | apply State.upset_keeps | apply State.takeFree_keeps | split

theorem State.idleTick_keeps {r₀ : State} {s : State} (hk : Keeps r₀ s) : Keeps r₀ (State.idleTick s) := by
  unfold State.idleTick; try dsimp only
  with_reducible repeat' first | assumption | apply Keeps.ite | apply State.upsetTick_keeps | apply State.elapseTo_keeps | apply State.bxfPump_keeps | apply State.sendOne_keeps | apply State.engineTick_keeps | apply State.fabricDue_keeps | refine Keeps.fold ?_ (fun _ _ _ => ?_) | dsimp only

/-- A step takes the front of the queue, and keeps the rest. -/
theorem step_keeps {s t : State} (h : step s = .next t) : Keeps { s with pending := s.pending.tail } t := by
  unfold step at h
  split at h
  · rename_i hp
    cases h
    refine State.idleTick_keeps ?_
    exact ⟨by simp [hp], id, id, Nat.le_refl _, Nat.le_refl _⟩
  · rename_i c rest hp
    have := exec_keeps c (Keeps.refl { s with pending := rest }) t h
    rwa [hp]

end Sys2Proof.Machine
end

