-- ==== Sys2Proof/WellFormed.lean ====
section
/-! DEFINITION. Commands that their source can send: counts and sizes that the manual fixes for an operand. -/
namespace Sys2Proof

/-- A command entry has 15 words after word 0 (R305). -/
def Cmd.ok (c : Cmd) : Bool := decide (c.words.length ≤ 15)

/-- An access stays within one 64-byte line (R302, R313). -/
def lineOk (off n : Nat) : Bool := decide (1 ≤ n) && decide (off % 64 + n ≤ 64)

/-- Whether a command's operands are ones its source can send. -/
def Instr.wellFormed (i : Instr) : Bool :=
  match i with
  | .getStatus c | .readLog c | .enterStandby c | .enterDormant c | .enterCalibrate c | .arm c | .start c | .stop c
  | .enterSafe c | .enterService c | .commit c | .acqArm c | .acqDisarm c | .selfCal c | .skewCal c | .linkConfig c
  | .linkReset c | .spareEngine c | .spareLane c | .memRepair c | .fwActivate c | .setThresholds c | .readTelemetry c
  | .callerRestart c => c.ok
  | .loadEngines c _ | .loadSegments c _ | .configCue c _ | .configQuarry c _ | .flashWrite c _ | .ucsLoadOpen c _ => c.ok
  | .commandFetch entry => decide (entry.length = 16)
  | .housekeepingRound sensors monitors => decide (sensors.length = 28) && decide (monitors.length = 36)
  | .hdmAccess _ off data => lineOk off data.length
  | .bar4Access _ off data => decide (1 ≤ data.length) && decide (off.toNat + data.length ≤ 2 ^ 32)
  | .bulkRequest _ _ off data _ => lineOk off data.length
  | .hostLinkUp _ speed width => speed != 0 && [1, 2, 4, 8].contains width.val
  | .registerWrite _ nbytes _ => nbytes == 4 || nbytes == 8
  | _ => true

end Sys2Proof
end

