-- ==== Sys2Proof/Tests/Slice0.lean ====
section
/-! SUPPORT. Tests of the model, and for every obligation with hypotheses states and operands that meet them. Expected results
come from the manual's rules and worked examples. One thread keeps the memory of a check small. -/
set_option Elab.async false

namespace Sys2Proof.Tests
open Sys2Proof.Machine Sys2Proof.Safety

/-- A state with fields set. -/
def set (s : State) (fs : List (Fld × Nat)) : State := fs.foldl (fun s e => s.put e.1 e.2) s

/-- A device whose Caller serves, with a locked reference and every memory group in service, in a mode. -/
def dev (m : Mode) : State := set { State.reset with mode := m }
  [(glbCallerStatState, 2), (clkRefStatLocked, 1), (clkRefStatFreeRun, 0), (memStatInService, 15), (memStatN, 4), (memStatMap, 0xE4)]

def stby : State := dev .standby
def cal : State := dev .calibrate
def arm : State := dev .armed
def run : State := dev .run
def safe : State := dev .safe

/-- A command's entry, with its words from word 1 on. -/
def cmd (ws : List Word) : Cmd := { tag := 7, words := ws }

/-- An instruction word. -/
def jw (d a b e : Nat) (imm : Word) (pinv : Bool := false) : JWord :=
  { pred := 0, pinv := pinv, d := BitVec.ofNat 5 d, a := BitVec.ofNat 5 a, b := BitVec.ofNat 5 b, e := BitVec.ofNat 5 e, imm := imm }

/-- A device in RUN at tick 100 with an engine that runs. -/
def eng (e : Nat) (g : Eng := {}) : State := { run with tt := 100 }.setEng e { g with state := .running }

/-- Its registers r1 and r2 hold words. -/
def two (a b : Word) : Eng := { g := [(1, a), (2, b)], tc := 1000 }

/-- The state that a meaning or a step goes on in. -/
def after (r : Res) : Option State := match r with | .next t => some t | _ => none

/-- A word with every field 0, and one whose condition is 0. -/
def w0 : JWord := jw 0 0 0 0 0
def wSkip : JWord := jw 0 0 0 0 0 true

theorem tabFind_none {α : Type} {t : Tab α} {a : Nat} (h : ∀ x ∈ t, x.1 ≠ a) : tabFind t a = none := by
  induction t with
  | nil => rfl
  | cons x t ih =>
    obtain ⟨i, v⟩ := x
    have h1 : i ≠ a := h (i, v) (.head _)
    have h2 := ih (fun y hy => h y (.tail _ hy))
    simp [tabFind, h1, h2]

/-- Entries beyond a bound are a question about the listed words. -/
theorem upsets_iff (u : State) (p : Nat → Prop) [DecidablePred p] : (∀ a, p a → tabGet u.upsets a 0 = 0) ↔
    u.upsets.all (fun x => !decide (p x.1) || tabGet u.upsets x.1 0 == 0) = true := by
  rw [List.all_eq_true]
  constructor
  · intro h x _
    by_cases h1 : p x.1
    · simp [h _ h1]
    · simp [h1]
  · intro h a ha
    by_cases hx : ∃ x ∈ u.upsets, x.1 = a
    · obtain ⟨x, hm, rfl⟩ := hx
      simpa [ha] using h x hm
    · have : tabFind u.upsets a = none := tabFind_none (fun x hm he => hx ⟨x, hm, he⟩)
      simp [tabGet, this]

/-- Whether a memory holds a wrong bit is a question about the listed words. -/
theorem soundMemory_iff (u : State) (e : Nat) : soundMemory u e ↔
    u.upsets.all (fun x => !decide (engBase (u.phys e) ≤ x.1 ∧ x.1 < engBase (u.phys e) + 0x28000 ∨ patchBase .te ≤ x.1)
      || tabGet u.upsets x.1 0 == 0) = true := by
  rw [← upsets_iff u (fun a => engBase (u.phys e) ≤ a ∧ a < engBase (u.phys e) + 0x28000 ∨ patchBase .te ≤ a)]
  exact ⟨fun h a ha => ha.elim (fun x => h.1 a x.1 x.2) (h.2 a), fun h => ⟨fun a h1 h2 => h a (.inl ⟨h1, h2⟩), fun a h1 => h a (.inr h1)⟩⟩
/-! Ill-formed commands: one term for each check, and the check refuses it. -/

def words16 : List Word := List.replicate 16 0
theorem test_ill_formed_commands :
    [Instr.getStatus (cmd words16), .loadEngines (cmd words16) [], .commandFetch (List.replicate 15 0),
     .housekeepingRound (List.replicate 27 ⟨0, 0, false, false⟩) (List.replicate 36 0),
     .housekeepingRound (List.replicate 28 ⟨0, 0, false, false⟩) (List.replicate 35 0)].all (fun i => !i.wellFormed) = true := by decide
theorem test_ill_formed_accesses :
    [Instr.hdmAccess true 0 [], .hdmAccess true 63 [0, 0], .bar4Access true 0 [], .bar4Access true 0xFFFFFFFF [0, 0],
     .bulkRequest .host false 64 [] .clean, .bulkRequest .host false 127 [0, 0] .clean, .hostLinkUp true 0 8, .hostLinkUp true 1 3,
     .registerWrite 0 2 0].all (fun i => !i.wellFormed) = true := by decide
theorem test_well_formed :
    [Instr.getStatus (cmd []), .hdmAccess true 63 [0], .bar4Access true 0xFFFFFFFF [0], .hostLinkUp false 3 8, .registerWrite 0 8 0,
     .commandFetch words16, .wake].all (fun i => i.wellFormed) = true := by decide

/-! Commands: the worked examples of chapters 02, 17 and 21. -/

/-- What a meaning leaves, seen through a function. -/
def got {α : Type} (r : Res) (f : State → α) : Option α := (after r).map f

/-- A late START (17): completion word 0 reads 0x08140031 and word 1 0x00070044 with MODE_SEQ 7. -/
theorem test_start_late :
    got (exec (.start { tag := 0x31, words := [7005000, 0] }) { set arm [(hstCplCfgEn, 1)] with tt := 7001200, modeSeq := 7 })
      (fun t => (t.peekWord 0, t.peekWord 1)) = some (0x08140031, 0x00070044) := by decide
/-- SELF_CAL during ARM from STANDBY completes with STATE, ACQ_ARM and START with BUSY (02). -/
def arming : State := { stby with trans := some ⟨.armed, some (1, 0x13), [], []⟩ }
theorem test_during_arm :
    [got (exec (.selfCal (cmd [])) arming) statuses, got (exec (.acqArm (cmd [1, 0, 0])) arming) statuses,
     got (exec (.start (cmd [0, 0])) arming) statuses]
      = [some [(7, 0x32, .state)], some [(7, 0x30, .busy)], some [(7, 0x14, .busy)]] := by decide
/-- ENTER_SAFE during ARM: ARM is abandoned with FAULT, and the device is in SAFE (02). -/
theorem test_enter_safe_during_arm :
    got (exec (.enterSafe (cmd [])) arming) (fun t => (t.mode, statuses t)) = some (.safe, [(1, 0x13, .fault), (7, 0x16, .ok)]) := by
  decide +kernel
/-- GLB_MODE reads MODE 2, TARGET 4 and TRANS 1 while ARM runs (02), and in BOOT MODE 0, TARGET 2 and TRANS 1. -/
theorem test_mode_word : arming.modeWord = 0x142 ∧ State.reset.modeWord = 0x120 := by decide
/-- A reserved bit set in an entry is FORMAT before STATE (R305). -/
theorem test_format_first : got (exec (.start { cmd [0, 0, 1] with tag := 3 }) stby) statuses = some [(3, 0x14, .format)] := by decide
/-- A doorbell beyond the ring's size sets TAIL_BAD and leaves TAIL (R304). -/
theorem test_tail_bad : got (exec (.tailWrite 17) (set stby [(hstCmdCfgLog2, 4)])) (fun t => (t.fld hstCmdTailTail, t.flag hstCmdHeadTailBad))
    = some (0, true) := by decide
/-- A command entry is 16 words (R304). -/
theorem test_entry_length : exec (.commandFetch []) stby = .fault .illFormed := by rfl
/-- Thresholds of zone 9 with a gap below 6 degrees are refused with RANGE (R362). -/
theorem test_thresholds : got (exec (.setThresholds (cmd [9, 0x0A050000, 0x64])) stby) statuses = some [(7, 0x70, .range)] := by decide
/-- The addresses of qubit 77's read-out and drive (23). -/
theorem test_addresses : regAt 0x2102A0 = some ⟨.rfiChCfg, 4, 13⟩ ∧ dataBase 845 true = 0x1A364000 ∧ descAddr 19 100 = 0x0554C320
    ∧ rfOf 77 = 19 ∧ slotOf 77 = 1 ∧ rfOf 333 = 68 ∧ slotOf 333 = 13 ∧ inputOf 845 = 4 ∧ chanOf 845 = 13 := by decide +kernel

/-! Engine instructions: the rules and worked examples of chapters 04, 05 and 10. -/

/-- A register of engine e after an instruction. -/
def regOf (i : Instr) (e r : Nat) (s : State) : Option Word := got (exec i s) (fun t => (t.eng e).reg r)

theorem test_add_wraps : regOf (.add 0 false (jw 1 1 2 0 0)) 0 1 (eng 0 (two 0xFFFFFFFF 2)) = some 1 := by decide
theorem test_sub_wraps : regOf (.sub 0 true (jw 3 1 0 0 2)) 0 3 (eng 0 (two 1 0)) = some 0xFFFFFFFF := by decide
/-- SHR brings in zeros and SAR the sign; the count is the operand's low five bits (R86). -/
theorem test_shifts : regOf (.shr 0 true (jw 3 1 0 0 4)) 0 3 (eng 0 (two 0x80000000 0)) = some 0x08000000
    ∧ regOf (.sar 0 false (jw 3 1 2 0 0)) 0 3 (eng 0 (two 0x80000000 36)) = some 0xF8000000 := by decide
theorem test_mul : regOf (.mul 0 false (jw 3 1 2 0 0)) 0 3 (eng 0 (two 0x10001 0x10001)) = some 0x20001 := by decide
/-- A signed comparison takes -1 below 1, an unsigned one above. -/
theorem test_cmp : got (exec (.cmp 0 false (jw 3 1 2 2 0)) (eng 0 (two 0xFFFFFFFF 1))) (fun t => (t.eng 0).pred 3) = some true
    ∧ got (exec (.cmp 0 false (jw 3 1 2 4 0)) (eng 0 (two 0xFFFFFFFF 1))) (fun t => (t.eng 0).pred 3) = some false := by decide
/-- With condition 0 an ADD writes nothing and moves PC on (R59). -/
theorem test_condition : got (exec (.add 0 true (jw 1 1 0 0 5 true)) (eng 0 (two 7 0))) (fun t => ((t.eng 0).reg 1, (t.eng 0).pc))
    = some (7, 1) := by decide
/-- A NOP with a reserved field set is ILLEGAL, code 4, at its index (R79, R69). -/
theorem test_illegal : got (exec (.nop 0 (jw 0 0 0 0 1)) (eng 0 { pc := 9 })) (fun t => ((t.eng 0).state, (t.eng 0).fltCode, (t.eng 0).fltPc))
    = some (.faulted, 4, 9) := by decide
/-- CALL keeps the index after it, and RET returns there (R83). -/
theorem test_call_ret : got (exec (.call 0 (jw 0 0 0 0 0x3FFF)) (eng 0 { pc := 9 })) (fun t => ((t.eng 0).pc, (t.eng 0).stack, (t.eng 0).ready))
    = some (16383, [10], 102) ∧ got (exec (.ret 0 w0) (eng 0 { pc := 5, stack := [10] })) (fun t => (t.eng 0).pc) = some 10 := by decide
/-- A word stored to the top of data memory is read back; one word higher is DADDR, code 6. -/
theorem test_store : got (exec (.st 0 (jw 2 1 0 0 0)) (eng 0 (two 0x3FFC 0xDEADBEEF))) (fun t => memWord t.sram 0x0D023FFC) = some 0xDEADBEEF
    ∧ got (exec (.ld 0 (jw 2 1 0 0 4)) (eng 0 (two 0x3FFC 0))) (fun t => (t.eng 0).fltCode) = some 6 := by decide
/-- The worked PLAY of 04: issued at 2,000,352 for 2,000,380 its lead is 28, it is LATE, and tc moves to 2,000,396. -/
def te77 (tc : Nat) : State := { eng 77 { latePol := false, tc := BitVec.ofNat 64 tc } with
  tt := 2000352, sram := memSetWords [] (descAddr 19 40) [0x80000000, 32] }
theorem test_play_late : got (exec (.play 77 (jw 0 0 0 0 40)) (te77 2000380))
      (fun t => ((t.eng 77).tc, (t.eng 77).lateCnt, (t.eng 77).lsr.bit 0, (t.eng 77).depth)) = some (2000396, 1, true, 0) := by decide +kernel
theorem test_play_on_time : got (exec (.play 77 (jw 0 0 0 0 40)) (te77 2000400))
      (fun t => ((t.eng 77).tc, (t.eng 77).queue)) = some (2000416, [⟨2000400, .play 40 1 16⟩]) := by decide +kernel
/-- The worked fork of 05: verdict entry 77, branches 101 and 100, tc 3,000,132 after it, and the branch its verdict selects. -/
def forked : State := { eng 77 { tc := 3000100, g := [(4, 9)] } with
  tt := 3000040, sram := memSetWords [] (descAddr 19 100) [0x80000000, 64, 0x80000000, 32] }
theorem test_playf : got (exec (.playf 77 (jw 0 4 0 0x12 0x13432065)) forked) (fun t => ((t.eng 77).tc, (t.eng 77).queue.map (·.eff)))
    = some (3000132, [.playf 101 100 16 32 77 false 2 true 9 none]) := by decide +kernel
theorem test_fork_deadline : forkDeadline 77 3000100 = 3000072 ∧ (forkChoice (some ⟨9, true, 1, true⟩) false 2 true 9).1 = true
    ∧ (forkChoice none false 2 true 9).1 = false := by decide
/-- ACC clamps at 2^47 - 1 and sets the invalid condition (10). -/
def nearTop : State := { eng 768 { me := { accI := 2 ^ 47 - 100, run := some ⟨0, 2, false, none, 1, 100, false, 0⟩ } } with
  sram := memSetWords (memSetWords [] (dataBase 768 false) [300]) (dataBase 768 true) [1] }
theorem test_acc_clamps : got (exec (.accumulationComplete 768) nearTop) (fun t => ((t.eng 768).me.accI, (t.eng 768).me.accQ, (t.eng 768).me.inv))
    = some (2 ^ 47 - 1, 0, true) := by decide +kernel
/-- RDA of the worked window: floor(ACC.Q / 2^17) is -93,813, not -93,812 (10). -/
theorem test_rda : regOf (.rda 768 (jw 11 0 0 1 17)) 768 11 (eng 768 { me := { accQ := -12296192000 } })
    = some (BitVec.ofInt 32 (-93813)) := by decide
/-- DISC of the worked window: state 1 with confidence 1 (10). -/
def discs : State := { eng 768 { g := [(10, 46843), (11, BitVec.ofInt 32 (-93813))] } with
  sram := memSetWords [] (dataBase 768 false + 0x1000)
    [1, BitVec.ofInt 32 (-20000), 0x10000, 50000, 0x10001, 0, 10000, 4] }
theorem test_disc : regOf (.disc 768 (jw 12 10 11 0 0x1000)) 768 12 discs = some 5 := by decide +kernel
/-- A fetch at offset 320 of a generator of length 250 uses offset 70 and leaves 71 (10). -/
theorem test_generator : got (exec (.accumulationComplete 768) (eng 768
      { me := { ag0 := ⟨0, 250, 320⟩, run := some ⟨0, 2, false, none, 1, 100, false, 0⟩ } })) (fun t => (t.eng 768).me.ag0.off) = some 71 := by
  decide +kernel

/-! Time, BOOT and the rest: the worked examples of chapters 03, 13, 14, 16, 18 and 19. -/

/-- After 400 µs of holdover with FERR 1,000 the drift estimate reads 25 (03). -/
theorem test_holdover : got (exec .holdoverUpdate { set stby [(clkRefStatHoldover, 1), (clkRefStatLocked, 0)] with holdUs := 399 })
    (fun t => t.fld clkHoldDriftEst) = some 25 := by decide
/-- A SYNC edge loads TT ten ticks later when capture is armed (R38). -/
theorem test_sync_edge : got (exec .syncEdge ((set stby [(clkEpochArm, 1)]).wr64 .clkTtLoadLo .clkTtLoadHi 87000000003)) (fun t => t.now)
    = some 87000000003 := by decide +kernel
/-- The worked trigger of 13: TRIG1 at 1,000,090 + 64/256 reaches the unit at 1,000,096, its first post-trigger sample is 500,046. -/
theorem test_trigger : got (exec (.trigEdge 1 true 64) { set stby [(acqTrigTsrc 4, 1), (acqTrigTsel 4, 1)] with
      tt := 1000090, acqs := [(4, { state := .fill })] }) (fun t => (t.acq 4).trigs.map (fun x => (x.reach, t.acqFirst 4 x.t)))
    = some [(1000096, 500046)] := by decide
/-- The detour of 16 and the direct route after REJOIN. -/
def at17 : State := set stby ([(lnkIdId, 17)] ++ (List.range 6).map (fun l => (lnkStatState l, 4)))
theorem test_route : (set at17 [(svcNbrUnavailLink, 1)]).route 19 none = some 2 ∧ at17.route 19 none = some 0 := by decide +kernel
/-- The map of 18 after group 2 is lost: offset 0x1A00 is in group 0, channel 2, and 44 GiB is beyond the map. -/
def lost : State := set stby [(memStatMap, 0x34), (memStatN, 3), (memStatInService, 11)]
theorem test_interleave : lost.channelOf 0x1A00 = some 2 ∧ stby.channelOf 0x1A00 = some 10 := by decide
/-- A BAR4 read in DORMANT is all ones (R327). -/
theorem test_dormant_window : got (exec (.bar4Access false 0 [0, 0]) (dev .dormant)) (fun t => t.answer) = some (some ([0xFF, 0xFF], false)) := by
  decide
/-- GLB_MODE and GLB_SAFE_CAUSE after reset (02). -/
theorem test_reset : State.reset.bar0Word 0x10 = 0x120 ∧ State.reset.bar0Word 0x18 = 0x1F0000 := by decide +kernel
/-- The second period of vector 101, whose RPT is 1, follows 4 ticks after the first (14). -/
theorem test_vector : got (exec (.vectorPeriod 0 0) { cal with
      tt := 2000004, sram := memSetWords [] (0x0C200000 + 32 * 101 + 24) [0x10000],
      mvp := { running := true, first := 100, last := 103, per := 4, loops := 1, next := some 2000004, vec := 101 } })
      (fun t => (t.mvp.vec, t.mvp.rep, t.mvp.next)) = some (101, 1, some 2000008) := by decide +kernel

/-! Obligations about steps and administrative commands. -/

theorem wit_StepRunsFront : { stby with pending := [.safeReq, .wake] }.pending = .safeReq :: [.wake] := by decide
theorem wit_IdleStepIsTime : stby.pending = [] ∧ stby.power = true ∧ { stby with power := false }.power = false := by decide
theorem wit_StepKeepsCanonical : canonical { stby with sram := [(4, 1)] } = true
    ∧ step stby = .next stby.idleTick := ⟨by decide, rfl⟩
theorem wit_EveryStepKeeps : after (step { stby with pending := [.wake] }) = some stby := by decide
theorem wit_RegisterAddresses : (⟨.hkpThrB, 9, 0⟩ : Reg).i < RegK.hkpThrB.place.n1 ∧ (⟨.hkpThrB, 9, 0⟩ : Reg).j < RegK.hkpThrB.place.n2 := by
  decide
theorem wit_Bar0Reads : 3 % 4 ≠ 0 ∧ (dev .dormant).mode = .dormant ∧ 0x10000 % 4 = 0 ∧ 0x30000 ≤ 0x30000 := by decide

theorem wit_RefusedCommands_reserved :
    adminOf (.arm { cmd [] with rsvd := 1 }) = some (0x13, { cmd [] with rsvd := 1 })
      ∧ served run 0x13 { cmd [] with rsvd := 1 } run ∧ entryOk 0x13 { cmd [] with rsvd := 1 } = false
      ∧ entryOk 0x51 (cmd [6, 0]) = false ∧ entryOk 0x51 (cmd [5, 4]) = true := by unfold served; decide
theorem wit_RefusedCommands_illegal : adminOf (.arm (cmd [])) = some (0x13, cmd []) ∧ served run 0x13 (cmd []) run
    ∧ entryOk 0x13 (cmd []) = true
    ∧ run.trans = none ∧ run.bootFailed = false ∧ run.fld glbCallerStatState ≠ 4 ∧ legal 0x13 run.mode = false := by unfold served; decide
theorem wit_RefusedCommands_transition : adminOf (.enterService (cmd [])) = some (0x17, cmd []) ∧ 0x10 ≤ 0x17 ∧ 0x17 ≤ 0x17
    ∧ entryOk 0x17 (cmd []) = true
    ∧ served { stby with trans := some { target := .calibrate } } 0x17 (cmd []) { stby with trans := some { target := .calibrate } }
    ∧ stby.bootFailed = false ∧ stby.fld glbCallerStatState ≠ 4 := by unfold served; decide

theorem wit_ReadsAndThresholds : runs stby 0x01 (cmd []) [] stby ∧ runs stby 0x02 (cmd [0xFFFFFFFF]) [(1, wordMask)] stby
    ∧ runs stby 0x24 (cmd []) [] stby ∧ runs stby 0x71 (cmd []) [] stby := by unfold runs served; decide
/-- An entry at the head of the queue is served, and an undefined opcode behind it is then completed with FORMAT (R305). -/
theorem wit_ReadsAndThresholds_queued :
    served { stby with adminQ := [⟨7, 0x01, 0, []⟩, ⟨8, 0x02, 0, [5]⟩] } 0x01 (cmd []) { stby with adminQ := [⟨8, 0x02, 0, [5]⟩] }
      ∧ served { stby with adminQ := [⟨7, 0x01, 0, []⟩, ⟨8, 0xEE, 0, []⟩] } 0x01 (cmd []) (stby.complete 8 0xEE .format) := by
  unfold served; decide
/-- The reset thresholds of zone 0 are in order; a gap of 5 degrees is not. -/
theorem wit_ReadsAndThresholds_set :
    runs stby 0x70 (cmd [0x8000000F, stby.rd .hkpThrA 0, stby.rd .hkpThrB 0]) [(1, 0x8000000F), (2, wordMask), (3, 0xFF)] stby
      ∧ thrOk (stby.rd .hkpThrA 0) (stby.rd .hkpThrB 0) = true
      ∧ runs stby 0x70 (cmd [9, 0x0A050000, 0x64]) [(1, 0x8000000F), (2, wordMask), (3, 0xFF)] stby
      ∧ (9 : Word).bits 3 0 < 10 ∧ thrOk 0x0A050000 0x64 = false := by unfold runs served; decide

theorem wit_EnterModesBegin_standby : runs stby 0x10 (cmd []) [] stby ∧ runs cal 0x10 (cmd []) [] cal ∧ runs arm 0x10 (cmd []) [] arm
    ∧ runs safe 0x10 (cmd []) [] safe ∧ safe.safeAsserted = false ∧ (∀ i, i < 256 → safe.flag (flxStatRamping i) = false) := by
  unfold runs served; decide +kernel
theorem wit_EnterModesBegin_refused :
    runs (set safe [(flxStatRamping 255, 1)]) 0x10 (cmd []) [] (set safe [(flxStatRamping 255, 1)])
      ∧ (set safe [(flxStatRamping 255, 1)]).flag (flxStatRamping 255) = true
      ∧ runs (set safe [(hkpStatRailAny, 1)]) 0x10 (cmd []) [] (set safe [(hkpStatRailAny, 1)])
      ∧ (set safe [(hkpStatRailAny, 1)]).safeAsserted = true
      ∧ (∀ i, i < 256 → (set safe [(hkpStatRailAny, 1)]).flag (flxStatRamping i) = false) := by unfold runs served; decide +kernel
theorem wit_EnterModesBegin_service :
    runs (dev .dormant) 0x10 (cmd []) [] (dev .dormant) ∧ runs (dev .service) 0x10 (cmd []) [] (dev .service)
      ∧ runs { dev .service with bg := [⟨1, 0x52, .memRepair []⟩] } 0x10 (cmd []) [] { dev .service with bg := [⟨1, 0x52, .memRepair []⟩] }
      ∧ flashJob (.memRepair []) = true ∧ (dev .service).bg = []
      ∧ runs stby 0x17 (cmd []) [] stby ∧ stby.fld glbStreamStatOpenCnt = 0 := by unfold runs served; decide
theorem wit_EnterModesBegin_dormant : runs stby 0x11 (cmd []) [] stby ∧ stby.armedUnits = [] ∧ stby.fld glbStreamStatOpenCnt = 0
    ∧ runs (set stby [(glbStreamStatOpenCnt, 1)]) 0x11 (cmd []) [] (set stby [(glbStreamStatOpenCnt, 1)])
    ∧ (set stby [(glbStreamStatOpenCnt, 1)]).fld glbStreamStatOpenCnt ≠ 0 := by unfold runs served; decide
theorem wit_EnterModesBegin_calibrate : runs stby 0x12 (cmd []) [] stby ∧ stby.powerGuard = false ∧ runs cal 0x12 (cmd []) [] cal
    ∧ runs (set stby [(memStatInService, 0)]) 0x12 (cmd []) [] (set stby [(memStatInService, 0)])
    ∧ (set stby [(memStatInService, 0)]).powerGuard = true ∧ runs arm 0x12 (cmd []) [] arm := by unfold runs served; decide

/-- CALIBRATE with a timebase, and a start map of engine 0, which is loaded. -/
def calA : State := { set cal [(clkEpochAcq, 1)] with bulk := [(0, 1)] }.setEng 0 { state := .idle, img := some ⟨2, 0, 0, 0, 0⟩ }

theorem wit_ArmStartStop_arm : runs calA 0x13 (cmd [0, 0]) [(1, wordMask), (2, wordMask)] calA ∧ calA.bulkUsable 0 128 = true
    ∧ calA.notPoisoned 0 128 = true ∧ calA.startMap 0 = [0] ∧ calA.armGuard [0] = true ∧ cal.armGuard [] = false
    ∧ runs cal 0x13 (cmd [0, 0]) [(1, wordMask), (2, wordMask)] cal := by unfold runs served; decide +kernel
theorem wit_ArmStartStop : runs arm 0x14 (cmd [10000, 0]) [(1, wordMask), (2, wordMask)] arm
    ∧ runs run 0x15 (cmd [64, 0]) [(1, wordMask), (2, wordMask)] run := by unfold runs served; decide

theorem wit_EnteringSafe : stby.power = true ∧ run.mode = .run ∧ Cmd.only (cmd []) [] = true ∧ safe.mode = .safe ∧ safe.trans = none
    ∧ (dev .dormant).mode = .dormant ∧ State.reset.mode = .boot ∧ State.reset.bootFailed = false := by decide

theorem wit_RunsBeginAndEnd_start :
    let s := { arm.setEng 0 { state := .held, img := some ⟨2, 0, 0, 0, 0⟩ } with startSet := [0], startAt := some 0 }
    s.power = true ∧ s.mode = .armed ∧ s.trans = none ∧ s.startAt = some 0 ∧ 0 ∈ s.startSet ∧ s.logical (s.phys 0) = 0
      ∧ (((s.advanceTo 0).mesTo s.now).eng 0).state = .held := by decide
theorem wit_RunsBeginAndEnd_end :
    let s := { eng 0 with stopAt := some 100 }
    s.power = true ∧ s.mode = .run ∧ s.stopAt = some 100 ∧ s.engs.any (fun e => e.2.queue.any (fun q => q.tc < 100)) = false
      ∧ run.trans = none ∧ run.runDone = true := by decide
theorem wit_TransitionsEndAndWake :
    let s := { arm with trans := some ⟨.calibrate, some (7, 0x12), [], []⟩ }
    s.power = true ∧ s.trans = some ⟨.calibrate, some (7, 0x12), [], []⟩ ∧ s.stopAt = none ∧ s.safePending = false ∧ s.mode = .armed
      ∧ (dev .dormant).mode = .dormant ∧ (dev .dormant).trans = none
      ∧ (set (dev .dormant) [(lnkStatState 5, 6)]).linkState 5 = 6 := by decide

/-! Obligations about loads, background commands, configuration and calibration. -/

/-- A level 2 image of TE 0 with one instruction and one data word. -/
def img0 : EngineImage := ⟨0, true, .te, 2, 0, 0, 0, 0, [0], [5], []⟩
/-- A descriptor of one granule at granule 0 of RF output 0, and its samples. -/
def seg0 : SegEntry := ⟨2047, 0x80000000, 32, [1, 2], []⟩
/-- Engine 0 plays descriptor 2,047 of RF output 0. -/
def playing : State := { stby with actTail := [(0, 2047, 1000)] }
/-- The header of a container of a kind with an empty payload (R346), version 2.1; its CRC-32C was computed outside the model. -/
def boxed (kind fmt : Nat) (crc : Word) : State :=
  let m : Memory := memSetWord (memSetWords [] 0 [0x54465243, BitVec.ofNat 32 (kind + 256 * fmt), 0x20001]) 0x98 crc
  { stby with bulk := m }
def boxGh : State := boxed 1 1 0x866A332C
/-- A container whose signature and tag hold and which reads back. -/
def box : Container := ⟨true, true, true⟩

theorem wit_LoadsAndStoresBegin_engines :
    runs stby 0x20 (cmd [0, 0]) [(1, wordMask), (2, wordMask)] stby ∧ stby.imageAt 0 = true ∧ stby.startAt = none
      ∧ EngineImage.ok img0 (clsOf img0.engine) = true := by unfold runs served; decide
theorem wit_LoadsAndStoresBegin_segments :
    runs stby 0x21 (cmd [0, 0, 0]) [(1, 0x1FF), (2, wordMask), (3, wordMask)] stby ∧ stby.imageAt 0 = true
      ∧ SegEntry.ok seg0 0 = true ∧ stby.gateDesc 0 2047 = false ∧ stby.gateRegions 0 = []
      ∧ runs playing 0x21 (cmd [0, 0, 0]) [(1, 0x1FF), (2, wordMask), (3, wordMask)] playing ∧ playing.gateDesc 0 2047 = true := by
  unfold runs served; decide
theorem wit_LoadsAndStoresBegin_stores :
    runs stby 0x62 (cmd [2, 0, 0]) [(1, 3), (2, wordMask), (3, wordMask)] stby ∧ classOf 2 = some .me
      ∧ ucsCheck .me ⟨true, 1, [], []⟩ (UcsImage.table ⟨true, 1, [], []⟩) = none
      ∧ ucsCheck .me ⟨false, 1, [], []⟩ (UcsImage.table ⟨false, 1, [], []⟩) = some (1, 0) := by unfold runs served; decide
/-- The resources of a bank are a free value: a bank is repairable exactly when it has one. -/
theorem wit_LoadsAndStoresBegin_repair :
    runs (dev .service) 0x52 (cmd [0x80000000, 0x40000]) [(1, 0x800000FF), (2, wordMask)] (dev .service)
      ∧ runs (dev .service) 0x52 (cmd [0, 0x3FFFF]) [(1, 0x800000FF), (2, 0x3FFFF)] (dev .service) ∧ (dev .service).mem.cands = []
      ∧ bankLeft [] (bankOf 0) = decide (0 < Config.bankSpares 0) := by unfold runs served; exact ⟨by decide, by decide, by decide, rfl⟩
theorem wit_LoadsAndStoresBegin_flash :
    runs boxGh 0x60 (cmd [1, 0, 0, 256, 0, 0]) [(1, 0xF), (2, wordMask), (3, wordMask), (4, wordMask), (5, wordMask), (6, wordMask)] boxGh
      ∧ boxGh.flashOpen = true ∧ boxGh.flashBusy = false ∧ boxGh.regionUsable 0 256 = true ∧ boxGh.notPoisoned 0 256 = true
      ∧ runs boxGh 0x60 (cmd [3, 0, 0, 256, 0x1000000, 0])
          [(1, 0xF), (2, wordMask), (3, wordMask), (4, wordMask), (5, wordMask), (6, wordMask)] boxGh := by unfold runs served; decide
/-- Bits through a CRC-32C register, and the register of the container's first 24 bytes and of each 32 zero bytes after them. -/
def crcOver (c : BitVec 32) (bs : List Byte) : BitVec 32 := (bs.flatMap byteBits).foldl crc32cBit c
def boxHead : List Byte := boxGh.bulkBytes 0 24
def zeros : List Byte := List.replicate 32 0
theorem crcOver_append (c : BitVec 32) (a b : List Byte) : crcOver c (a ++ b) = crcOver (crcOver c a) b := by
  simp [crcOver, List.flatMap_append, List.foldl_append]
theorem box_crc0 : crcOver 0xFFFFFFFF boxHead = 0xe6a24067#32 := by decide +kernel
theorem box_crc1 : crcOver 0xe6a24067#32 zeros = 0xbc8e89e8#32 := by decide +kernel
theorem box_crc2 : crcOver 0xbc8e89e8#32 zeros = 0x4c4f77d2#32 := by decide +kernel
theorem box_crc3 : crcOver 0x4c4f77d2#32 zeros = 0x3265a277#32 := by decide +kernel
theorem box_crc4 : crcOver 0x3265a277#32 zeros = 0x7995ccd3#32 := by decide +kernel
theorem box_bytes : boxGh.bulkBytes 0 0x98 ++ boxGh.bulkBytes (0 + 256) (256 - 256) = boxHead ++ zeros ++ zeros ++ zeros ++ zeros := by
  decide +kernel
/-- Its CRC-32C holds (R346). -/
theorem box_crc : boxGh.boxCrcOk 0 256 = true := by
  have h : crc32c ((boxGh.bulkBytes 0 0x98 ++ boxGh.bulkBytes (0 + 256) (256 - 256)).flatMap byteBits)
      = (crcOver 0xFFFFFFFF (boxHead ++ zeros ++ zeros ++ zeros ++ zeros) ^^^ 0xFFFFFFFF).toNat := by rw [box_bytes]; rfl
  have hw : boxGh.boxWord 0 0x98 = 0x866a332c#32 := by decide +kernel
  unfold State.boxCrcOk
  rw [h, hw]
  simp only [crcOver_append, box_crc0, box_crc1, box_crc2, box_crc3, box_crc4]
  decide
/-- The checks of R346, R344 and R349: FORMAT, VERSION, the CRC, AUTH; a container that passes. -/
theorem test_containers :
    (boxed 1 2 0).containerStatus box 1 0 0 256 = some .version ∧ boxGh.containerStatus box 2 0 0 256 = some .format
      ∧ boxGh.containerStatus { box with sigOk := false } 1 0 0 256 = some .auth ∧ boxGh.containerStatus box 1 0 0 256 = none := by
  have hh : boxGh.headerOk 0 1 256 = true := by decide +kernel
  have hv : (boxGh.boxWord 0 4).bits 15 8 = 1 := by decide +kernel
  have hs : (boxGh.boxCopy 0).svn = 0 := by decide +kernel
  have hm : boxGh.flash.minGh = 0 := by decide +kernel
  refine ⟨by decide +kernel, by decide +kernel, ?_, ?_⟩ <;>
    simp [State.containerStatus, hh, hv, hs, hm, box_crc, box, Flash.minSvn]

/-- A device with good copies of both kinds besides the active ones. -/
def copies : State := { dev .service with flash := { ghB := { valid := true }, paB := { valid := true } } }

theorem wit_CallerRestarts : runs stby 0x72 (cmd []) [] stby
    ∧ runs copies 0x61 (cmd [1]) [(1, 0x8000000F)] copies ∧ copies.flashOpen = true ∧ copies.flashBusy = false
    ∧ copies.flash.good 1 (!copies.flash.actGh) = true ∧ runs copies 0x61 (cmd [0x80000002]) [(1, 0x8000000F)] copies
    ∧ copies.flash.good 2 (!copies.flash.actPa) = true
    ∧ runs (dev .service) 0x61 (cmd [1]) [(1, 0x8000000F)] (dev .service) ∧ (dev .service).flash.good 1 true = false
    ∧ { copies with bg := [⟨1, 0x61, .fwActivate 1 false⟩] }.flashBusy = true := by unfold runs served; decide
theorem wit_CommandsEnd :
    let s := { stby with bg := [⟨7, 0x20, .loadEngines [img0] false⟩] }
    s.ghenovRuns = true ∧ s.bgOf 7 = some ⟨7, 0x20, .loadEngines [img0] false⟩ ∧ img0.code.length ≤ 16384 := by decide

theorem wit_ConfigurationImages :
    runs stby 0x22 (cmd [0, 0]) [(1, wordMask), (2, wordMask)] stby ∧ stby.bulkUsable 0 64 = true ∧ stby.notPoisoned 0 64 = true
      ∧ cueReg 0xFFFC = none ∧ cueReg 0x1000 ≠ none
      ∧ runs stby 0x23 (cmd [0, 0]) [(1, wordMask), (2, wordMask)] stby ∧ stby.imageAt 0 = true
      ∧ qryReg 0x3FFC ≠ none ∧ qryReg 0x4000 = none ∧ ¬ 131072 ≤ 131071 := by unfold runs served; decide +kernel

theorem wit_AcqArmDisarm : runs cal 0x30 (cmd [0x8000, 1000, 0]) [(1, 0xFFFF), (2, wordMask), (3, wordMask)] cal
    ∧ runs safe 0x31 (cmd [0x8001]) [(1, 0xFFFF)] safe ∧ (0x8001 : Word).bit 15 = true := by unfold runs served; decide
theorem wit_LinkCommands : runs stby 0x41 (cmd [0x3F]) [(1, 0x3F)] stby ∧ runs stby 0x40 (cmd []) [] stby
    ∧ linkChanged stby.linkCfg { stby.linkCfg with en := 0x1F } 5 = true ∧ linkChanged stby.linkCfg stby.linkCfg 5 = false := by
  unfold runs served; decide
theorem wit_Sparing_lane : runs stby 0x51 (cmd [5, 3]) [(1, 7), (2, 7)] stby ∧ (5 : Word).bits 2 0 < 6 ∧ (3 : Word).bits 2 0 < 5 := by
  unfold runs served; decide
theorem wit_Sparing_engine :
    runs stby 0x50 (cmd [1023, 1087]) [(1, 0x3FF), (2, 0x7FF)] stby ∧ sparesOf (clsOf 1023) = (1072, 16) ∧ 1087 < 1072 + 16
      ∧ stby.engSpareFree 1087 = true ∧ stby.loadingAny [1023] = false
      ∧ (∀ q, 1072 ≤ q → q < 1072 → stby.engSpareFree q = false)
      ∧ { stby with engMap := [(1023, 1072)] }.engSpareFree 1072 = false := by
  unfold runs served
  exact ⟨by decide, by decide, by decide, by decide, by decide, fun q h1 h2 => absurd h2 (Nat.not_lt.mpr h1), by decide⟩
/-- All sixteen ME spares in use. -/
theorem wit_Sparing_none : (List.range 16).all (fun i =>
    !({ stby with engMap := (List.range 16).map (fun i => (768 + i, 1072 + i)) }).engSpareFree (1072 + i)) = true := by decide

theorem wit_Calibrations : runs cal 0x32 (cmd []) [] cal ∧ runs cal 0x33 (cmd [0]) [(1, 0x1FF)] cal ∧ cal.skew = none
    ∧ (0 : Word).bits 8 0 = cal.ownId ∧ (0x1FF : Word).bits 8 0 ≠ cal.ownId ∧ cal.route 0x1FF none = none
    ∧ runs cal 0x33 (cmd [0x1FF]) [(1, 0x1FF)] cal
    ∧ (set cal [(lnkStatState 1, 4)]).route 0x1FF none = some 1
    ∧ runs (set cal [(lnkStatState 1, 4)]) 0x33 (cmd [0x1FF]) [(1, 0x1FF)] (set cal [(lnkStatState 1, 4)])
    ∧ { cal with skew := some ⟨7, 0, none, 0, 0, none⟩ }.skew.isSome = true := by unfold runs served; decide +kernel

/-! Obligations about engine instructions. -/

theorem wit_SkipsAndIllegals : basicOf (.nop 0 w0) = some (0, w0, {}, 1) ∧ stby.mayIssue 0 false = false
    ∧ issues (eng 0) 0 wSkip {} ∧ ¬ holds (eng 0) 0 wSkip ∧ goesOn (eng 0) 0
    ∧ issues (eng 0 { pc := 16383 }) 0 wSkip {} ∧ ¬ holds (eng 0 { pc := 16383 }) 0 wSkip ∧ ¬ goesOn (eng 0 { pc := 16383 }) 0 := by
  unfold issues atBoundary holds goesOn; simp only [soundMemory_iff]; exact ⟨rfl, by decide⟩
theorem wit_SkipsAndIllegals_illegal : (eng 0).mayIssue 0 false = true ∧ ((atIssue (eng 0) 0).eng 0).bdmaBad = none
    ∧ legalForm {} (clsOf 0) ((atIssue (eng 0) 0).eng 0).level (jw 0 0 0 0 1) = false
    ∧ ((atIssue (eng 0 { bdmaBad := some 3 }) 0).eng 0).bdmaBad = some 3
    ∧ ((atIssue (eng 0 { bdmaBad := some 3 }) 0).eng 0).fltValid = false
    ∧ ((atIssue (eng 0 { bdmaBad := some 3 }) 0).eng 0).faultAct = false := by decide
/-- The word of engine 0's first instruction has n wrong bits. -/
def upsets (n : Nat) : State := { eng 0 with upsets := [(engBase 0, n)] }
theorem wit_SkipsAndIllegals_ecc : (upsets 2).mayIssue 0 false = true ∧ ((atIssue (upsets 2) 0).eng 0).eccBad = none
    ∧ tabGet (atIssue (upsets 2) 0).upsets (engBase ((upsets 2).phys 0) + 8 * ((atIssue (upsets 2) 0).eng 0).pc) 0 = 2
    ∧ tabGet (atIssue (upsets 1) 0).upsets (engBase ((upsets 1).phys 0) + 8 * ((atIssue (upsets 1) 0).eng 0).pc) 0 = 1
    ∧ soundPatch (atIssue (upsets 1) 0) ∧ legalForm {} (clsOf 0) ((atIssue (upsets 1) 0).eng 0).level wSkip = true ∧ ¬ holds (upsets 1) 0 wSkip ∧ goesOn (upsets 1) 0 := by
  unfold soundPatch holds goesOn; simp only [upsets_iff]; decide

theorem wit_IntegerResults : runsOn (eng 0) 0 (jw 31 0 0 0 0xFFFFFFFF) { dm := 31, im := 0xFFFFFFFF, rd := true }
    ∧ runsOn (eng 1023) 1023 (jw 3 1 2 0 0) (intForm false) ∧ runsOn (eng 1023) 1023 (jw 31 31 0 0 0xFFFFFFFF) (intForm true)
    ∧ runsOn (eng 512) 512 (jw 3 1 2 0 0) (shiftForm false) ∧ runsOn (eng 512) 512 (jw 3 1 0 0 31) (shiftForm true) := by
  unfold runsOn issues atBoundary holds goesOn; simp only [soundMemory_iff]; decide
theorem wit_ComparesAndSelects :
    runsOn (eng 0) 0 (jw 7 1 2 6 0) { intForm false with dm := 7, em := 7, rd := false, pd := true }
      ∧ runsOn (eng 0) 0 (jw 0 1 2 7 0) { intForm false with dm := 7, em := 7, rd := false, pd := true }
      ∧ runsOn (eng 0) 0 (jw 3 1 2 7 0) { dm := 31, am := 31, bm := 31, em := 7, rd := true, ra := true, rb := true }
      ∧ ((eng 0).eng 0).level ≠ 1 := by unfold runsOn issues atBoundary holds goesOn; simp only [soundMemory_iff]; decide

theorem wit_ControlFlow_jumps :
    runsOn (eng 0) 0 w0 {} ∧ issues (eng 0 (two 16383 16384)) 0 (jw 0 1 0 1 0) { am := 31, em := 1, im := 0x3FFF, ra := true }
      ∧ holds (eng 0 (two 16383 16384)) 0 (jw 0 1 0 1 0) ∧ ((eng 0 (two 16383 16384)).eng 0).reg 1 = 16383
      ∧ issues (eng 0 (two 16383 16384)) 0 (jw 0 2 0 1 0) { am := 31, em := 1, im := 0x3FFF, ra := true }
      ∧ ((eng 0 (two 16383 16384)).eng 0).reg 2 = 16384
      ∧ issues (eng 0 { stack := [1, 2, 3, 4, 5, 6, 7] }) 0 (jw 0 0 0 0 0x3FFF) { im := 0x3FFF }
      ∧ issues (eng 0 { stack := [1, 2, 3, 4, 5, 6, 7, 8] }) 0 (jw 0 0 0 0 0x3FFF) { im := 0x3FFF }
      ∧ issues (eng 0 { stack := [16383] }) 0 w0 {} ∧ issues (eng 0 { stack := [16384] }) 0 w0 {} ∧ issues (eng 0) 0 w0 {}
      ∧ holds (eng 0) 0 w0 := by unfold runsOn issues atBoundary holds goesOn; simp only [soundMemory_iff]; decide
theorem wit_ControlFlow_loops :
    issues (eng 0 { pc := 16380 }) 0 (jw 0 0 0 2 0) { am := 31, bm := 31, em := 31, im := 0x80FFFFFF, ra := true }
      ∧ holds (eng 0 { pc := 16380 }) 0 (jw 0 0 0 2 0)
      ∧ issues (eng 0 { loops := [⟨1, 0, 0⟩, ⟨1, 0, 0⟩, ⟨1, 0, 0⟩] }) 0 (jw 0 0 0 2 5)
          { am := 31, bm := 31, em := 31, im := 0x80FFFFFF, ra := true }
      ∧ issues (eng 0 { loops := [⟨1, 0, 0⟩, ⟨1, 0, 0⟩, ⟨1, 0, 0⟩, ⟨1, 0, 0⟩] }) 0 (jw 0 0 0 2 5)
          { am := 31, bm := 31, em := 31, im := 0x80FFFFFF, ra := true }
      ∧ issues (eng 0 { loops := [⟨2, 7, 9⟩] }) 0 w0 {} ∧ issues (eng 0 { loops := [⟨1, 7, 9⟩] }) 0 w0 {} := by
  unfold issues atBoundary holds; simp only [soundMemory_iff]; decide

theorem wit_WaitsAndCues :
    runsOn (eng 0) 0 w0 {} ∧ ((eng 0).eng 0).wait = none ∧ runsOn (eng 0) 0 (jw 0 0 0 0 0xFF) { im := 0xFF }
      ∧ runsOn (eng 0 { tc := 1000 }) 0 (jw 0 0 0 0 900) { im := 0xFFFFFF } ∧ 1000 - 900 ≤ (eng 0).now
      ∧ runsOn (eng 0 { tc := 1000 }) 0 (jw 0 0 0 0 899) { im := 0xFFFFFF } ∧ (eng 0).now < 1000 - 899
      ∧ runsOn (eng 0 { listen := some 33, pend := true }) 0 (jw 7 0 1 1 0) { dm := 7, bm := 31, em := 31, im := 0xFFFFFF, pd := true }
      ∧ runsOn (eng 0) 0 (jw 7 0 1 1 0) { dm := 7, bm := 31, em := 31, im := 0xFFFFFF, pd := true }
      ∧ runsOn (eng 0) 0 (jw 0 0 31 31 0x3FFF) { bm := 31, em := 31, im := 0x3FFF } := by
  unfold runsOn issues atBoundary holds goesOn; simp only [soundMemory_iff]; decide
/-- A cue is due in the tick that engine 0 would issue in. -/
def cueNow : State := { eng 0 with due := [⟨100, 5⟩] }
theorem wit_WaitsAndCues_fabric : (atIssue (eng 0) 0).cuesHere = true
    ∧ ((eng 0).consume { listen := some 33, pend := true } 33).1 = true ∧ ((eng 0).consume {} 33).1 = false ∧ ({} : Eng).lostAt = none
    ∧ (atIssue cueNow 0).cuesHere = false
    ∧ runsOn cueNow 0 (jw 7 0 1 1 0) { dm := 7, bm := 31, em := 31, im := 0xFFFFFF, pd := true }
    ∧ runsOn cueNow 0 (jw 0 0 31 31 0x3FFF) { bm := 31, em := 31, im := 0x3FFF } := by
  unfold runsOn issues atBoundary holds goesOn; simp only [soundMemory_iff]; decide
/-- Engine 0 waits. -/
def waits (w : Wait) : State := run.setEng 0 { state := .waiting, wait := some w }
theorem wit_WaitsAndCues_ends : (waits (.syncw 0)).power = true ∧ ((waits (.syncw 0)).eng 0).state = .waiting
    ∧ ((waits (.syncw 0)).eng 0).wait = some (.syncw 0) ∧ ((waits (.waitc 7 (some 5) none false)).eng 0).wait = some (.waitc 7 (some 5) none false)
    ∧ ((waits (.waitc 7 (some 5) none false)).eng 0).state = .waiting ∧ (waits (.waitc 7 (some 5) none false)).fabricNext = none := by decide

theorem wit_TimeFrame : run.mode ≠ .boot ∧ 5 < 2 ^ 64 := by decide

theorem wit_DataMemory :
    let F : Form := { dm := 31, am := 31, em := mField .me, im := 0xFFFF, rd := true, ra := true }
    runsOn (eng 768 (two 0x3FFC 0)) 768 (jw 3 1 0 1 0) F ∧ ((eng 768 (two 0x3FFC 0)).eng 768).bdmaTouches true 0x3FFC = false
      ∧ runsOn (eng 768 (two 0x3FFC 0)) 768 (jw 3 1 0 0 4) F ∧ runsOn (eng 768 (two 0x3FFC 0)) 768 (jw 3 1 0 0 0xFFFF) F
      ∧ (0x3FFC + BitVec.ofInt 32 (sext 16 0xFFFF) : Word).toNat = 0x3FFB ∧ 0x3FFB % 4 ≠ 0
      ∧ ((eng 768 { bdma := some ⟨1, true, 0x3FFC, 0, 1, false, 0⟩ }).eng 768).bdmaTouches true 0x3FFC = true := by
  unfold runsOn issues atBoundary holds goesOn; simp only [soundMemory_iff]; decide
theorem wit_SpecialReads :
    runsOn (eng 0) 0 (jw 3 0 0 0 0x1FF) { dm := 31, bm := 31, em := 1, im := 0x1FF, rd := true, rb := true }
      ∧ (eng 0).verdictAt 0x1FF ((eng 0).now - 1) = none
      ∧ { eng 0 with verdicts := [(0x1FF, ⟨255, true, 3, true⟩)] }.verdictAt 0x1FF 99 = some ⟨255, true, 3, true⟩
      ∧ runsOn (eng 0) 0 (jw 3 0 0 0 0xFF) { dm := 31, bm := 31, em := 1, im := 0xFF, rd := true, rb := true, l1 := false }
      ∧ runsOn (eng 0) 0 (jw 3 0 0 0 0x3F) { dm := 31, im := 0x3F, rd := true }
      ∧ runsOn (eng 0) 0 (jw 0 1 0 0 0x20) { am := 31, im := 0x3F, ra := true }
      ∧ runsOn (eng 0) 0 (jw 30 0 0 1 0) { dm := 31, em := 1, rd := true } := by unfold runsOn issues atBoundary holds goesOn; simp only [soundMemory_iff]; decide

/-- Engine 0 with a bulk window of 64 bytes. -/
def bdmaEng (loc : Word) (b : Option Bdma := none) : State :=
  eng 0 { g := [(1, loc), (2, 0)], img := some ⟨2, 0, 0, 0, 64⟩, bdma := b }
theorem wit_BulkTransfers :
    let F : Form := { dm := 7, am := 31, bm := 31, em := mField .te, im := 0x80001FFF, ra := true, rb := true, pd := true, l1 := false }
    runsOn (bdmaEng 0x3FC0) 0 (jw 7 1 2 0 16) F ∧ 0x3FC0 + 4 * 16 ≤ 0x4000 ∧ 0 + 4 * 16 ≤ 64
      ∧ runsOn (bdmaEng 0x3FC4) 0 (jw 7 1 2 0 16) F ∧ 0x4000 < 0x3FC4 + 4 * 16
      ∧ runsOn (bdmaEng 2) 0 (jw 7 1 2 0 16) F ∧ 2 % 4 ≠ 0 ∧ runsOn (bdmaEng 0) 0 (jw 7 1 2 0 17) F ∧ 64 < 0 + 4 * 17
      ∧ runsOn (bdmaEng 0 (some ⟨1, false, 0, 0, 1, false, 0⟩)) 0 (jw 7 1 2 0 4096) F := by
  unfold runsOn issues atBoundary holds goesOn; simp only [soundMemory_iff]; decide
theorem wit_BulkTransfers_end :
    let s := bdmaEng 0 (some ⟨7, false, 0, 60, 1, true, 0⟩)
    s.power = true ∧ (s.eng 0).bdma = some ⟨7, false, 0, 60, 1, true, 0⟩ ∧ s.bulkServed 60 = true ∧ s.notPoisoned 60 4 = true
      ∧ (set s [(memStatInService, 14)]).bulkServed 60 = false
      ∧ ((set s [(memStatInService, 14)]).eng 0).bdma = some ⟨7, false, 0, 60, 1, true, 0⟩ := by decide

/-- ME 768 with an accumulation of one product of memory operands left. -/
def accs : State := eng 768 { me := { run := some ⟨0, 2, false, none, 1, 200, false, 0⟩ } }
theorem wit_Accumulation_frame : (({} : Eng)).me.run = none := by decide
theorem wit_Accumulation : (atIssue accs 768).interlocked 768 = true ∧ (atIssue (eng 768) 768).interlocked 768 = false
    ∧ runsOn (eng 768) 768 w0 { te := false, fe := false }
    ∧ runsOn accs 768 (jw 0 0 0 1 0xFFF) { em := 1, im := 0xFFF, te := false, fe := false } ∧ runsOn accs 768 w0 { te := false, fe := false }
    ∧ runsOn accs 768 (jw 3 0 0 1 47) { dm := 31, em := 1, im := 0x3F, rd := true, te := false, fe := false }
    ∧ runsOn (eng 768) 768 (jw 0 0 0 1 0xFFF) { em := 1, im := 0xFFF, te := false, fe := false }
    ∧ ({} : Eng).me.wins.find? winPending = none
    ∧ ([⟨0, 1, 8, false, 0, 0, false⟩] : List MeWin).find? winPending = some ⟨0, 1, 8, false, 0, 0, false⟩
    ∧ runsOn (eng 768) 768 (jw 0 0 0 7 4096) { em := 0x17, im := 0x1FFF, te := false, fe := false, l1 := false }
    ∧ runsOn (eng 768 { me := { accI := 2 ^ 31 - 1, accQ := -2 ^ 31 - 1 } }) 768 (jw 3 0 0 1 0)
        { dm := 31, em := 1, im := 0x3F, rd := true, te := false, fe := false }
    ∧ (2 ^ 31 - 1 : Int) < 2 ^ 31 ∧ (-2 ^ 31 - 1 : Int) < -(2 ^ 31) := by unfold runsOn issues atBoundary holds goesOn; simp only [soundMemory_iff]; decide
theorem wit_Accumulation_end : accs.power = true ∧ accs.mode ≠ .boot ∧ (accs.eng 768).accEnd = some 201 ∧ accs.now ≤ 201
    ∧ (accs.eng 768).me.run = some ⟨0, 2, false, none, 1, 200, false, 0⟩ ∧ 200 + 1 < 2 ^ 64
    ∧ (accs.eng 768).me.ag0.off < (accs.eng 768).me.ag0.len ∧ (accs.eng 768).me.ag2.off < (accs.eng 768).me.ag2.len := by decide

theorem wit_MeasurementResults_generators :
    let F : Form := { am := 31, bm := 31, em := 3, im := 1, ra := true, rb := true, te := false, fe := false }
    runsOn (eng 768 (two 0 4096)) 768 (jw 0 1 2 3 1) F ∧ 0 + 4 * 4096 ≤ 0x4000
      ∧ runsOn (eng 768 (two 4 4096)) 768 (jw 0 1 2 3 1) F ∧ 0x4000 < 4 + 4 * 4096
      ∧ runsOn (eng 768 (two 2 1)) 768 (jw 0 1 2 3 1) F ∧ 2 % 4 ≠ 0 := by unfold runsOn issues atBoundary holds goesOn; simp only [soundMemory_iff]; decide
theorem wit_MeasurementResults_tables :
    let F : Form := { dm := 31, am := 31, bm := 31, em := 1, im := 0x3FFF, rd := true, ra := true, rb := true, te := false, fe := false }
    runsOn (eng 768) 768 (jw 3 1 2 0 0x3FE0) F ∧ 0x3FE0 + 32 ≤ 0x4000 ∧ 0x3FE0 % 4 = 0 ∧ runsOn (eng 768) 768 (jw 3 1 2 0 0x3FE4) F
      ∧ 0x4000 < 0x3FE4 + 32 ∧ runsOn (eng 768) 768 (jw 3 1 2 1 2) F ∧ 2 % 4 ≠ 0 ∧ runsOn (eng 768) 768 (jw 3 1 2 1 0x37F4) F
      ∧ 0x37F4 + 2060 ≤ 0x4000 := by unfold runsOn issues atBoundary holds goesOn; simp only [soundMemory_iff]; decide
theorem wit_MeasurementResults :
    runsOn (eng 1023 (two 7 0x0FFFF7FF)) 1023 (jw 0 1 2 0 0) { am := 31, bm := 31, ra := true, rb := true, te := false, fe := false }
      ∧ runsOn (eng 1023 (two 7 0x0FFFF7FF)) 1023 (jw 0 1 2 0 0)
          { am := 31, bm := 31, ra := true, rb := true, te := false, fe := false, l1 := false }
      ∧ ((eng 1023).acq (inputOf 1023)).state ≠ .hist
      ∧ runsOn (eng 768) 768 (jw 0 24 0 1 7) { am := 31, em := 1, im := 7, ra := true, te := false, fe := false } ∧ 24 + 7 ≤ 31
      ∧ ((eng 768).eng 768).me.recs.length < 4 ∧ (atIssue (eng 768) 768).interlocked 768 = false
      ∧ runsOn accs 768 (jw 0 24 0 1 7) { am := 31, em := 1, im := 7, ra := true, te := false, fe := false }
      ∧ (atIssue accs 768).interlocked 768 = true := by unfold runsOn issues atBoundary holds goesOn; simp only [soundMemory_iff]; decide

/-! Obligations about the timeline. -/

theorem wit_TimelineIssue_sets :
    let F : Form := { dm := 1, am := 31, bm := 31, em := 31, im := 0xFFFFFFFF, ra := true }
    runsOn (eng 0) 0 (jw 0 0 31 31 0xFFFFFFFF) F ∧ runsOn (eng 0) 0 (jw 1 30 0 0 0) F
      ∧ runsOn (eng 0) 0 (jw 0 0 0 0 0xFFFFFFFF) { bm := 31, em := 1, im := 0xFFFFFFFF, rb := true }
      ∧ issues (eng 0) 0 wSkip F ∧ issues (eng 0) 0 wSkip { bm := 31, em := 1, im := 0xFFFFFFFF, rb := true }
      ∧ ¬ holds (eng 0) 0 wSkip ∧ goesOn (eng 0) 0 := by
  unfold runsOn issues atBoundary holds goesOn; simp only [soundMemory_iff]; decide

/-- Thirty-two effects, the most a TE queues. -/
def full : List QEff := List.replicate 32 ⟨5000, .hold 1⟩
/-- TSET's word and form. -/
def wT : JWord := jw 0 0 0 0 7
def fT : Form := { im := 7, fe := false, me := false }

theorem wit_TimelineIssue : timelineOf (.tset 0 wT) = some (0, wT, fT, true, 0) ∧ runsOn (eng 0 { queue := full }) 0 wT fT true
    ∧ 32 ≤ ({ queue := full } : Eng).depth ∧ runsOn (eng 0 { tc := 139, lateCue := false, latePol := false }) 0 wT fT true
    ∧ 139 < (eng 0).now + 40 ∧ runsOn (eng 0 { tc := 2147483749 }) 0 wT fT true ∧ (eng 0).now + 2 ^ 31 < 2147483749
    ∧ runsOn (eng 0 { tc := 2147483748, lastTc := some 2147483749 }) 0 wT fT true
    ∧ issues (eng 0 { tc := 139 }) 0 { wT with pinv := true } fT true ∧ ¬ holds (eng 0) 0 { wT with pinv := true }
    ∧ goesOn (eng 0 { tc := 139 }) 0 := by
  unfold runsOn issues atBoundary holds goesOn; simp only [soundMemory_iff]; exact ⟨rfl, by decide⟩
theorem wit_TimelineIssue_illegal : timelineOf (.wopen 768 (jw 0 0 0 0 4001)) = some (768, jw 0 0 0 0 4001,
      { im := 0x1FFF, te := false, fe := false }, false, 8002)
    ∧ issues (eng 768) 768 (jw 0 0 0 0 4001) { im := 0x1FFF, te := false, fe := false } true := by
  unfold issues atBoundary; simp only [soundMemory_iff]; exact ⟨rfl, by decide⟩

/-- A TE or FE whose tc lies 40 ticks ahead, the least lead. -/
def lead (g : Eng := {}) (e : Nat := 0) : State := eng e { g with tc := 140 }

theorem timely_of {s : State} {e : Nat} {f : JWord} {F : Form} (h1 : runsOn s e f F true)
    (h2 : ((atIssue s e).eng e).depth < (if clsOf e = .me then 8 else 32)) (h3 : ((atIssue s e).eng e).tc.toNat ≤ (atIssue s e).now + 2 ^ 31)
    (h4 : ((atIssue s e).eng e).lastTc = none)
    (h5 : (atIssue s e).now + (if clsOf e = .me then 24 else 40) ≤ ((atIssue s e).eng e).tc.toNat) : timely s e f F :=
  ⟨h1, h2, h3, fun l h => (by rw [h4] at h; cases h), h5⟩

theorem wit_Deposits_plays :
    timely (lead (two 2047 0)) 0 (jw 0 0 1 1 0x7F800) { bm := 31, em := 1, im := 0x7FFFF, rb := true, me := false }
      ∧ timely (lead) 0 (jw 0 1 0 31 0xFFFFFFFF) { am := 31, em := 31, im := 0xFFFFFFFF, ra := true, me := false }
      ∧ timely (lead) 0 (jw 0 0 0 0 0xFFFFFF) { bm := 31, em := 1, im := 0xFFFFFF, rb := true, me := false }
      ∧ timely (lead) 0 (jw 0 0 0 0 0) { bm := 31, em := 1, im := 0xFFFFFF, rb := true, me := false } :=
  ⟨timely_of (by unfold runsOn issues atBoundary holds goesOn; simp only [soundMemory_iff]; decide) (by decide) (by decide) rfl (by decide),
   timely_of (by unfold runsOn issues atBoundary holds goesOn; simp only [soundMemory_iff]; decide) (by decide) (by decide) rfl (by decide),
   timely_of (by unfold runsOn issues atBoundary holds goesOn; simp only [soundMemory_iff]; decide) (by decide) (by decide) rfl (by decide),
   timely_of (by unfold runsOn issues atBoundary holds goesOn; simp only [soundMemory_iff]; decide) (by decide) (by decide) rfl (by decide)⟩
theorem wit_Deposits_tones :
    timely (lead) 0 (jw 0 30 0 0 0) { am := 30, fe := false, me := false } ∧ ((atIssue lead 0).eng 0).level ≠ 1
      ∧ timely (lead) 0 (jw 0 0 31 1 0) { bm := 31, em := 1, im := 0xFFFFFFFF, rb := true, fe := false, me := false }
      ∧ timely (lead { img := some ⟨1, 0, 0, 0, 0⟩ }) 0 (jw 0 0 0 0 0xFFFFFFFF) { im := 0xFFFFFFFF, fe := false, me := false }
      ∧ timely (lead { img := some ⟨1, 0, 0, 0, 0⟩ }) 0 (jw 0 0 0 0 0xFFFF) { im := 0xFFFF, fe := false, me := false } :=
  ⟨timely_of (by unfold runsOn issues atBoundary holds goesOn; simp only [soundMemory_iff]; decide) (by decide) (by decide) rfl (by decide), by decide,
   timely_of (by unfold runsOn issues atBoundary holds goesOn; simp only [soundMemory_iff]; decide) (by decide) (by decide) rfl (by decide),
   timely_of (by unfold runsOn issues atBoundary holds goesOn; simp only [soundMemory_iff]; decide) (by decide) (by decide) rfl (by decide),
   timely_of (by unfold runsOn issues atBoundary holds goesOn; simp only [soundMemory_iff]; decide) (by decide) (by decide) rfl (by decide)⟩
theorem wit_Deposits_settings :
    timely (lead) 0 (jw 0 0 0 0 0xFFFF) { bm := 31, em := 1, im := 0xFFFF, rb := true, me := false } ∧ timely (lead) 0 wT fT
      ∧ timely (lead) 0 (jw 0 0 0 0 0xFFFF0007) { im := 0xFFFF0007, me := false } ∧ (0xFFFF0007 : Word).bits 31 16 ≠ 0
      ∧ timely (lead) 0 (jw 0 1 0 0 0xFFF) { am := 31, im := 0xFFF, ra := true, me := false, l1 := false }
      ∧ timely (lead {} 767) 767 (jw 0 0 0 0 0x3FFFF) { bm := 31, em := 1, im := 0x3FFFF, rb := true, te := false, me := false }
      ∧ timely (lead {} 768) 768 (jw 0 0 0 0 4000) { im := 0x1FFF, te := false, fe := false } ∧ (4000 : Word).bits 11 0 ≤ 4000 :=
  ⟨timely_of (by unfold runsOn issues atBoundary holds goesOn; simp only [soundMemory_iff]; decide) (by decide) (by decide) rfl (by decide),
   timely_of (by unfold runsOn issues atBoundary holds goesOn; simp only [soundMemory_iff]; decide) (by decide) (by decide) rfl (by decide),
   timely_of (by unfold runsOn issues atBoundary holds goesOn; simp only [soundMemory_iff]; decide) (by decide) (by decide) rfl (by decide), by decide,
   timely_of (by unfold runsOn issues atBoundary holds goesOn; simp only [soundMemory_iff]; decide) (by decide) (by decide) rfl (by decide),
   timely_of (by unfold runsOn issues atBoundary holds goesOn; simp only [soundMemory_iff]; decide) (by decide) (by decide) rfl (by decide),
   timely_of (by unfold runsOn issues atBoundary holds goesOn; simp only [soundMemory_iff]; decide) (by decide) (by decide) rfl (by decide), by decide⟩
theorem wit_Deposits_part : partOk 511 0xCC0 {} = true ∧ partOk 767 0x53 {} = true ∧ partOk 767 0x54 {} = false := by decide

/-- TE 0's open store holds, as routine 255, one UEND, and as routine 0 a UADDI and a UEND. -/
def storeMem : Memory := memSetWords (memSetWords (memSetWords [] (ucsDir .te + 1020) [0x80000000]) (ucsDir .te) [0x80000001])
  (ucsStore .te) [5 * 2 ^ 26, 8 * 2 ^ 26 + 3 * 2 ^ 20 + 1 * 2 ^ 14 + 2 ^ 13 + 7, 5 * 2 ^ 26]
def stores : State := { eng 0 with sram := storeMem }
theorem wit_MicroRoutines :
    let F : Form := { dm := 31, am := 31, bm := 31, im := 0xFF, rd := true, ra := true, rb := true, l1 := false }
    runsOn stores 0 (jw 0 0 0 0 0xFF) F ∧ (memWord stores.sram (ucsDir .te + 1020)).bit 31 = true ∧ stores.stopAt = none
      ∧ (stores.eng 0).haltReq = false ∧ stores.mode ≠ .boot ∧ stores.now + 1 < 2 ^ 64
      ∧ uMop (memWord stores.sram (ucsStore .te)) = 5
      ∧ runsOn stores 0 (jw 0 0 0 0 0) F ∧ (memWord stores.sram (ucsDir .te)).bits 10 0 = 1
      ∧ (memWord stores.sram (ucsDir .te + 4)).bit 31 = false := by
  unfold runsOn issues atBoundary holds goesOn; simp only [soundMemory_iff]; decide
def atRest : Routine := { num := 255, start := 0, len := 1, d := 0, a := 0, b := 0, pc := 0, resume := some 100 }
/-- The arithmetic microword of `stores`, its fields, and a routine at rest that ends. -/
theorem wit_MicroRoutines_more :
    let w := memWord stores.sram (ucsStore .te + 4)
    uMop w = 8 ∧ uX w < 32 ∧ uY w < 32 ∧ uZ w 13 13 = 1 ∧ uMop (memWord stores.sram (ucsStore .te + 8)) = 5
      ∧ ((eng 0 { routine := some atRest }).eng 0).routine = some atRest ∧ atRest.resume = some 100 ∧ atRest.rolling = none
      ∧ liveState ((eng 0 { routine := some atRest }).eng 0).state = true := by decide

/-- An engine with one effect queued for tick 100. -/
def lands (e : Nat) (x : Eff) : State := eng e { queue := [⟨100, x⟩] }
theorem wit_EffectsLand : (lands 511 (.setf 5)).power = true ∧ popQueue ((lands 511 (.setf 5)).eng 511).queue = some (⟨100, .setf 5⟩, [])
    ∧ unchosen ⟨100, .setf 5⟩ = false ∧ popQueue ((lands 767 (.flev 5)).eng 767).queue = some (⟨100, .flev 5⟩, [])
    ∧ (lands 767 (.flev 5)).flag (flxStatParked 255) = false ∧ (set (lands 767 (.flev 5)) [(flxStatParked 255, 1)]).flag (flxStatParked 255) = true
    ∧ popQueue ((lands 1023 (.wopen 8 false false)).eng 1023).queue = some (⟨100, .wopen 8 false false⟩, []) := by decide

/-- A fork on verdict entry 3 that is not chosen. -/
def fork : Eff := .playf 1 2 16 16 3 false 2 true 9 none
theorem wit_ForksJumpsHalts_forks :
    let s := { lands 0 fork with verdicts := [(3, ⟨9, true, 1, true⟩)] }
    (s.eng 0).queue.find? unchosen = some ⟨100, fork⟩ ∧ s.verdictAt 3 (forkDeadline 0 100) = some ⟨9, true, 1, true⟩ ∧ 9 % 256 = 9
      ∧ (lands 0 fork).verdictAt 3 (forkDeadline 0 100) = none := by decide

/-- Slot 3 of RF output 63 plays a descriptor with JEN, and a jump has been requested. -/
def jumping : State := { run.setSlot 63 3 { run.slot 63 3 with play := some { seg := 1, w0 := 0xA0000000, b := 0, dur := 16, reps := 0 }, jump := some 0 } with tt := 5 }
theorem wit_ForksJumpsHalts_jumps : run.alive = true ∧ 3 < nSlots 63 ∧ (run.slot 63 3).jump = none ∧ (jumping.slot 63 3).jump = some 0
    ∧ (run.flx 255).jump = none ∧ ({ run with flux := [(255, { jump := some 0 })] }.flx 255).jump ≠ none
    ∧ (jumping.slot 63 3).play = some { seg := 1, w0 := 0xA0000000, b := 0, dur := 16, reps := 0 } ∧ (jumping.slot 63 3).commits = []
    ∧ dJen 0xA0000000 = true ∧ jumping.power = true ∧ jumping.nextJump 63 3 = some (8, false)
    ∧ ({ jumping with tt := 9 }).nextJump 63 3 = none := by decide
theorem wit_ForksJumpsHalts_halts : (eng 0).alive = true ∧ liveState ((eng 0).engP ((eng 0).windowPhys 0)).state = true
    ∧ ((eng 0).engP 0).routine = none ∧ ((eng 0).engP 0).wait = none ∧ liveState ((eng 0).engP ((eng 0).windowPhys 1087)).state = false
    ∧ ((waits (.syncw 0)).engP 0).wait = some (.syncw 0) ∧ liveState ((waits (.syncw 0)).engP 0).state = true
    ∧ ((waits (.syncw 0)).engP 0).state ≠ .running ∧ ((eng 0).engP 0).ready ≤ (eng 0).now := by decide
theorem wit_ForksJumpsHalts_held : (eng 0 { ready := 101 }).now < ((eng 0 { ready := 101 }).engP 0).ready
    ∧ ((eng 0 { routine := some atRest }).engP 0).state = .running ∧ ((eng 0 { routine := some atRest }).engP 0).routine ≠ none
    ∧ ((run.setEng 0 { state := .waiting, routine := some atRest }).engP 0).routine = some atRest
    ∧ liveState ((run.setEng 0 { state := .waiting, routine := some atRest }).engP 0).state = true := by decide

/-! Obligations about power, BOOT, the Caller and time. -/

/-- BOOT with a good Ghenov copy in the flash. -/
def booting : State := { State.reset with flash := { ghA := { valid := true } } }

theorem wit_PowerResetBoot : stby.power = true ∧ stby.board = true ∧ { stby with board := false, power := false }.board = false
    ∧ { stby with power := false, railWait := true }.railWait = true ∧ { stby with tripped := true, power := false }.tripped = true
    ∧ stby.flashRail = true := by decide
theorem wit_PowerResetBoot_boot : booting.power = true ∧ booting.mode = .boot ∧ booting.bootFailed = false
    ∧ booting.flash.good 1 false = true ∧ FlashPart.accepted ({} : BootResult).part = true ∧ ({} : BootResult).imageOk = true
    ∧ ({} : BootResult).xingBad = [] ∧ ({ xingBad := [4] } : BootResult).xingBad ≠ []
    ∧ ({ ghA := {} } : Flash).good 1 false = false ∧ ({ ghA := {} } : Flash).good 1 true = false
    ∧ FlashPart.accepted ({ part := { mbit := 128 } } : BootResult).part = false := by decide
theorem wit_PowerResetBoot_slips : arm.power = true ∧ arm.bootFailed = false ∧ arm.mode = .armed ∧ (4 : Fin 5).val = 4 ∧ (3 : Fin 5).val < 4 := by
  decide

theorem wit_CallerAndRounds : stby.ghenovRuns = true ∧ stby.power = true ∧ (set stby [(glbCallerStatState, 3)]).fld glbCallerStatState = 3
    ∧ (set stby [(glbCallerStatState, 3)]).mode ≠ .dormant
    ∧ 2 ≤ (set stby [(glbCallerStatCause, 2)]).fld glbCallerStatCause ∧ 3 ≤ [1, 2, 3].length
    ∧ (set stby [(glbCallerStatState, 3)]).flash.good 1 false = true ∧ (set stby [(glbCallerStatState, 3)]).flash.good 1 true = false
    ∧ copies.flash.good 1 true = true
    ∧ { stby with flash := { todo := [.thr 0 0 0] } }.flash.todo = .thr 0 0 0 :: [] ∧ stby.flashOpen = true
    ∧ { stby with flash := { todo := [.thr 0 0 0], jA := { torn := true } } }.flash.torn = true
    ∧ 27 < 28 ∧ (List.replicate 28 (⟨0, 0, false, false⟩ : SensorReading))[27]? = some ⟨0, 0, false, false⟩ := by decide

theorem wit_EpochsAndSnapshots : stby.stbyCal = true ∧ stby.flag clkRefStatLocked = true ∧ stby.pllOn = true
    ∧ ((set stby [(clkEpochArm, 1)]).advanceTo ((set stby [(clkEpochArm, 1)]).now + 10)).flag clkEpochArm = true
    ∧ (stby.advanceTo (stby.now + 10)).flag clkEpochArm = false ∧ stby.mode ≠ .boot
    ∧ { set stby [(clkTimeCtrlStepEn, 1)] with domA := { offset := 1000001 } }.stepOk = true ∧ stby.stepOk = false := by decide

/-- Both references valid, the first active. -/
def refs : State := set stby [(clkRefStatRefaValid, 1), (clkRefStatRefbValid, 1)]
/-- Holdover. -/
def hold : State := set stby [(clkRefStatLocked, 0), (clkRefStatHoldover, 1)]

theorem wit_References : refs.power = true ∧ refs.pllOn = true ∧ refs.flag clkRefStatLocked = true ∧ refs.flag clkRefStatActive = false
    ∧ refs.fld clkRefCtrlRefMode < 2 ∧ refs.refValid true = true ∧ stby.refValid true = false ∧ stby.flag clkRefStatFreeRun = false
    ∧ hold.pllOn = true ∧ hold.flag clkRefStatLocked = false ∧ hold.fld clkRefCtrlRefMode < 2
    ∧ 10 ≤ { hold with refCntA := 9 }.refCnt false + 1 := by decide
theorem wit_References_measured :
    let s0 : State := { hold with refCntA := 9, up := 1000000 }
    let s := s0.measured false
    s0.power = true ∧ s.pllOn = true ∧ s.flag clkRefStatLocked = false ∧ s.fld clkRefCtrlRefMode < 2 ∧ 10 ≤ s.refCnt false + 1
      ∧ ({ refs with up := 1000000 }.measured true).flag clkRefStatLocked = true := by decide
theorem wit_References_modes :
    let s := { set refs [(clkRefCtrlRefMode, 1), (clkRefCtrlPref, 1)] with refCntB := 10010 }
    s.pllOn = true ∧ s.flag clkRefStatLocked = true ∧ s.fld clkRefCtrlRefMode = 1 ∧ s.refValid (s.flag clkRefCtrlPref) = true
      ∧ 10010 ≤ s.refCnt (s.flag clkRefCtrlPref) ∧ s.flag clkRefStatActive ≠ s.flag clkRefCtrlPref
      ∧ (dev .dormant).pllOn = false ∧ (dev .dormant).power = true := by decide
theorem wit_References_holdover : hold.flag clkRefStatHoldover = true ∧ hold.fldIn clkTimeCtrlXen hold.now = 0
    ∧ hold.fld clkHoldDriftEst < 64 ∧ 64 ≤ min 0xFFFF (({ hold with holdUs := 999 }.holdUs + 1) * 64 / 1000)
    ∧ min 0xFFFF (({ hold with holdUs := 998 }.holdUs + 1) * 64 / 1000) < 64
    ∧ 64 ≤ (set hold [(clkHoldDriftEst, 64)]).fld clkHoldDriftEst := by decide

/-- The servo runs for domain A from PTP. -/
def servo : State := { set stby [(clkTimeCtrlServo, 1), (clkTimeCtrlSrcA, 1), (ethCtrlEn, 1)] with domA := { present := true } }
theorem wit_WallTimeAndTrim : servo.ghenovRuns = true ∧ servo.flag clkTimeCtrlServo = true
    ∧ servo.domSrc (servo.flag clkTimeCtrlSel) ≠ 0 ∧ (servo.dom (servo.flag clkTimeCtrlSel)).present = true ∧ servo.servoAt = none
    ∧ 0 ≤ servo.servoFrac ∧ servo.servoFrac < 1000000 ∧ servo.selOffset.natAbs ≤ 1000000
    ∧ 1000000 < { servo with domA := { present := true, offset := -1000001 } }.selOffset.natAbs
    ∧ (set stby [(lnkStatState 5, 4)]).linkState 5 = 4 ∧ cal.mode = .calibrate ∧ { cal with resettling := true }.resettling = true
    ∧ ({ state := .rearm } : Acq).state = .rearm := by decide
/-- Domain A's best master, with a Sync and a Delay_Req behind it. -/
def heard : Dom := { masters := [⟨5, 1, 2, 3, 4, 5, 6, 0, 2⟩], last := some (7, 9), req := some 11, delay := some 1 }
def msg (b : PtpBody) (snd : Nat := 5) : PtpMsg :=
  ⟨BitVec.ofNat 7 (servo.fld clkPtpCfgDomainA), BitVec.ofNat 2 (servo.fld clkPtpCfgTransportA), snd, 0, b⟩
theorem wit_WallTimeAndTrim_ptp : servo.alive = true ∧ servo.mode ≠ .boot ∧ servo.flag ethCtrlEn = true
    ∧ servo.ptpSuits false (msg (.sync 1 false 2 3)) = true ∧ servo.ptpSuits false (msg (.sync 1 true 2 3)) = true
    ∧ servo.ptpSuits false (msg (.announce ⟨5, 1, 2, 3, 4, 5, 6, 0, 1⟩)) = true
    ∧ servo.ptpSuits true (msg (.sync 1 false 2 3)) = false
    ∧ ({ servo with domA := heard }.dom false).masters.length = 1
    ∧ (bestMaster ({ servo with domA := heard }.dom false).masters).map (·.sender) = some 5
    ∧ ({ servo with domA := heard }.dom false).delay = some 1 ∧ { servo with domA := heard }.ptpSuits false (msg (.delayResp 4 0)) = true
    ∧ servo.flag clkPtpCfgDelayA = false ∧ ({ servo with domA := heard }.dom false).last = some (7, 9)
    ∧ ({ servo with domA := heard }.dom false).req = some 11 := by decide
theorem wit_WallTimeAndTrim_root : servo.pllOn = true ∧ (set servo [(clkTimeCtrlRootB, 1)]).flag clkTimeCtrlRootB = true
    ∧ servo.now % 2 ^ 20 = 0 ∧ (servo.dom true).sent ≠ servo.now / 2 ^ 20 + 1 ∧ servo.now / 2 ^ 20 + 1 ≠ 2 := by decide
theorem wit_WallTimeAndTrim_room : hasRoom (set stby [(lnkStatState 5, 4)]) 5 4 3 := by unfold hasRoom; decide

/-! Obligations about outputs, segments and rings. -/

theorem wit_OutputEvents : stby.alive = true ∧ run.mode = .run ∧ (set stby [(flxStatOn 255, 1)]).flag (flxStatOn 255) = true
    ∧ stby.fld (flxCtrlFact 255) ≠ 1 ∧ (set stby [(flxCtrlFact 255, 1)]).fld (flxCtrlFact 255) = 1
    ∧ (set stby [(flxCtrlFact 255, 2)]).fld (flxCtrlFact 255) = 2
    ∧ (set stby [(flxStatRamping 255, 1)]).flag (flxStatRamping 255) = true ∧ stby.flag (flxStatRamping 255) = false
    ∧ ({ set stby [(flxStatRamping 0, 1)] with flux := [(0, { ramp := some ⟨0, 5, 5, 1, true⟩ })] }.flx 0).ramp = some ⟨0, 5, 5, 1, true⟩
    ∧ (set run [(glbStreamStatShotInval, 1)]).flag glbStreamStatShotInval = true := by decide
/-- RFI 0 is on, and its channel 0's ME has one window, of sample 36 on. -/
def demod : State := set (eng 768 { me := { wins := [⟨0, 36, 2, false, 0, 0, false⟩] } }) [(rfiStatOn 0, 1)]
theorem wit_OutputEvents_demod : demod.alive = true ∧ demod.flag (rfiStatOn 0) = true
    ∧ (demod.advanceTo (2 * 36 + 28)).eng 768 = demod.eng 768 ∧ (demod.eng 768).me.run = none
    ∧ (demod.eng 768).me.wins = [⟨0, 36, 2, false, 0, 0, false⟩] ∧ clampsS 16 32768 = true ∧ clampsS 16 32767 = false := by decide

theorem wit_SegmentsAndRings : stby.alive = true ∧ stby.gateDesc 335 2047 = false ∧ playing.gateDesc 0 2047 = true
    ∧ dValid 0x80000000 = true ∧ descOk 335 0x80000000 32768 = true ∧ descOk 335 0x80000000 32784 = false ∧ dValid 0x7FFFFFFF = false
    ∧ granOf 0x7FFFFFC = some (335, 2047) ∧ granOf 0x8000000 = none ∧ stby.gateGran 335 2047 1 = false ∧ (0x7FFFFFC : Nat) % 4 = 0 := by decide
theorem wit_SegmentsAndRings_gate :
    let s := set stby [(rfoRingStatOpen 0 0, 1), (rfoRingCfgRbase 0 0, 100), (rfoRingCfgRlen 0 0, 64)]
    s.gateGran 0 100 1 = true ∧ s.gateGran 0 163 1 = true ∧ s.gateGran 0 164 1 = false ∧ s.gateGran 0 99 1 = false := by decide
theorem wit_SegmentsAndRings_library : ∀ o, stby.activeOf o = [] := fun _ => rfl
/-- A ring of 64 granules that can open, and the same one open. -/
def ringSet : State := set stby [(glbStreamStatLimit, 20), (rfoRingCfgRlen 79 3, 64), (rfoRingSrcLenLen 79 3, 1)]
def ringOn : State := set ringSet [(rfoRingStatOpen 79 3, 1), (glbStreamStatOpenCnt, 1)]
theorem wit_SegmentsAndRings_rings : ringSet.flag (rfoRingStatOpen 79 3) = false ∧ ringSet.openRefused 79 3 = none
    ∧ stby.openRefused 79 3 = some 4 ∧ ringOn.flag (rfoRingStatOpen 79 3) = true ∧ ringOn.mode ≠ .run ∧ ringOn.mode ≠ .safe
    ∧ (ringOn.ring 79 3).stopped = false ∧ (ringOn.ring 79 3).present = [] ∧ ringOn.bulkUsable 0 64 = true ∧ ringOn.notPoisoned 0 64 = true
    ∧ (set ringOn [(memStatInService, 14)]).bulkUsable 0 64 = false := by decide

/-! Obligations about cues and the Quarry. -/

/-- A cue of channel 5 due at tick 100, with a last cue on it at tick 95, and one of channel 6. -/
def cues : State := { set (eng 0 { listen := some 6 }) [(cueChHold 5, 5)] with due := [⟨100, 5⟩, ⟨100, 6⟩], lastCue := [(5, 95)] }
/-- Cell 255 as a window filter on a constant 1, live. -/
def filt : State := { (set stby [(cueStatPassed, 1)]).setReg ⟨.cueCellCfg, 255, 0⟩ 0x80000000 with cells := [(255, { o := true, oneSince := some 0 })] }

theorem wit_CueFabric_appear : cues.fabricOn = true ∧ cues.fabricNext = some 100 ∧ tabFind cues.lastCue 6 = none
    ∧ (((cues.mesTo 99).advanceTo 100).engP 0).listen = some 6 ∧ liveState (((cues.mesTo 99).advanceTo 100).engP 0).state = true
    ∧ (((cues.mesTo 99).advanceTo 100).engP 0).wait = none ∧ tabFind cues.lastCue 5 = some 95
    ∧ (100 : Int) ≤ 95 + cues.fld (cueChHold 5) := by decide
theorem wit_CueFabric : stby.fabricOn = true ∧ stby.stbyCal = true ∧ cueReg 0x1000 ≠ none ∧ { stby with cueChk := true }.cueChk = true
    ∧ { stby with cueChk := true }.cueCheck [] = none ∧ stby.fabricNext = none := by decide +kernel
theorem wit_CueFabric_edges : (set stby [(mvpTrigCfgEdge 3, 2)]).fld (mvpTrigCfgEdge 3) = 2
    ∧ ({ stby with tdc := [(7, 1000)] }).tdc = [(7, 1000)] ∧ 1000 + 512 ≤ 1512 ∧ 1511 < 1000 + 512
    ∧ ({ set stby [(acqTrigTsrc 15, 2), (acqTrigTsel 15, 3)] with acqs := [(15, { state := .fill })] }).lineUnits 7 = [15] := by decide

/-- The Quarry runs with ancilla 2,047 enabled; an outcome for bench b is on its way. -/
def qry (b : Nat) : State := { set stby [(qryStatState, 1), (qryAncEn 2047, 1)] with pubs := [⟨0, 2047, b, true, true⟩] }
theorem wit_QuarryUnit_outcome : (qry 0).pubs = [⟨0, 2047, 0, true, true⟩] ∧ 0 ≤ ((qry 0).advanceTo 0).now
    ∧ (qry 0).fld qryStatState ≠ 0 ∧ (qry 0).flag (qryAncEn 2047) = true ∧ (set (qry 0) [(qryAncEn 2047, 0)]).flag (qryAncEn 2047) = false := by decide
theorem wit_QuarryUnit_benches : 32768 ≤ (qry 0).qOff 32768 ∧ (qry 0).qOff 32767 < 32768 ∧ (qry 0).qS ≤ (qry 0).qOff 32767
    ∧ (qry 0).qIsClosed 32767 = false ∧ (set (qry 0) [(qryWinClosed, 3)]).qIsClosed 3 = true
    ∧ (set (qry 0) [(qryWinClosed, 65535)]).qOff 0 < (qry 0).qS ∧ (set (qry 0) [(qryWinClosed, 65535)]).qIsClosed 0 = false
    ∧ ((qry 0).qNode 0 2047).present = false := by decide
/-- A decode of bench 0 in progress. -/
def deco (fs js ls : List Nat) : State := { set stby [(qryStatState, 2), (qryWinClosed, 0)] with qry := { dec := some ⟨0, 0, fs, js, ls, 0⟩, uncov := [(0, 0)] } }
theorem wit_QuarryUnit : tabFind ({ opened := [(0, 0)] } : Qry).opened ((stby.qClosed + 1) % 65536) = some 0
    ∧ (set stby [(qryTmoBenchTmo, 5)]).fld qryTmoBenchTmo ≠ 0 ∧ (deco [] [] []).qry.dec = some ⟨0, 0, [], [], [], 0⟩
    ∧ (∀ f ∈ [5], f ∈ [5]) ∧ (deco [5] [5] []).qry.dec = some ⟨0, 0, [5], [5], [], 0⟩ ∧ [5] ≠ []
    ∧ (deco [] [] []).decodeLocal 0 = .commit ⟨[], [], 0, 0⟩ ∧ (deco [] [] []).toldHandoff ⟨0, 0, [], [], [], 0⟩ = none
    ∧ ({ deco [5] [5] [] with qry := { results := [(5, 0, 1)] } }).toldHandoff ⟨0, 0, [5], [5], [], 0⟩ = some 1
    ∧ (deco [5] [] []).qry.dec = some ⟨0, 0, [5], [], [], 0⟩ ∧ 5 ∈ [5] ∧ 5 ∉ ([] : List Nat)
    ∧ (deco [] [] []).qry.uncov = (0, 0) :: [] ∧ (deco [] [] []).flag qryStatBacklog = false := by decide +kernel
theorem wit_QuarryUnit_host : (set stby [(qryStatState, 3)]).alive = true ∧ (0x80000000 : Word).bit 31 = true
    ∧ (set stby [(qryStatState, 3)]).fld qryStatState = 3 ∧ (set stby [(qryStatState, 3), (qryWinClosed, 0)]).qIsClosed 0 = true
    ∧ (set stby [(qryStatState, 3)]).qIsClosed 32767 = false ∧ stby.stbyCal = true ∧ (0xFFFFC : Nat) % 4 = 0 ∧ qryReg 0x3FFC ≠ none
    ∧ { stby with qry := { chk := true } }.qry.chk = true
    ∧ { set stby [(qryCfgAbits, 11), (qryCfgW, 2), (qryCfgLag, 1)] with qry := { chk := true } }.qryCheck false = none
    ∧ { set stby [(qryCfgAbits, 12)] with qry := { chk := true } }.qryCheck false = some (3, 0) := by decide +kernel

/-! Obligations about acquisition, vectors and tallies. -/

/-- An acquisition unit in a state. -/
def acq (u : Nat) (a : Acq) (fs : List (Fld × Nat) := []) : State := { set stby fs with acqs := [(u, a)] }
theorem wit_AcquisitionRecords : (acq 15 { armAt := some 0 }).alive = true ∧ ((acq 15 { armAt := some 0 }).acq 15).armAt = some 0
    ∧ (acq 15 {} [(acqCfgMode 15, 1)]).fld (acqCfgMode 15) = 1 ∧ (acq 15 {}).acqEndless 15 = false
    ∧ ((acq 15 {} [(acqCfgStream 15, 1)]).setReg ⟨.acqPost, 15, 0⟩ 0).acqEndless 15 = true
    ∧ ((acq 15 { state := .fill, trigs := [⟨0, 0, []⟩] }).acq 15).trigs = [⟨0, 0, []⟩] ∧ (acq 15 {} [(acqTrigTsrc 15, 3)]).fld (acqTrigTsrc 15) = 3
    ∧ ({} : Acq).ttNext = 0 ∧ (acq 15 {}).rd64 .acqTtTrigLo .acqTtTrigHi 15 = 0
    ∧ ({ state := .held } : Acq).state = .held ∧ { stby with resettling := true }.resettling = true ∧ stby.resettling = false
    ∧ ({ state := .fill } : Acq).fillAt ≤ stby.acqWriteTick 15 (stby.acqFirst 15 0)
    ∧ stby.acqWriteTick 15 (stby.acqFirst 15 0) < ({ state := .fill, fillAt := 1000 } : Acq).fillAt := by decide
theorem wit_AcquisitionRecords_samples :
    ({ state := .capture, rcd := some { num := 0, t := 0, wt := [], first := 0 } } : Acq).rcd = some { num := 0, t := 0, wt := [], first := 0 }
      ∧ (acq 15 {}).rdn .acqPost 15 ≤ 0 + 1 ∧ (acq 15 {}).rdn .acqPost 15 ≠ 0
      ∧ ((acq 15 {}).setReg ⟨.acqPost, 15, 0⟩ 0).rdn .acqPost 15 = 0
      ∧ (acq 15 {}).fld (acqNrecNrec 15) = 0 ∧ (acq 15 { state := .noSpace }).acqHasRoom 15 = true
      ∧ ({ opened := true, num := 0, t := 0, wt := [], first := 0 } : AcqRec).opened = true := by decide
theorem wit_AcquisitionLines : (acq 15 { held := 1, done := 1 } [(acqCfgDest 15, 2), (hstRrCfgEn 15, 1)]).fld (acqCfgDest 15) ≠ 0
    ∧ ((acq 15 { held := 1, done := 1 }).acq 15).done ≠ 0
    ∧ (acq 15 {} [(acqCfgDest 15, 2), (hstRrCfgEn 15, 1)]).acqDestRoom 15 2 = true
    ∧ ((acq 15 {}).setReg ⟨.acqBulkLen, 15, 0⟩ 128).acqDestRoom 15 1 = true ∧ (acq 15 {}).bulkUsable 0 64 = true := by decide
theorem wit_AcquisitionLines_records :
    let s := eng 1023 { me := { recs := [⟨1023, 50, false, [1], none⟩] } }
    ((List.range 16).map (fun i => 768 + 16 * 15 + ((s.acq 15).rr + i) % 16)).find? (fun e => !(s.eng e).me.recs.isEmpty) = some 1023
      ∧ (s.eng 1023).me.recs = ⟨1023, 50, false, [1], none⟩ :: [] ∧ (set s [(acqRecDestDest 15, 0)]).fld (acqRecDestDest 15) = 0
      ∧ (s.fld (acqRecDestDest 15) = 1 ∧ (set s [(hstRrCfgEn 15, 1)]).acqDestRoom 15 2 = true) := by decide

theorem wit_VectorPort : stby.stbyCal = true ∧ (0x80000000 : Word).bits 10 0 < 1536
    ∧ routed ((stby.setReg ⟨.mvpPinCfg, 1, 0⟩ 0x80000000).rd .mvpPinCfg 1) = some 0 ∧ stby.mvpRuns = false
    ∧ { cal with mvp := { running := true } }.mvpRuns = true ∧ (0x1FFFFC : Nat) % 4 = 0 ∧ 0x1FFFFC + 4 * 1 ≤ 0x200000
    ∧ cal.power = true ∧ cal.mode = .calibrate ∧ (0xA0000000 : Word).bit 31 = true ∧ cal.tsRange = false
    ∧ cal.rd64 .mvpVstartLo .mvpVstartHi < cal.now + 1000
    ∧ (set cal [(mvpVecRangeVstartVec, 1)]).tsRange = true := by decide
theorem wit_VectorPort_runs : ({ running := true, next := some 5, per := 2 } : Mvp).next = some 5
    ∧ ({ running := true, goCue := some 3 } : Mvp).goCue ≠ none
    ∧ { cal with mvp := { running := true, next := some 0, last := 0, rep := 1, loops := 1, loop := 0 } }.mvpRuns = true
    ∧ strobeFails 4 false false ≠ strobeFails 4 true true := by decide

/-- A tally unit over one frame of eight bytes. -/
def tal (fs : List (Fld × Nat)) : State := (set stby ([(talCfgFlen 15, 8), (talCfgFrame 15, 1)] ++ fs)).setReg ⟨.talLen, 15, 0⟩ 8
theorem wit_TallyUnits : (tal []).alive = true ∧ (tal [(talStatBusy 15, 1)]).flag (talStatBusy 15) = true ∧ (tal []).flag (talStatBusy 15) = false
    ∧ (tal []).tallyRefuse 15 0 = none ∧ stby.tallyRefuse 15 0 = some 1 ∧ (tal [(talStatBusy 15, 1)]).tallyCan 15 = true
    ∧ (tal [(talStatBusy 15, 1), (talCfgFrame 15, 0)]).tallyCan 15 = true
    ∧ { tal [] with poison := [0] }.tallyGood 15 < 8 ∧ ({ halt := true } : Tally).halt = true ∧ ({ stop := true } : Tally).halt = false := by decide

/-! Obligations about links and frames. -/

/-- Link 5 in a state. -/
def lnk (n : Nat) (fs : List (Fld × Nat) := []) : State := set stby ([(lnkStatState 5, n), (lnkStatVer 5, 2), (lnkLaneActive 5, 15)] ++ fs)
theorem wit_LinkUp : (lnk 0).mayTrain 5 = true ∧ ((lnk 0).link 5).retry = false ∧ { lnk 0 with links := [(5, { retry := true })] }.mayTrain 5 = true
    ∧ (lnk 1).linksOn = true ∧ (lnk 1).linkState 5 = 1 ∧ (lnk 1).up ≤ ((lnk 1).link 5).since + 2000000
    ∧ (lnk 2).linkState 5 = 2 ∧ (lnk 3).linkState 5 = 3 ∧ ({ lnk 3 with links := [(5, { nonce := some 1 })] }.link 5).nonce = some 1
    ∧ (lnk 2).capsCause 5 ⟨BitVec.ofNat 9 ((lnk 2).neighbour 5), false, true, true, 8, 8, 8, 0, false, false⟩ = 0
    ∧ (lnk 2).capsCause 5 ⟨0, false, true, true, 8, 8, 8, 0, false, false⟩ = 1 := by decide
theorem wit_LinkRuns : (lnk 4).linkState 5 = 4 ∧ ((lnk 4).fld (lnkLaneActive 5)).testBit 3 = true ∧ popCount 5 (15 - 2 ^ 3) = 3
    ∧ (lnk 4 [(lnkLaneActive 5, 3)]).fld (lnkLaneActive 5) - 2 ^ 1 = 1
    ∧ ({ lnk 4 with links := [(5, { training := true })] }.link 5).training = true ∧ (lnk 6).linkState 5 = 6
    ∧ ((lnk 6).link 5).out.contains (.msg .keepalive) = false
    ∧ firstSent [(⟨3, .msg .ack, 0, 7⟩ : Sent)] = some ⟨3, .msg .ack, 0, 7⟩
    ∧ [(⟨3, .msg .ack, 0, 7⟩ : Sent)].find? (fun y => y.seq == 3) = some ⟨3, .msg .ack, 0, 7⟩
    ∧ (∀ x ∈ [(⟨3, .msg .ack, 0, 7⟩ : Sent)], x.seq ≠ 4) ∧ 8 ≤ 7 + 1 ∧ 6 + 1 < 8 := by decide

/-- A frame for this device from the neighbour on link 5. -/
def fr (cls ty : Nat) (spec : Nat) (p : List (BitVec 128)) : Frame := ⟨mkHeader cls ((lnk 4).neighbour 5) 0 0 ty spec p, p⟩
theorem wit_FramesArrive : (lnk 4).takesClass 5 2 = true ∧ (lnk 0).takesClass 5 2 = false ∧ (lnk 4).takesClass 5 3 = true
    ∧ crcOk (fr 2 1 0 [7]) = true ∧ crcOk ⟨0, [7]⟩ = false ∧ flit (fr 2 1 0 [7]).header 127 124 = 2 ∧ typeOk (fr 2 1 0 [7]) = true
    ∧ (lnk 4).addrOk (fr 2 1 0 [7]).header = true ∧ flit (fr 2 1 0 [7]).header 114 106 = (lnk 4).ownId
    ∧ ((lnk 4).link 5).synN < max 1 ((lnk 4).fldIn (lnkRateSyn 5) (lnk 4).now)
    ∧ typeOk (fr 3 1 0 [7]) = true ∧ crcOk (fr 3 1 0 [7]) = true ∧ (lnk 4).inWindow (fr 3 1 0 [7]) = false
    ∧ crcOk (fr 5 2 0 []) = true ∧ typeOk (fr 5 2 0 []) = true ∧ (lnk 4).noticeOk 5 (fr 5 2 0 []).header = true := by decide +kernel
theorem wit_FramesArrive_window :
    let s := (lnk 4 [(lnkBwinSrcEn, 1), (lnkBwinSrcSrc, (lnk 4).neighbour 5)]).setReg ⟨.lnkBwinLen, 0, 0⟩ 16
    s.inWindow (fr 3 1 0 [7]) = true ∧ s.inWindow (fr 3 1 0 [7, 7]) = false := by decide +kernel
theorem wit_FramesArrive_decision :
    let w := mkDecision ((lnk 4).neighbour 5) 0 0 63 none 1 0
    (lnk 4).takesClass 5 1 = true ∧ copyOk w = true ∧ copyOk (w ^^^ 1) = false ∧ flit w 127 124 = 1 ∧ flit w 69 64 = 0
      ∧ (lnk 4).addrOk w = true ∧ ((lnk 4).link 5).decN < max 1 ((lnk 4).fldIn (lnkRateDec 5) (lnk 4).now) ∧ flit w 114 106 = (lnk 4).ownId
      ∧ tabFind (lnk 4).aliveIn 63 ≠ some (flit w 74 71) := by decide +kernel
theorem wit_FramesArrive_time :
    let f : Frame := ⟨mkHeader 4 ((lnk 4).neighbour 5) 0x1FF 24 1 ((lnk 4).neighbour 5 * 2 ^ 46) [1, 2], [1, 2]⟩
    crcOk f = true ∧ flit f.header 127 124 = 4 ∧ flit f.header 100 96 = 1 ∧ flit f.header 95 88 = 2 ∧ f.payload.length = 2
      ∧ flit f.header 114 106 = 0x1FF ∧ flit f.header 105 101 ≤ 24 ∧ (lnk 4).inArray (flit f.header 123 115) = true
      ∧ flit f.header 86 78 = (lnk 4).neighbour 5 ∧ (lnk 4).route ((lnk 4).neighbour 5) none = some 5
      ∧ ((lnk 4).dom false).taken ≠ (lnk 4).now / 2 ^ 20 + 1
      ∧ (({ lnk 4 with domA := { taken := 1 } } : State).dom false).taken = (lnk 4).now / 2 ^ 20 + 1 := by decide +kernel
theorem wit_FramesArrive_copy : (lnk 4).power = true ∧ (lnk 4).sendsOwn = true ∧ (lnk 4).flag lnkBxfCtrlBusy = false
    ∧ ((lnk 4).setReg ⟨.lnkBxfLen, 0, 0⟩ 64).rdn .lnkBxfLen = 64 ∧ (lnk 4).rdn .lnkBxfLen < 64
    ∧ (lnk 0).route ((lnk 0).neighbour 5) none = none := by decide +kernel
theorem wit_FramesArrive_room : hasRoom (lnk 4) 5 0 1 ∧ hasRoom (lnk 4) 5 3 17 ∧ hasRoom (lnk 6) 5 0 1
    ∧ hasRoom ({ lnk 6 with up := 1000 }.elapseTo ((({ lnk 6 with up := 1000 } : State).link 5).aliveAt + 1000)) 5 0 1 := by unfold hasRoom; decide

/-! Obligations about the host and bulk memory. -/

/-- The command ring holds two entries and the completion ring is on. -/
def host : State := set stby [(hstCmdCfgEn, 1), (hstCmdCfgLog2, 4), (hstCmdHeadHead, 65535), (hstCmdTailTail, 1), (hstCplCfgEn, 1), (hstCplCfgLog2, 4)]
theorem wit_HostRings : host.power = true ∧ (15 + 65536 - host.fld hstCmdHeadHead) % 65536 ≤ 2 ^ host.fld hstCmdCfgLog2
    ∧ 2 ^ host.fld hstCmdCfgLog2 < (16 + 65536 - host.fld hstCmdHeadHead) % 65536 ∧ (List.replicate 16 (0 : Word)).length = 16
    ∧ host.fetches = true ∧ host.callerServing = true ∧ host.adminQ = [] ∧ (legalModes 0x10).isSome = true
    ∧ 64 ≤ (List.replicate 64 (⟨0, 0x10, 0, []⟩ : QueuedCmd)).length := by decide
/-- Fifteen completions wait, the ring's last acknowledged count being the greatest. -/
def waitCpl : State := { host with cpls := List.replicate 15 ⟨0, 1, .ok, 0, 0, 0, []⟩, cplAck := 2 ^ 28 - 1, hostRing := [(16, [(1, []), (2, [])])], rr16 := [[]] }
theorem wit_HostRings_acks : waitCpl.cplOn = true ∧ ((14 : BitVec 28).toNat + 2 ^ 28 - waitCpl.cplAck) % 2 ^ 28 = waitCpl.cpls.length
    ∧ waitCpl.cpls.length < ((15 : BitVec 28).toNat + 2 ^ 28 - waitCpl.cplAck) % 2 ^ 28
    ∧ waitCpl.ringEntries 16 = [(1, [])] ++ ((2 : BitVec 28).toNat, []) :: [] ∧ (∀ e ∈ waitCpl.ringEntries 16, e.1 ≠ (3 : BitVec 28).toNat)
    ∧ waitCpl.alive = true ∧ stby.flag hstCmdCfgEn = false ∧ stby.flag hstCplCfgEn = false ∧ stby.flag (hstRrCfgEn 16) = false
    ∧ waitCpl.rr16 = [] :: [] ∧ (set waitCpl [(hstRrCfgEn 16, 1), (hstRrCfgLog2 16, 4)]).ringFull 16 = false := by decide

theorem wit_HostPort : { stby with msix := [19] }.power = true ∧ (19 : Fin 20).val ∈ { stby with msix := [19] }.msix ∧ (1 : BitVec 2) ≠ 0
    ∧ (8 : Fin 9).val ∈ [1, 2, 4, 8] ∧ (set stby [(hstLinkStatIdeCm, 1)]).flag (ideBit true) = true ∧ stby.alive = true
    ∧ ({ keyed := true } : Spdm).keyed = true ∧ ({ session := true } : Spdm).session = true ∧ stby.mode ≠ .boot
    ∧ (0xFFFFFE : Nat) % 4 ≠ 0 ∧ 0x1FFFFFFC % 4 = 0 := by decide
theorem wit_HostPort_register : stby.answers 0x10010 = true ∧ ∃ r, regAt (0x10004 : BitVec 24).toNat = some r := ⟨by decide, _, rfl⟩
theorem wit_HostPort_memory : stby.engDataAt 0x0D020000 = some (0, 0x0D020000) ∧ memTakes (stby.engP 0).state = true
    ∧ memTakes ((eng 0).engP 0).state = false ∧ stby.engDataAt 0x0D024000 = none ∧ stby.engDataAt 0 = none := by decide

theorem wit_BulkAccesses : (set stby [(hstLinkStatCxl, 1)]).flag hstLinkStatCxl = true ∧ stby.power = true ∧ stby.mode ≠ .dormant
    ∧ (stby.advanceTo stby.mem.stallTo).bulkUsable 63 1 = true
    ∧ (set stby [(memStatInService, 14)]).bulkUsable 0 1 = false ∧ stby.memUp = true ∧ (dev .dormant).mode = .dormant
    ∧ { stby with poison := [0] }.notPoisoned 63 1 = false ∧ stby.groupOf (4 * stby.groupBytes) = none
    ∧ (stby.groupOf (4 * stby.groupBytes - 1)).isSome = true := by decide
theorem wit_MemoryUpkeep : stby.memUp = true ∧ ({ stallTo := 280 } : MemCond).stallTo ≠ 0 ∧ (stby.fld memStatInService).testBit (15 / 4) = true
    ∧ stby.bulkServed 0 = true ∧ (set stby [(memCtrlIdleSr, 1)]).flag memCtrlIdleSr = true ∧ stby.mode = .standby
    ∧ keepsCredits (.acq 15) = true ∧ keepsCredits .host = false ∧ stby.flag memCtrlXen = false := by decide

/-! Further forms: clauses that other states meet. -/

/-- ARM's transition from STANDBY, its checks not passed, or passed with the Quarry off. -/
theorem wit_TransitionsEndAndWake_checks : arming.armChecked = true ∧ (set arming [(cueStatPassed, 0)]).armChecked = false
    ∧ (dev .dormant).safePending = false ∧ (dev .service).mode = .service := by decide
/-- ME 768 in an accumulation of memory operands whose next product is due in this tick, and one whose capture is. -/
def reading : State := eng 768 { g := [(1, 0)], me := { run := some ⟨0, 2, false, none, 9, 100, false, 0⟩ } }
def capturing : State := eng 768 { g := [(1, 0)], me := { wins := [⟨0, 36, 8, true, 0, 0, false⟩] } }
theorem wit_DataMemory_ports : ((atIssue reading 768).meSeen 768).now = 100
    ∧ (((atIssue reading 768).meSeen 768).eng 768).me.reads false 100 = true
    ∧ (((atIssue reading 768).meSeen 768).eng 768).me.reads true 100 = true
    ∧ (((atIssue capturing 768).meSeen 768).eng 768).me.captures 100 = true
    ∧ (((atIssue (eng 768) 768).meSeen 768).eng 768).me.captures 100 = false := by decide +kernel
/-- A wait for an ended transfer, at a boundary and not. -/
theorem wit_BulkTransfers_boundary :
    let b (s : State) : Bool := liveState (s.eng 0).state && (s.eng 0).routine.isNone
      && ((s.eng 0).state != .running || decide ((s.eng 0).ready ≤ s.now))
    b (eng 0) = true ∧ b (eng 0 { ready := 101 }) = false ∧ b (eng 0 { routine := some atRest }) = false ∧ (eng 0).upsets = [] := by decide
/-- The bytes of the routine at rest, at its tick, with the fabric's cues judged. -/
theorem wit_MicroRoutines_tick : ({ stores with tt := 99 }.advanceTo 100).cuesHere = true ∧ atRest.drop = none ∧ stores.upsets = []
    ∧ uMop (memWord stores.sram (ucsStore .te + 1000)) = 0 := by decide
theorem wit_EffectsLand_offsets : ([] : List (Nat × Nat)).Pairwise (fun a b => b.1 ≤ a.1)
    ∧ [((7 : Nat), (1 : Nat)), (3, 2)].Pairwise (fun a b => b.1 ≤ a.1) := by decide
theorem wit_OutputEvents_words : stby.wrTick ≠ some stby.now ∧ { stby with wrTick := some 0 }.wrTick = some stby.now
    ∧ (stby.flx 255).limit ≠ some 5 ∧ ({ stby with flux := [(255, { limit := some 5 })] }.flx 255).limit = some 5
    ∧ overrange (List.replicate decimSpan 0 ++ [2047]) = 1 ∧ overrange (List.replicate decimSpan 2047 ++ [2046]) = 0 ∧ (demod.eng 768).me.caps = [] := by decide +kernel
theorem wit_SegmentsAndRings_open : run.alive = true ∧ (set run [(rfoRingStatOpen 79 3, 1)]).flag (rfoRingStatOpen 79 3) = true
    ∧ ¬ (run.mode = .standby ∨ run.mode = .calibrate ∨ run.mode = .armed) := by decide
/-- A spare lane trains on link 5, which has four active lanes. -/
def spare : State := { lnk 4 [(lnkLaneActiveCnt 5, 4)] with links := [(5, { training := true })] }
theorem wit_LinkRuns_spare : spare.linksTrain = true ∧ spare.linkState 5 = 4 ∧ (spare.fld (lnkLaneActive 5)).testBit 4 = false
    ∧ (spare.link 5).training = true ∧ 2 ≤ spare.fld (lnkLaneActiveCnt 5)
    ∧ { dev .dormant with trans := some { target := .standby } }.linksTrain = true ∧ stby.mode ≠ .dormant := by decide
theorem wit_LinkUp_rises : (lnk 1).linksTrain = true ∧ (lnk 1).linksRise = true ∧ (lnk 2).linksRise = true ∧ (lnk 3).linksRise = true
    ∧ (lnk 2).linkCfg.authReq = false ∧ { lnk 2 with linkCfg := { authReq := true } }.linkCfg.authReq = true
    ∧ { dev .dormant with trans := some { target := .standby } }.linksRise = true := by decide
/-- Frames for other devices, with 24 hops behind them and with none, and a partner's growth and result. -/
def far (cls ty hops : Nat) : Frame := ⟨mkHeader cls ((lnk 4).neighbour 5) 0x1FF hops ty 0 [7], [7]⟩
theorem wit_FramesArrive_hops : (lnk 4).forwards = true ∧ flit (far 3 1 24).header 105 101 = 24 ∧ flit (far 3 1 23).header 105 101 < 24
    ∧ flit (far 3 1 24).header 114 106 ≠ (lnk 4).ownId ∧ crcOk (far 3 1 24) = true ∧ typeOk (far 3 1 24) = true
    ∧ (lnk 4).addrOk (far 3 1 24).header = (lnk 4).addrOk (far 3 1 23).header
    ∧ (lnk 4).unavailTo ((lnk 4).neighbour 5) = false ∧ (lnk 4).route ((lnk 4).neighbour 5) (some 4) = some 5
    ∧ (lnk 4 [(lnkStatVer 5, 1)]).fld (lnkStatVer 5) = 1 ∧ (lnk 4).fld (lnkStatVer 5) ≠ 1 := by decide +kernel
theorem wit_FramesArrive_partner :
    let s := lnk 4 [(qryFaceEn 0, 1), (qryFacePartner 0, (lnk 4).neighbour 5)]
    (List.range 6).find? (fun f => s.flag (qryFaceEn f) && s.fld (qryFacePartner f) == flit (fr 2 3 0 [7]).header 123 115) = some 0
      ∧ flit (fr 2 3 0 [7]).header 100 96 = 3 ∧ typeOk (fr 2 3 0 [7]) = true ∧ crcOk (fr 2 3 0 [7]) = true
      ∧ flit (fr 2 4 0 [7]).header 100 96 = 4 ∧ typeOk (fr 2 4 0 [7]) = true ∧ crcOk (fr 2 4 0 [7]) = true
      ∧ tabFind s.qry.grown 0 = none := by decide +kernel
theorem wit_HostRings_off : { stby with power := false }.alive = false ∧ (dev .dormant).alive = false := by decide
theorem wit_HostPort_window : ∃ r, regAt 0x400080 = some r ∧ r.k = .engG ∧ 0x400000 ≤ r.addr ∧ stby.answers 0x400080 = true
    ∧ (stby.eng (stby.logical (stby.windowPhys r.i))).accFuel = 0 := ⟨⟨.engG, 0, 0⟩, by decide +kernel⟩
theorem wit_MemoryUpkeep_boot : State.reset.power = true ∧ State.reset.mode = .boot ∧ stby.power = true ∧ stby.mode ≠ .dormant := by decide

/-! Obligations about instruction words and the engines that run them. -/

/-- The worked word of 15: UOP of routine 7 with operands r5 and r6. -/
theorem test_uop_word : decodeWord 3 0x0C0014C000000007 = some (.uop 3 (jw 0 5 6 0 7)) := by decide
theorem wit_InstructionWords : (Instr.uop 3 (jw 0 5 6 0 7)).opcode = some (3, 0x0C, jw 0 5 6 0 7)
    ∧ decodeWord 1023 0x8A00000000000000 ≠ none ∧ decodeWord 0 0x0D00000000000000 = none := by decide
/-- Engine 0 with one word at its PC. -/
def holdsWord (w : List Word) : State := { eng 0 with sram := memSetWords [] (engBase 0) w }
theorem wit_EnginesFetch : (holdsWord [0, 0]).dueOf 0 = none ∧ (holdsWord [0, 0]).mayIssue 0 true = true
    ∧ ((holdsWord [0, 0]).eng 0).ready ≤ (holdsWord [0, 0]).now
    ∧ decodeWord 0 ((holdsWord [5, 0x10000000]).fetched 0) = some (.li 0 (jw 0 0 0 0 5))
    ∧ decodeWord 0 ((holdsWord [0, 0xFF000000]).fetched 0) = none ∧ stby.pending = [] ∧ (dev .dormant).mode = .dormant := by
  decide +kernel
theorem wit_EnginesFetch_boundary : atBoundary (holdsWord [0, 0xFF000000]) 0 true
    ∧ (eng 0 { ready := 101 }).now < ((eng 0 { ready := 101 }).eng 0).ready ∧ stby.mayIssue 0 true = false := by
  unfold atBoundary; simp only [soundMemory_iff]; decide
/-- A step on an empty queue runs the engines: engine 0 fetches LI r0, 5 and has it. -/
theorem test_engine_fetches : ((holdsWord [5, 0x10000000]).engineTick 0).eng 0
    = { state := .running, g := [(0, 5)], pc := 1, ready := 101 } := by decide +kernel

/-! Package and training. -/

/-- The lands of qubit 77: its drive (RF output 19), probe and read-out input of group 4, and its flux output (R386). -/
theorem test_lands : [Signal.drv 19, .prb 4, .rfi 4, .flx 77].map Signal.land = [(1, 48), (26, 1), (26, 90), (5, 24)] := by decide
/-- Of two windows of a lane, codes 10 to 20 and 40 to 90, the wider is taken, at code 65; 15 codes are no working setting (R323). -/
theorem test_sweeps :
    let p : BitVec 128 := BitVec.ofNat 128 ((2 ^ 11 - 1) * 2 ^ 10 + (2 ^ 51 - 1) * 2 ^ 40)
    sweepWindow [⟨3, .rd1, p⟩] 3 .rd1 = (40, 51) ∧ sweepCentre [⟨3, .rd1, p⟩] 3 .rd1 = 65
      ∧ channelWorks [⟨3, .wr0, 0x7FFF⟩] 3 = false ∧ groupsFound [⟨15, .wr0, 0x7FFF⟩] = 7 := by decide +kernel

end Sys2Proof.Tests
end

section
/-! SUPPORT. How an administrative command is answered before its own guards: every one of them goes through `State.admin` with the
format that `entryOk` names, so a refusal follows from what `State.admin` answers. -/
namespace Sys2Proof.Machine
open Sys2Proof.Safety

/-! The state operations of a refusal. -/

/-- A completion adds one entry, sends vector 0 at most, and changes nothing else. -/
theorem State.completed_complete (u : State) (tag : BitVec 16) (op : Nat) (st : Status) (detail : Nat) (res : List Word) :
    completed u (u.complete tag op st detail res) tag op st detail res := by
  unfold State.complete
  dsimp only
  split
  · unfold State.msi
    split
    · exact ⟨rfl, .inl rfl⟩
    · exact ⟨rfl, .inr rfl⟩
  · exact ⟨rfl, .inl rfl⟩

/-- A completion leaves every register as it was. -/
theorem regs_of_completed {u t : State} {tag : BitVec 16} {op : Nat} {st : Status} {detail : Nat} {res : List Word}
    (h : completed u t tag op st detail res) (r : Reg) : t.reg r = u.reg r := by
  rw [h.1]
  rfl

/-- A counter register moves on by n and saturates. -/
theorem State.rdn_countReg_same (s : State) (k : RegK) (i j n : Nat) :
    (s.countReg k i j n).rdn k i j = min (2 ^ 32 - 1) (s.rdn k i j + n) := by
  have hlt : satAdd 32 (s.rdn k i j) n < 2 ^ 32 := by unfold satAdd; omega
  simp only [State.countReg, State.wr, State.rdn, State.rd, State.reg_setReg_same, BitVec.toNat_ofNat] at hlt ⊢
  exact Nat.mod_eq_of_lt hlt

/-- A count changes the counter's own register alone. -/
theorem State.regsKept_countReg (s : State) (k : RegK) (i j n : Nat) : regsKept s (s.countReg k i j n) [⟨k, i, j⟩] :=
  fun _ hr => State.reg_setReg_other s _ (fun h => hr (List.mem_singleton.mpr h))

/-! What `State.admin` answers to a command that is served. -/

section
variable {s u : State} {op : Nat} {c : Cmd} {ok : Bool} (hs : served s op c u)
include hs

/-- The format is judged first, whatever the mode (R305). -/
theorem State.admin_of_badFormat (hf : ok = false) (body : State → State) :
    s.admin op c ok body = .next (u.complete c.tag op .format) := by
  simp [State.admin, State.popAdmin_served hs, hf]

/-- A refusal for the mode is counted and completes with STATE (R23). -/
theorem State.admin_of_verdict_state (hf : ok = true) (hv : u.verdict op = some .state) (body : State → State) :
    s.admin op c ok body = .next ((u.countReg .svcStateRej).complete c.tag op .state) := by
  simp [State.admin, State.popAdmin_served hs, hf, hv]

/-- A refusal during a transition completes with BUSY (R25). -/
theorem State.admin_of_verdict_busy (hf : ok = true) (hv : u.verdict op = some .busy) (body : State → State) :
    s.admin op c ok body = .next (u.complete c.tag op .busy) := by
  simp [State.admin, State.popAdmin_served hs, hf, hv]

end

/-! The verdict while the Caller is up. -/

/-- Without a transition, a command that the legality matrix does not list for the mode is refused with STATE (R23, R27). -/
theorem State.verdict_eq_state {u : State} {op : Nat} (ht : u.trans = none) (hb : u.bootFailed = false)
    (hc : u.fld glbCallerStatState ≠ 4) (hl : legal op u.mode = false) : u.verdict op = some .state := by
  simp [State.verdict, ht, hb, hc, hl]

/-- In a transition, a mode command is refused with BUSY (R25). -/
theorem State.verdict_eq_busy {u : State} {op : Nat} {x : Trans} (ht : u.trans = some x) (hb : u.bootFailed = false)
    (hc : u.fld glbCallerStatState ≠ 4) (h1 : 0x10 ≤ op) (h2 : op ≤ 0x17) : u.verdict op = some .busy := by
  simp [State.verdict, ht, hb, hc, h1, h2]

/-! The format that each command checks is `entryOk`. For most of them it is the entry's bits alone. -/

theorem entryOk_of_entryNames {op : Nat} {c : Cmd} (h : entryNames op c = true) : entryOk op c = Cmd.only c (entryBits op c) := by
  simp [entryOk, h]

theorem entryOk_spareLane (c : Cmd) : entryOk 0x51 c
    = (Cmd.only c [(1, 7), (2, 7)] && decide ((c.w 1).bits 2 0 < 6) && decide ((c.w 2).bits 2 0 < 5)) :=
  (Bool.and_assoc _ _ _).symm

/-- FLASH_WRITE names the kinds 1 to 3, and a place other than 0 for kind 3 alone (R349). -/
theorem entryOk_flashWrite (c : Cmd) : entryOk 0x60 c
    = (Cmd.only c [(1, 0xF), (2, wordMask), (3, wordMask), (4, wordMask), (5, wordMask), (6, wordMask)]
      && (((c.w 1).bits 3 0 == 1 || (c.w 1).bits 3 0 == 2 || (c.w 1).bits 3 0 == 3)
        && (if (c.w 1).bits 3 0 = 3 then c.w64 5 % 65536 == 0 && decide (0x1000000 ≤ c.w64 5) else c.w64 5 == 0))) := by
  have hk (k : Nat) : (decide (1 ≤ k) && decide (k ≤ 3)) = (k == 1 || k == 2 || k == 3) := by
    rw [Bool.eq_iff_iff]
    simp only [Bool.and_eq_true, Bool.or_eq_true, decide_eq_true_eq, beq_iff_eq]
    omega
  simp only [entryOk, entryBits, entryNames, hk]
  rfl

/-- FW_ACTIVATE names the kinds 1 and 2 (R349). -/
theorem entryOk_fwActivate (c : Cmd) : entryOk 0x61 c
    = (Cmd.only c [(1, 0x8000000F)] && ((c.w 1).bits 3 0 == 1 || (c.w 1).bits 3 0 == 2)) := by
  have hk (k : Nat) : (decide (1 ≤ k) && decide (k ≤ 2)) = (k == 1 || k == 2) := by
    rw [Bool.eq_iff_iff]
    simp only [Bool.and_eq_true, Bool.or_eq_true, decide_eq_true_eq, beq_iff_eq]
    omega
  simp only [entryOk, entryBits, entryNames, hk]

/-- Of the four values of a two-bit class field, only 3 names no class (R271). -/
theorem isSome_classOf {n : Nat} (h : n < 4) : (classOf n).isSome = decide (n ≠ 3) := by
  obtain rfl | rfl | rfl | rfl : n = 0 ∨ n = 1 ∨ n = 2 ∨ n = 3 := by omega
  all_goals rfl

theorem entryOk_ucsLoadOpen (c : Cmd) : entryOk 0x62 c
    = (Cmd.only c [(1, 3), (2, wordMask), (3, wordMask)] && (classOf ((c.w 1).bits 1 0)).isSome) := by
  have hn : (c.w 1).bits 1 0 < 4 := Nat.mod_lt _ (by decide)
  rw [isSome_classOf hn]
  rfl

/-- Every administrative command that the Caller executes is `State.admin` of its opcode, its entry and the format `entryOk`. -/
theorem exec_eq_admin {i : Instr} {op : Nat} {c : Cmd} (h : adminOf i = some (op, c)) :
    ∃ body : State → State, ∀ s, exec i s = s.admin op c (entryOk op c) body := by
  unfold adminOf at h
  split at h <;> cases h
  -- LOAD_SEGMENTS and SET_THRESHOLDS check their names in the words of `entryNames`.
  case h_11 | h_27 => exact ⟨_, fun _ => rfl⟩
  -- SPARE_LANE, FLASH_WRITE, FW_ACTIVATE and UCS_LOAD_OPEN check them in words of their own.
  case h_22 => rw [entryOk_spareLane]; exact ⟨_, fun _ => rfl⟩
  case h_24 => rw [entryOk_flashWrite]; exact ⟨_, fun _ => rfl⟩
  case h_25 => rw [entryOk_fwActivate]; exact ⟨_, fun _ => rfl⟩
  case h_26 => rw [entryOk_ucsLoadOpen]; exact ⟨_, fun _ => rfl⟩
  -- The others name nothing.
  all_goals
    rw [entryOk_of_entryNames rfl]
    exact ⟨_, fun _ => rfl⟩

/-- Settles O8: every administrative command goes through `State.admin`, which judges the format, then the verdict. -/
theorem refusedCommands : Obligations.RefusedCommands := by
  unfold Obligations.RefusedCommands
  refine ⟨fun i op c s u hi hs hf => ?_, fun i op c s u hi hs hf ht hb hc hl => ?_,
    fun i op c s u x hi h1 h2 hs hf ht hb hc => ?_⟩
  all_goals obtain ⟨body, he⟩ := exec_eq_admin hi
  · exact ⟨_, (he s).trans (State.admin_of_badFormat hs hf body), State.completed_complete ..⟩
  · have hv := State.verdict_eq_state ht hb hc hl
    have hd := State.completed_complete (u.countReg .svcStateRej) c.tag op .state 0 []
    refine ⟨_, (he s).trans (State.admin_of_verdict_state hs hf hv body), hd, ?_, fun r hr => ?_⟩
    · exact (congrArg BitVec.toNat (regs_of_completed hd _)).trans (State.rdn_countReg_same u _ 0 0 1)
    · exact (regs_of_completed hd r).trans (State.regsKept_countReg u _ 0 0 1 r hr)
  · have hv := State.verdict_eq_busy ht hb hc h1 h2
    exact ⟨_, (he s).trans (State.admin_of_verdict_busy hs hf hv body), State.completed_complete ..⟩

end Sys2Proof.Machine
end

section
/-! SUPPORT. PC is a natural number in the model, and no hypothesis of O34 keeps it within the 16,384 words of the instruction store
(R56): what `atBoundary` says of the engine's own memories then says nothing of the word that the engine fetches. -/
namespace Sys2Proof.Machine
open Sys2Proof.Safety

/-- A device in RUN with TE 0 RUNNING at index 20,480: the word there is the first behind the engine's memories, and two of its bits
are wrong. -/
def pcBehindMemories : State :=
  { State.reset with
    mode := .run
    engs := [(0, { state := .running, pc := 20480 })]
    upsets := [(engBase 0 + 0x28000, 2)] }

/-- AT 0: p0 is its condition, and every other field is 0. -/
def atZero : JWord := { pred := 0, pinv := false, d := 0, a := 0, b := 0, e := 0, imm := 0 }

/-- Every word of the engine's own memories and of patch RAM is sound: the one upset lies between the two. -/
theorem soundMemory_pcBehindMemories : soundMemory (atIssue pcBehindMemories 0) 0 := by
  have hu (a : Nat) (ha : a ≠ engBase 0 + 0x28000) : tabGet (atIssue pcBehindMemories 0).upsets a 0 = 0 :=
    tabGet_put_other [] 2 0 ha
  have hp : (atIssue pcBehindMemories 0).phys 0 = 0 := rfl
  refine ⟨fun a _ ha => hu a ?_, fun a ha => hu a ?_⟩
  · rw [hp] at ha
    exact Nat.ne_of_lt ha
  · exact Nat.ne_of_gt (Nat.lt_of_lt_of_le (by decide) ha)

/-- AT 0 issues there with condition 1 and falls through, as the first clause of O34 asks. -/
theorem runsOn_pcBehindMemories :
    runsOn pcBehindMemories 0 atZero { dm := 1, am := 31, bm := 31, em := 31, im := 0xFFFFFFFF, ra := true } := by
  have hb : atBoundary pcBehindMemories 0 := ⟨by decide, rfl, rfl, soundMemory_pcBehindMemories⟩
  exact ⟨⟨hb, by decide⟩, by unfold holds; decide, by unfold goesOn; decide⟩

/-- The fetch meets two wrong bits, so that AT raises ECC (R58) and does not execute. -/
theorem exec_atc_pcBehindMemories :
    ∃ t, exec (.atc 0 atZero) pcBehindMemories = .next t ∧ (t.eng 0).state = .faulted ∧ (t.eng 0).fltCode = fEcc :=
  ⟨_, rfl, by decide⟩

/-- Refutes O34: with PC behind the engine's memories the word fetched may hold wrong bits though the engine is at a boundary, and
AT faults with ECC where the statement has it set tc. -/
theorem not_timelineIssue : ¬ Obligations.TimelineIssue := by
  unfold Obligations.TimelineIssue
  rintro ⟨⟨hAt, -⟩, -⟩
  obtain ⟨t, ht, -, heng, -⟩ := (hAt 0 atZero pcBehindMemories _ _ rfl rfl runsOn_pcBehindMemories).1 rfl
  have hrun : (t.eng 0).state = .running := congrArg Eng.state heng
  obtain ⟨t', ht', hfault, -⟩ := exec_atc_pcBehindMemories
  cases ht.symm.trans ht'
  rw [hrun] at hfault
  cases hfault

end Sys2Proof.Machine
end

section
/-! SUPPORT. The passing of time, fields and 64-bit registers as they are read back, the words of a snapshot, and WT when it is set:
what EPOCH_ARM, SYNC_EDGE, SNAP_TAKE and LOAD_WT do (R36, R37, R40, R50, R53, R370). -/
namespace Sys2Proof.Machine
open Sys2Proof.Safety

/-! What the passing of time leaves. -/

/-- A state without what moves as time passes: the counts of time, and what outputs, readers and engines do by themselves
(R35, R48, R70, R122, R141, R147). -/
def State.untimed (s : State) : State :=
  { s with
    up := 0, tt := 0, wtSec := 0, wtNs := 0, wtFrac := 0, regs := [], engs := [], slots := [], flux := [], rings := [], due := []
    rfSettled := 0 }

theorem State.untimed_foldl {α : Type} {f : State → α → State} (hf : ∀ st x, (f st x).untimed = st.untimed) (l : List α) (s : State) :
    (l.foldl f s).untimed = s.untimed := by
  induction l generalizing s with
  | nil => rfl
  | cons x l ih => exact (ih (f s x)).trans (hf s x)

@[simp] theorem State.untimed_setReg (s : State) (r : Reg) (w : Word) : (s.setReg r w).untimed = s.untimed := rfl
@[simp] theorem State.untimed_put (s : State) (f : Fld) (v : Nat) : (s.put f v).untimed = s.untimed := rfl
@[simp] theorem State.untimed_raiseBit (s : State) (f : Fld) : (s.raiseBit f).untimed = s.untimed := rfl
@[simp] theorem State.untimed_countReg (s : State) (k : RegK) (i j n : Nat) : (s.countReg k i j n).untimed = s.untimed := rfl
@[simp] theorem State.untimed_setSlot (s : State) (o k : Nat) (x : Slot) : (s.setSlot o k x).untimed = s.untimed := rfl
@[simp] theorem State.untimed_modSlot (s : State) (o k : Nat) (f : Slot → Slot) : (s.modSlot o k f).untimed = s.untimed := rfl
@[simp] theorem State.untimed_setFlx (s : State) (i : Nat) (x : Flux) : (s.setFlx i x).untimed = s.untimed := rfl
@[simp] theorem State.untimed_setRing (s : State) (o r : Nat) (x : Ring) : (s.setRing o r x).untimed = s.untimed := rfl
@[simp] theorem State.untimed_modEng (s : State) (e : Nat) (f : Eng → Eng) : (s.modEng e f).untimed = s.untimed := rfl
@[simp] theorem State.untimed_raiseAt (s : State) (ch t : Nat) : (s.raiseAt ch t).untimed = s.untimed := rfl
@[simp] theorem State.untimed_tickOn (s : State) (n : Nat) : (s.tickOn n).untimed = s.untimed := rfl

/-- A halt that is due changes engines alone. -/
@[simp] theorem State.untimed_haltDue (s : State) : s.haltDue.untimed = s.untimed := by
  unfold State.haltDue
  dsimp only
  split <;> rfl

/-! The reader. -/

@[simp] theorem State.untimed_dropRead (s : State) (o : Nat) (u : StreamUse) : (s.dropRead o u).untimed = s.untimed := by
  unfold State.dropRead
  split <;> rfl

@[simp] theorem State.untimed_underrun (s : State) (o k : Nat) (u : StreamUse) (j t : Nat) :
    (s.underrun o k u j t).untimed = s.untimed := by
  simp [State.underrun]

theorem State.untimed_frontTo (t : Nat) (s : State) (key : Nat) : (s.frontTo t key).untimed = s.untimed := by
  unfold State.frontTo
  dsimp only
  split
  · rw [State.untimed_setSlot]
    split
    · split
      · split
        · exact State.untimed_dropRead ..
        · rfl
      · rfl
    · rfl
  · split <;> rfl

theorem State.untimed_beginRead (t : Nat) (s : State) (key : Nat) : (s.beginRead t key).untimed = s.untimed := by
  unfold State.beginRead
  dsimp only
  split
  · rfl
  · split
    · split
      · rfl
      · split <;> rfl
    · rfl

theorem State.untimed_readGranule (t : Nat) (s : State) (key : Nat) : (s.readGranule t key).untimed = s.untimed := by
  unfold State.readGranule
  dsimp only
  split
  · rfl
  · split
    · rfl
    · split
      · rfl
      · simp

@[simp] theorem State.untimed_readTick (s : State) (t : Nat) : (s.readTick t).untimed = s.untimed := by
  unfold State.readTick
  split
  · rfl
  · dsimp only
    rw [State.untimed_foldl (State.untimed_readGranule t), State.untimed_foldl (State.untimed_beginRead (t + 28)),
      State.untimed_foldl (State.untimed_frontTo (t + 28))]

/-! RF outputs. -/

@[simp] theorem State.untimed_roll (s : State) (o t : Nat) (p : Play) : (s.roll o t p).1.untimed = s.untimed := by
  unfold State.roll
  split
  · rfl
  · split
    · split <;> rfl
    · split <;> rfl

theorem State.untimed_rollSlot (t : Nat) (s : State) (key : Nat) : (s.rollSlot t key).untimed = s.untimed := by
  unfold State.rollSlot
  dsimp only
  split
  · rfl
  · simp

theorem State.untimed_slotSample (s : State) (o k m : Nat) : (s.slotSample o k m).untimed = s.untimed := rfl

@[simp] theorem State.untimed_satTick (s : State) (last t : Nat) : (s.satTick last t).untimed = s.untimed :=
  State.untimed_foldl (fun st key => by dsimp only; split <;> rfl) _ s

@[simp] theorem State.untimed_clipTick (s : State) (last t : Nat) : (s.clipTick last t).untimed = s.untimed :=
  State.untimed_foldl (fun st o => by
    dsimp only
    split
    · rfl
    · split <;> rfl) _ s

@[simp] theorem State.untimed_judgeTick (s : State) (t : Nat) : (s.judgeTick t).untimed = s.untimed := by
  have h : (if 16 ≤ t ∧ s.satFrom ≤ t - 16 then s.satTick (2 * t + 1) (t - 16) else s).untimed = s.untimed := by
    split
    · exact State.untimed_satTick ..
    · rfl
  unfold State.judgeTick
  dsimp only
  split
  · rw [State.untimed_clipTick, h]
  · exact h

@[simp] theorem State.untimed_rfTick (s : State) (t : Nat) : (s.rfTick t).untimed = s.untimed := by
  have h : ((s.readTick t).liveSlots.foldl (State.rollSlot t) (s.readTick t)).untimed = s.untimed :=
    (State.untimed_foldl (State.untimed_rollSlot t) _ _).trans (State.untimed_readTick s t)
  have hm (l : List Nat) (st : State) (m : Nat) :
      (l.foldl (fun x key => x.slotSample (key / 16) (key % 16) m) st).untimed = st.untimed :=
    State.untimed_foldl (fun x key => State.untimed_slotSample x _ _ m) l st
  unfold State.rfTick
  dsimp only
  split
  · exact (State.untimed_foldl (hm _) _ _).trans h
  · rw [State.untimed_judgeTick]
    exact (State.untimed_foldl (hm _) _ _).trans h

theorem State.untimed_rfTicks (n t : Nat) (s : State) : (State.rfTicks n t s).untimed = s.untimed := by
  induction n generalizing t s with
  | zero => rfl
  | succ n ih =>
    unfold State.rfTicks
    split
    · rfl
    · rw [ih, State.untimed_rfTick]

/-! Flux outputs. -/

@[simp] theorem State.untimed_fluxRoll (s : State) (i t : Nat) : (s.fluxRoll i t).untimed = s.untimed := by
  unfold State.fluxRoll
  split
  · rfl
  · simp

@[simp] theorem State.untimed_fluxSample (s : State) (i m : Nat) : (s.fluxSample i m).untimed = s.untimed := by
  unfold State.fluxSample
  dsimp only
  split
  · rfl
  · simp [apply_ite State.untimed]

@[simp] theorem State.untimed_fluxTick (i : Nat) (s : State) (t : Nat) : (s.fluxTick i t).untimed = s.untimed := by
  simp [State.fluxTick]

@[simp] theorem State.untimed_fluxTicks (i n t : Nat) (s : State) : (State.fluxTicks i n t s).untimed = s.untimed := by
  induction n generalizing t s with
  | zero => rfl
  | succ n ih =>
    unfold State.fluxTicks
    dsimp only
    split
    · exact State.untimed_fluxTick ..
    · rw [ih, State.untimed_fluxTick]

/-! Time. -/

@[simp] theorem State.untimed_settle (s : State) (t : Nat) : (s.settle t).untimed = s.untimed :=
  (State.untimed_foldl (fun st e => by simp) _ _).trans (State.untimed_rfTicks (t - s.rfSettled) s.rfSettled s)

@[simp] theorem State.untimed_pass (s : State) (n : Nat) : (s.pass n).untimed = s.untimed := by
  simp [State.pass]

@[simp] theorem State.untimed_advanceTo (s : State) (t : Nat) : (s.advanceTo t).untimed = s.untimed := by
  unfold State.advanceTo
  split
  · rfl
  · exact State.untimed_pass ..

@[simp] theorem State.mode_advanceTo (s : State) (t : Nat) : (s.advanceTo t).mode = s.mode :=
  (congrArg State.mode (State.untimed_advanceTo s t) :)

@[simp] theorem State.sram_advanceTo (s : State) (t : Nat) : (s.advanceTo t).sram = s.sram :=
  (congrArg State.sram (State.untimed_advanceTo s t) :)

@[simp] theorem State.bulk_advanceTo (s : State) (t : Nat) : (s.advanceTo t).bulk = s.bulk :=
  (congrArg State.bulk (State.untimed_advanceTo s t) :)

end Sys2Proof.Machine

namespace Sys2Proof

/-! Fields. -/

/-- A field reads as before when another field without a bit of it is stored. -/
theorem Word.bits_put_other (w : Word) {hi lo hi' lo' v : Nat} (h : hi' < lo ∨ hi < lo') :
    (w.put hi lo v).bits hi' lo' = w.bits hi' lo' := by
  apply Nat.eq_of_testBit_eq
  intro j
  simp only [Word.bits, Nat.testBit_mod_two_pow, Nat.testBit_shiftRight]
  by_cases hj : j < hi' + 1 - lo'
  · have hb := Word.put_other w (hi := hi) (lo := lo) (v := v) (i := lo' + j) (by omega)
    simp only [BitVec.getLsbD] at hb
    rw [hb]
  · simp [hj]

end Sys2Proof

namespace Sys2Proof.Machine
open Sys2Proof.Safety

theorem State.fld_put_other (s : State) {f g : Fld} (v : Nat) (h : g.hi < f.lo ∨ f.hi < g.lo) : (s.put f v).fld g = s.fld g := by
  by_cases hr : g.reg = f.reg
  · simp only [State.fld, hr, State.reg_put_same, Word.bits_put_other _ h]
  · simp only [State.fld, State.reg_put_other s v hr]

theorem State.flag_put_other (s : State) {f g : Fld} (v : Nat) (h : g.hi < f.lo ∨ f.hi < g.lo) : (s.put f v).flag g = s.flag g := by
  simp only [State.flag, State.fld_put_other s v h]

/-- A one-bit field reads the bit stored into it. -/
theorem State.flag_put_same (s : State) (f : Fld) (b : Bool) (h : f.hi < 32) (hl : f.lo = f.hi) :
    (s.put f (b2n b)).flag f = b := by
  have hw : f.hi + 1 - f.lo = 1 := by omega
  rw [State.flag, State.fld_put_same s f _ h (Nat.le_of_eq hl), hw]
  cases b <;> rfl

/-- A counter field moves on by n and saturates. -/
theorem State.fld_count_same (s : State) (f : Fld) (n : Nat) (h : f.hi < 32) (hl : f.lo ≤ f.hi) :
    (s.count f n).fld f = min (2 ^ (f.hi + 1 - f.lo) - 1) (s.fld f + n) := by
  have hp : 0 < 2 ^ (f.hi + 1 - f.lo) := Nat.two_pow_pos _
  rw [State.count, State.fld_put_same s f _ h hl]
  exact Nat.mod_eq_of_lt (by unfold satAdd; omega)

theorem State.fld_wr_other (s : State) {k : RegK} (v i j : Nat) {f : Fld} (h : f.reg ≠ ⟨k, i, j⟩) :
    (s.wr k v i j).fld f = s.fld f := by
  simp only [State.fld, State.wr, State.reg_setReg_other s _ h]

theorem State.rdn_wr_same (s : State) (k : RegK) (v i j : Nat) : (s.wr k v i j).rdn k i j = v % 2 ^ 32 := by
  simp only [State.rdn, State.rd, State.wr, State.reg_setReg_same, BitVec.toNat_ofNat]

/-- A 64-bit value reads as it was stored. -/
theorem State.rd64_wr64_same (s : State) {lo hi : RegK} (hne : lo ≠ hi) (v i j : Nat) (hv : v < 2 ^ 64) :
    (s.wr64 lo hi v i j).rd64 lo hi i j = v := by
  have hlo : (s.wr64 lo hi v i j).rdn lo i j = v % 2 ^ 32 := by
    have hreg : (⟨lo, i, j⟩ : Reg) ≠ ⟨hi, i, j⟩ := fun h => hne (congrArg Reg.k h)
    rw [← State.rdn_wr_same s lo v i j]
    exact congrArg BitVec.toNat (State.reg_setReg_other _ _ hreg)
  have hhi : (s.wr64 lo hi v i j).rdn hi i j = v / 2 ^ 32 % 2 ^ 32 := by
    rw [← Nat.shiftRight_eq_div_pow]
    exact State.rdn_wr_same _ hi _ i j
  rw [State.rd64, hlo, hhi]
  omega

/-! Changes of named fields alone. -/

theorem fieldsOnly_trans {s t u : State} {fs : List Fld} (h : fieldsOnly s t fs) (h' : fieldsOnly t u fs) : fieldsOnly s u fs := by
  obtain ⟨ht, hst⟩ := h
  obtain ⟨hu, htu⟩ := h'
  refine ⟨?_, fun r i hi => (htu r i hi).trans (hst r i hi)⟩
  rw [hu, ht]

theorem fieldsOnly_put (s : State) {f : Fld} {fs : List Fld} (v : Nat) (hf : f ∈ fs) : fieldsOnly s (s.put f v) fs := by
  refine ⟨rfl, fun r i hi => ?_⟩
  by_cases hr : r = f.reg
  · subst hr
    rw [State.reg_put_same]
    exact Word.put_other _ (hi f hf rfl)
  · rw [State.reg_put_other s v hr]

theorem fieldsOnly_wr (s : State) {k : RegK} {i j : Nat} {fs : List Fld} (v : Nat) (hf : ⟨⟨k, i, j⟩, 31, 0⟩ ∈ fs) :
    fieldsOnly s (s.wr k v i j) fs := by
  refine ⟨rfl, fun r n hn => ?_⟩
  by_cases hr : r = ⟨k, i, j⟩
  · have h32 : 32 ≤ n := (hn _ hf hr.symm).elim (fun h => absurd h (Nat.not_lt_zero n)) id
    rw [BitVec.getLsbD_of_ge _ n h32, BitVec.getLsbD_of_ge _ n h32]
  · rw [State.wr, State.reg_setReg_other s _ hr]

/-! Epochs. -/

/-- Where a state takes EPOCH_ARM, ARM is 1 and IGN_CNT 0 after it (R37). -/
theorem execEpochArm_armed {s : State} (hm : s.stbyCal = true) (hl : s.flag clkRefStatLocked = true) :
    ∃ t, execEpochArm s = .next t ∧ fieldsOnly s t [clkEpochArm, clkEpochIgnCnt] ∧ t.flag clkEpochArm = true
      ∧ t.fld clkEpochIgnCnt = 0 := by
  refine ⟨(s.put clkEpochArm 1).put clkEpochIgnCnt 0, by simp [execEpochArm, hm, hl], ?_, ?_, ?_⟩
  · exact fieldsOnly_trans (fieldsOnly_put _ _ (by simp)) (fieldsOnly_put _ _ (by simp))
  · rw [State.flag_put_other _ _ (by decide)]
    exact State.flag_put_same s clkEpochArm true (by decide) rfl
  · exact State.fld_put_same _ clkEpochIgnCnt 0 (by decide) (by decide)

/-- Elsewhere EPOCH_ARM does nothing. -/
theorem execEpochArm_else {s : State} (h : ¬(s.stbyCal = true ∧ s.flag clkRefStatLocked = true)) : execEpochArm s = .next s := by
  have h' : ¬(s.stbyCal && s.flag clkRefStatLocked) = true := by simpa using h
  rw [execEpochArm, if_neg h']

/-- CLK_EPOCH after an epoch load: capture is no longer armed, ACQ is 1, SKEW_DONE and PHASE_ERR are 0 (R36, R37). -/
def State.epochLoaded (s : State) : State :=
  (((s.put clkEpochArm 0).put clkEpochAcq 1).put clkEpochSkewDone 0).put clkEpochPhaseErr 0

theorem State.flags_epochLoaded (s : State) :
    s.epochLoaded.flag clkEpochArm = false ∧ s.epochLoaded.flag clkEpochAcq = true ∧ s.epochLoaded.flag clkEpochSkewDone = false
      ∧ s.epochLoaded.flag clkEpochPhaseErr = false := by
  unfold State.epochLoaded
  refine ⟨?_, ?_, ?_, State.flag_put_same _ clkEpochPhaseErr false (by decide) rfl⟩
  · iterate 3 rw [State.flag_put_other _ _ (by decide)]
    exact State.flag_put_same _ clkEpochArm false (by decide) rfl
  · iterate 2 rw [State.flag_put_other _ _ (by decide)]
    exact State.flag_put_same _ clkEpochAcq true (by decide) rfl
  · rw [State.flag_put_other _ _ (by decide)]
    exact State.flag_put_same _ clkEpochSkewDone false (by decide) rfl

theorem State.reg_epochLoaded (s : State) {r : Reg} (h : r.k ≠ .clkEpoch) : s.epochLoaded.reg r = s.reg r := by
  have hne : r ≠ ⟨.clkEpoch, 0, 0⟩ := fun e => h (congrArg Reg.k e)
  unfold State.epochLoaded
  iterate 4 rw [State.reg_put_other _ _ hne]

/-- IGN_CNT and SVC_SYNC_TT after an edge that loads nothing (R370). -/
def State.latchSync (s : State) : State := (s.count clkEpochIgnCnt).wr64 .svcSyncTtLo .svcSyncTtHi s.now

/-- The state after an epoch load of V: TT is V, CLK_EPOCH tells of the load (R36, R37). -/
def State.atEpoch (s : State) (v : Nat) : State := (s.loadTT v).epochLoaded

theorem State.tt_atEpoch (s : State) (v : Nat) : (s.atEpoch v).tt = BitVec.ofNat 64 v := rfl

/-- Elapsed time, WT, the mode, the memories and the engines do not move with TT (R403). -/
theorem State.kept_atEpoch (s : State) (v : Nat) :
    (s.atEpoch v).up = s.up ∧ (s.atEpoch v).wtSec = s.wtSec ∧ (s.atEpoch v).wtNs = s.wtNs ∧ (s.atEpoch v).mode = s.mode
      ∧ (s.atEpoch v).sram = s.sram ∧ (s.atEpoch v).bulk = s.bulk ∧ (s.atEpoch v).engs = s.engs := by
  simp only [State.atEpoch, State.epochLoaded, State.loadTT, State.put, State.setReg, and_self]

theorem State.reg_atEpoch (s : State) (v : Nat) {r : Reg} (h : r.k ≠ .clkEpoch) : (s.atEpoch v).reg r = s.reg r :=
  State.reg_epochLoaded (s.loadTT v) h

section
variable {s : State} (hp : s.pllOn = true) (hl : s.flag clkRefStatLocked = true)
include hp hl

/-- An edge while capture is armed loads TT with V (R36, R37). -/
theorem execSyncEdge_armed {u : State} (hu : u = s.advanceTo (s.now + 10)) (ha : u.flag clkEpochArm = true) :
    execSyncEdge s = .next (u.atEpoch (u.rd64 .clkTtLoadLo .clkTtLoadHi)) := by
  subst hu
  simp [execSyncEdge, hp, hl, ha, State.atEpoch, State.epochLoaded]

/-- An edge while capture is not armed is latched and counted (R370). -/
theorem execSyncEdge_unarmed {u : State} (hu : u = s.advanceTo (s.now + 10)) (ha : u.flag clkEpochArm = false) :
    execSyncEdge s = .next u.latchSync := by
  subst hu
  simp [execSyncEdge, hp, hl, ha, State.latchSync]

end

theorem State.rd64_latchSync (s : State) : s.latchSync.rd64 .svcSyncTtLo .svcSyncTtHi = s.now :=
  State.rd64_wr64_same _ (by decide) s.now 0 0 s.tt.isLt

theorem State.fld_ignCnt_latchSync (s : State) : s.latchSync.fld clkEpochIgnCnt = min 255 (s.fld clkEpochIgnCnt + 1) := by
  unfold State.latchSync State.wr64
  rw [State.fld_wr_other _ _ _ _ (by decide), State.fld_wr_other _ _ _ _ (by decide)]
  exact State.fld_count_same s clkEpochIgnCnt 1 (by decide) (by decide)

theorem State.fieldsOnly_latchSync (s : State) :
    fieldsOnly s s.latchSync [clkEpochIgnCnt, ⟨⟨.svcSyncTtLo, 0, 0⟩, 31, 0⟩, ⟨⟨.svcSyncTtHi, 0, 0⟩, 31, 0⟩] :=
  fieldsOnly_trans (fieldsOnly_put s _ (by simp)) (fieldsOnly_trans (fieldsOnly_wr _ _ (by simp)) (fieldsOnly_wr _ _ (by simp)))

/-! Snapshots. -/

/-- One word of a snapshot, stored at its index. -/
def snapPut (k : RegK) (st : State) (e : Word × Nat) : State := st.setReg ⟨k, e.2, 0⟩ e.1

/-- Words stored from index n on leave every other register. -/
theorem State.reg_foldl_snapPut_other (k : RegK) (ws : List Word) {n : Nat} (s : State) {r : Reg} (h : r.k ≠ k ∨ r.i < n) :
    ((ws.zipIdx n).foldl (snapPut k) s).reg r = s.reg r := by
  induction ws generalizing n s with
  | nil => rfl
  | cons w ws ih =>
    have hne : r ≠ ⟨k, n, 0⟩ := by
      rintro rfl
      exact h.elim (fun hk => hk rfl) (Nat.lt_irrefl n)
    rw [List.zipIdx_cons, List.foldl_cons, ih (snapPut k s (w, n)) (h.imp_right Nat.lt_succ_of_lt)]
    exact State.reg_setReg_other s w hne

/-- The i-th word stored from index n on is read at index n + i. -/
theorem State.rd_foldl_snapPut (k : RegK) (ws : List Word) (n : Nat) (s : State) {i : Nat} (h : i < ws.length) :
    ((ws.zipIdx n).foldl (snapPut k) s).rd k (n + i) = ws.getD i 0 := by
  induction ws generalizing n s i with
  | nil => exact absurd h (Nat.not_lt_zero i)
  | cons w ws ih =>
    rw [List.zipIdx_cons, List.foldl_cons]
    cases i with
    | zero =>
      rw [State.rd, State.reg_foldl_snapPut_other k ws _ (.inr (Nat.lt_succ_self n))]
      exact State.reg_setReg_same s ⟨k, n, 0⟩ w
    | succ i =>
      have hi := ih (n + 1) (snapPut k s (w, n)) (Nat.lt_of_succ_lt_succ h)
      rwa [Nat.add_right_comm] at hi

/-- Words stored by `snapPut` change nothing but registers. -/
theorem State.frame_foldl_snapPut (k : RegK) (l : List (Word × Nat)) (s : State) :
    l.foldl (snapPut k) s = { s with regs := (l.foldl (snapPut k) s).regs } := by
  induction l generalizing s with
  | nil => rfl
  | cons e l ih => exact ih (snapPut k s e)

/-- TT and the WT stamp as SNAP_TAKE stores them (R40). -/
def State.snapped (s : State) : State :=
  s.wtStamp.zipIdx.foldl (snapPut .clkSnapWt) ((words64 s.now).zipIdx.foldl (snapPut .clkSnapTt) s)

theorem execSnapTake_powered {s : State} (h : s.power = true) : execSnapTake s = .next s.snapped := by
  unfold execSnapTake
  rw [h]
  rfl

theorem State.snapped_frame (s : State) : s.snapped = { s with regs := s.snapped.regs } := by
  rw [State.snapped, State.frame_foldl_snapPut, State.frame_foldl_snapPut .clkSnapTt]

theorem State.rd_snapTt_snapped (s : State) {i : Nat} (h : i < 2) : s.snapped.rd .clkSnapTt i = (words64 s.now).getD i 0 := by
  have hi := State.rd_foldl_snapPut .clkSnapTt (words64 s.now) 0 s h
  rw [Nat.zero_add] at hi
  exact (State.reg_foldl_snapPut_other .clkSnapWt _ _ (.inl (show RegK.clkSnapTt ≠ .clkSnapWt by decide))).trans hi

theorem State.rd_snapWt_snapped (s : State) {i : Nat} (h : i < 4) : s.snapped.rd .clkSnapWt i = s.wtStamp.getD i 0 := by
  have hl : i < s.wtStamp.length := by simpa [State.wtStamp] using h
  have hi := State.rd_foldl_snapPut .clkSnapWt s.wtStamp 0 ((words64 s.now).zipIdx.foldl (snapPut .clkSnapTt) s) hl
  rwa [Nat.zero_add] at hi

theorem State.reg_snapped_other (s : State) {r : Reg} (ht : r.k ≠ .clkSnapTt) (hw : r.k ≠ .clkSnapWt) : s.snapped.reg r = s.reg r :=
  (State.reg_foldl_snapPut_other .clkSnapWt _ _ (.inl hw)).trans (State.reg_foldl_snapPut_other .clkSnapTt _ _ (.inl ht))

/-! WT. -/

/-- The offset of a domain with a source, as it stands in u, moves by d (R53). -/
def State.moveOffset (u : State) (d : Int) (st : State) (b : Bool) : State :=
  if st.domSrc b = 0 then st else st.domOffset b ((u.dom b).offset + d)

theorem State.domOffset_frame (s : State) (b : Bool) (off : Int) :
    s.domOffset b off
      = { s with domA := (s.domOffset b off).domA, domB := (s.domOffset b off).domB, regs := (s.domOffset b off).regs } := by
  cases b <;> rfl

theorem State.reg_domOffset_other (s : State) (b : Bool) (off : Int) {r : Reg} (h : r.k ≠ .clkDomStat) :
    (s.domOffset b off).reg r = s.reg r := by
  have hne : r ≠ ⟨.clkDomStat, b2n b, 0⟩ := fun e => h (congrArg Reg.k e)
  unfold State.domOffset
  dsimp only
  rw [State.reg_put_other _ _ hne, State.reg_put_other _ _ hne]
  cases b <;> rfl

theorem State.dom_domOffset (s : State) (b c : Bool) (off : Int) :
    ((s.domOffset b off).dom c).offset = if c = b then off else (s.dom c).offset := by
  cases b <;> cases c <;> rfl

section
variable (u : State) (d : Int) (st : State) (b : Bool)

theorem State.moveOffset_frame :
    u.moveOffset d st b
      = { st with
          domA := (u.moveOffset d st b).domA, domB := (u.moveOffset d st b).domB, regs := (u.moveOffset d st b).regs } := by
  unfold State.moveOffset
  split
  · rfl
  · exact State.domOffset_frame ..

theorem State.reg_moveOffset_other {r : Reg} (h : r.k ≠ .clkDomStat) : (u.moveOffset d st b).reg r = st.reg r := by
  unfold State.moveOffset
  split
  · rfl
  · exact State.reg_domOffset_other st b _ h

theorem State.domSrc_moveOffset (c : Bool) : (u.moveOffset d st b).domSrc c = st.domSrc c := by
  have hr := State.reg_moveOffset_other u d st b (r := ⟨.clkTimeCtrl, 0, 0⟩) (by decide)
  cases c <;> simp only [State.domSrc, State.fld] <;> exact congrArg (fun w => Word.bits w _ _) hr

theorem State.dom_moveOffset_other {c : Bool} (h : c ≠ b) :
    ((u.moveOffset d st b).dom c).offset = (st.dom c).offset := by
  unfold State.moveOffset
  split
  · rfl
  · rw [State.dom_domOffset, if_neg h]

theorem State.dom_moveOffset_same (h : (st.dom b).offset = (u.dom b).offset) :
    ((u.moveOffset d st b).dom b).offset = (u.dom b).offset + (if st.domSrc b = 0 then 0 else d) := by
  unfold State.moveOffset
  split
  · rw [h, Int.add_zero]
  · rw [State.dom_domOffset, if_pos rfl]

end

/-- By how many nanoseconds WT moves when it is set. -/
def State.wtMove (s : State) (sec ns : Nat) : Int := ((sec * 1000000000 + ns : Nat) : Int) - (s.wtSec * 1000000000 + s.wtNs : Nat)

section
variable (s : State) (sec ns frac : Nat)

/-- A state with its WT replaced, the offsets of its domains still as they were. -/
def State.withWt : State := { s.markWt with wtSec := sec, wtNs := ns, wtFrac := frac }

/-- WT is replaced, then the offset of each domain moves with it. -/
theorem State.setWt_eq :
    s.setWt sec ns frac
      = s.moveOffset (s.wtMove sec ns) (s.moveOffset (s.wtMove sec ns) (s.withWt sec ns frac) false) true := rfl

theorem State.setWt_frame :
    s.setWt sec ns frac
      = { s with
          wtSec := sec, wtNs := ns, wtFrac := frac, wtLog := (s.setWt sec ns frac).wtLog, regs := (s.setWt sec ns frac).regs
          domA := (s.setWt sec ns frac).domA, domB := (s.setWt sec ns frac).domB } := by
  rw [State.setWt_eq, State.moveOffset_frame, State.moveOffset_frame s _ _ false]
  rfl

@[simp] theorem State.wtSec_setWt : (s.setWt sec ns frac).wtSec = sec := by rw [State.setWt_frame]

@[simp] theorem State.wtNs_setWt : (s.setWt sec ns frac).wtNs = ns := by rw [State.setWt_frame]

theorem State.reg_setWt_other {r : Reg} (h : r.k ≠ .clkDomStat) : (s.setWt sec ns frac).reg r = s.reg r := by
  rw [State.setWt_eq, State.reg_moveOffset_other s _ _ _ h, State.reg_moveOffset_other s _ _ _ h]
  rfl

/-- The offset of a domain with a source moves with WT; a domain without one keeps it (R53). -/
theorem State.dom_setWt (b : Bool) :
    ((s.setWt sec ns frac).dom b).offset = (s.dom b).offset + (if s.domSrc b = 0 then 0 else s.wtMove sec ns) := by
  rw [State.setWt_eq]
  cases b with
  | false =>
    rw [State.dom_moveOffset_other _ _ _ _ (by decide)]
    exact State.dom_moveOffset_same s _ (s.withWt sec ns frac) false rfl
  | true =>
    have h : ((s.moveOffset (s.wtMove sec ns) (s.withWt sec ns frac) false).dom true).offset = (s.dom true).offset :=
      State.dom_moveOffset_other s _ _ false (by decide)
    rw [State.dom_moveOffset_same _ _ _ _ h, State.domSrc_moveOffset]
    rfl

end

section
variable {s : State} (hp : s.power = true) (hm : s.mode ≠ .boot)
include hp hm

/-- A load that is permitted sets WT at the next tick to what CLK_WT_SET holds, its fraction to 0 (R50). -/
theorem execLoadWt_permitted (h : s.stepOk = true) :
    execLoadWt s = .next ((s.advanceTo (s.now + 1)).setWt (s.rd64 .clkWtSetSecLo .clkWtSetSecHi % 2 ^ 48) (s.rdn .clkWtSetNs) 0) := by
  simp [execLoadWt, hp, hm, h]

/-- A load that is not permitted sets STEP_REFUSED (R50). -/
theorem execLoadWt_refused (h : ¬s.stepOk = true) : execLoadWt s = .next (s.raiseBit clkTimeCtrlStepRefused) := by
  simp [execLoadWt, hp, hm, h]

end

/-- Settles O41: capture, its edges, snapshots and loads of WT, each by what its command does to named registers. -/
theorem epochsAndSnapshots : Obligations.EpochsAndSnapshots := by
  unfold Obligations.EpochsAndSnapshots
  refine ⟨fun s => ?_, fun s hp hl ha => ?_, fun s hp hl ha => ?_, fun s hp => ?_, fun s hp hm => ?_⟩
  · by_cases h : s.stbyCal = true ∧ s.flag clkRefStatLocked = true
    · simp only [if_pos h]
      obtain ⟨hm, hl⟩ := h
      exact execEpochArm_armed hm hl
    · simp only [if_neg h]
      exact ⟨s, execEpochArm_else h, rfl⟩
  · generalize hu : s.advanceTo (s.now + 10) = u at ha ⊢
    obtain ⟨hArm, hAcq, hSkew, hErr⟩ := State.flags_epochLoaded (u.loadTT (u.rd64 .clkTtLoadLo .clkTtLoadHi))
    obtain ⟨hUp, hSec, hNs, hMode, hSram, hBulk, hEngs⟩ := State.kept_atEpoch u (u.rd64 .clkTtLoadLo .clkTtLoadHi)
    refine ⟨_, execSyncEdge_armed hp hl hu.symm ha, State.tt_atEpoch .., hUp, hArm, hAcq, hSkew, hErr, hSec, hNs, hMode.trans ?_,
      hSram.trans ?_, hBulk.trans ?_, hEngs, fun r hr => State.reg_atEpoch u _ hr⟩
    · rw [← hu, State.mode_advanceTo]
    · rw [← hu, State.sram_advanceTo]
    · rw [← hu, State.bulk_advanceTo]
  · exact ⟨_, execSyncEdge_unarmed hp hl rfl ha, State.rd64_latchSync _, State.fld_ignCnt_latchSync _, State.fieldsOnly_latchSync _⟩
  · refine ⟨_, execSnapTake_powered hp, State.snapped_frame s, State.rd_snapTt_snapped s (by decide), ?_,
      fun i hi => State.rd_snapWt_snapped s hi, fun r ht hw => State.reg_snapped_other s ht hw⟩
    rw [State.rd_snapTt_snapped s (by decide), ← Nat.shiftRight_eq_div_pow]
    rfl
  · by_cases h : s.stepOk = true
    · simp only [if_pos h]
      refine ⟨_, execLoadWt_permitted hp hm h, State.setWt_frame .., fun r hr => State.reg_setWt_other _ _ _ _ hr, fun b => ?_⟩
      rw [State.dom_setWt, State.wtSec_setWt, State.wtNs_setWt, State.wtMove]
    · simp only [if_neg h]
      exact ⟨_, execLoadWt_refused hp hm h, fieldsOnly_put s 1 (List.mem_singleton.mpr rfl),
        State.flag_put_same s clkTimeCtrlStepRefused true (by decide) rfl⟩

end Sys2Proof.Machine
end
